-- ==== Sys2Proof/Word.lean ====
section
/-! DEFINITION. The word types of the SV-820: bytes, 32-bit sums and MAC addresses. -/

namespace Sys2Proof

/-- One byte on either port. -/
abbrev Byte := BitVec 8

/-- A sum of weights, kept modulo 2^32 (R92). -/
abbrev Sum := BitVec 32

/-- A 48-bit Ethernet address. -/
abbrev Mac := BitVec 48

end Sys2Proof
end

