-- ==== Sys2Proof/Syntax.lean ====
section
/-! DEFINITION. The commands of the SV-820: one constructor for each row of the opcode table. -/

namespace Sys2Proof

/-- A character taken in from the validator bus, with its framing error mark (R119). -/
structure RxChar where
  byte         : Byte
  framingError : Bool
deriving DecidableEq, Repr

/-- The steps of the part, in the order of the opcode table. A command acts on what stands in State;
only what comes from outside the part is an operand. -/
inductive Instr where
  /-- R190. Power-on or release of the reset input, with the levels of the eight strap inputs. -/
  | coldReset (straps : Byte)
  /-- R1. A frame arrives, from the first byte of its destination to the last of its check sequence. -/
  | frameArrival (frame : List Byte)
  /-- R108 to R111. The BEACON at the head of the ingress queue. -/
  | beacon
  /-- R9 to R11, R21. The NOTICE at the head. -/
  | notice
  /-- R9, R12. The SEGMENT at the head is mapped and checked. -/
  | segmentCheck
  /-- R13. The waiting SEGMENT is tested for matching. -/
  | segmentMatch
  /-- R62. A granted apply operation. -/
  | applyItem
  /-- R78. -/
  | retireSlot
  /-- R79. -/
  | undoSlot
  /-- R80. -/
  | reclaimSlot
  /-- R81. -/
  | clearSlot
  /-- R106. -/
  | localSecond
  /-- R107. The local second that takes a LOCKED clock to HOLDOVER. -/
  | holdoverEntry
  /-- R151. -/
  | scannerVisit
  /-- R153. -/
  | tallySlotRead
  /-- R155. -/
  | batchSlotRead
  /-- R146. -/
  | broadcastSwitch
  /-- R122, R125. -/
  | busFrameSent
  /-- R123. Characters arrive on the validator bus, in this order. -/
  | replyReceived (chars : List RxChar)
  /-- R122. -/
  | replyWindowEnd
  /-- R123, R126. -/
  | lineIdleGap
  /-- R143. -/
  | turnaroundGapEnd
  /-- R147. -/
  | quietIntervalEnd
  /-- R167. -/
  | postBroadcastGapEnd
  /-- R134. -/
  | postResetGapEnd
  /-- R176. -/
  | status
  /-- R50. -/
  | setSplit
  /-- R43, R46. -/
  | subscribe
  /-- R136. -/
  | setClass
  /-- R138. -/
  | setPosition
  /-- R178. -/
  | setTiming
  /-- R177. -/
  | setAddressing
  /-- R182. -/
  | events
  /-- R182. -/
  | acknowledge
  /-- R39. -/
  | hold
  /-- R39. -/
  | release
  /-- R41. -/
  | rollback
  /-- R43. -/
  | clear
  /-- R186. -/
  | inspect
  /-- R187. -/
  | inspectNext
  /-- R186. -/
  | inspectSlotRead
  /-- R189. -/
  | save
  /-- R189. -/
  | saveWriteComplete
  /-- R191. -/
  | restart
  /-- R183. -/
  | egressFrameSent
  /-- R184. -/
  | periodicStanding
  /-- R190. Power is lost or the reset input is asserted. -/
  | resetAsserted
  /-- R122. A start bit arrives on the validator bus. -/
  | replyStart
deriving DecidableEq, Repr

end Sys2Proof
end

