-- ==== Sys2Proof/Decode.lean ====
section
/-! DEFINITION. Decoding by the opcode table: no row of this table gives bits. -/

namespace Sys2Proof

/-- The command that a word spells by the table's bits: none, since no row gives bits. -/
def decodeTableWord (_nbits _w : Nat) : Option Instr := none

end Sys2Proof
end

