-- ==== Sys2Proof/Config.lean ====
section
/-! DEFINITION. What the spec leaves open: the free values. No proof can see their values. -/

namespace Sys2Proof

/-- Whether lane B takes a fleet clock report before lane P when both would activate at it.
R115 sends the reports "separately" and fixes no order (log 10). -/
opaque Config.laneBReportsFirst : Nat → Bool

/-- Whether the write of a SAVE cut by a cold reset completed. R189: the place being written is left
"invalid or complete" (log 11). -/
opaque Config.cutSaveCompletes : Nat → Bool

/-- Whether the grant of an item's operation was taken before the discard or reset that arrives with it.
R61: "the outcome depends on which is taken first" (log 39). -/
opaque Config.itemGrantedFirst : Nat → Bool

/-- The lane byte and the two cursor bytes of a STANDING with no sweep in progress. R74 reports "the kind, lane
and cursor of the sweep in progress, if there is one", and section 11.3 states the kind 00h alone where there
is none (log 40). -/
opaque Config.noSweepBytes : Nat → BitVec 24

end Sys2Proof
end

