-- ==== Sys2Proof/Machine/State.lean ====
section
/-! DEFINITION. The state of the SV-820, block by block, and its value after a cold reset. -/

namespace Sys2Proof.Machine

/-! ### Lanes and per-lane data -/

/-- The two lanes: B (blocklist) and P (products). -/
inductive Lane where
  | b
  | p
deriving DecidableEq, Repr

/-- The other lane. -/
def Lane.other : Lane → Lane
  | .b => .p
  | .p => .b

/-- One value for each lane. -/
structure PerLane (α : Type) where
  b : α
  p : α
deriving DecidableEq, Repr

/-- The value of a lane. -/
def PerLane.get {α : Type} (x : PerLane α) : Lane → α
  | .b => x.b
  | .p => x.p

/-- Replaces the value of a lane. -/
def PerLane.set {α : Type} (x : PerLane α) (l : Lane) (v : α) : PerLane α :=
  match l with
  | .b => { x with b := v }
  | .p => { x with p := v }

/-! ### Digests (R92, R94) -/

/-- A level's count and sum. -/
structure LevelFigure where
  count : Nat
  sum   : Sum
deriving DecidableEq, Repr

/-- Count and sum of a generation, with the histogram of its eight levels. Lane P leaves the histogram
at zero (R47). -/
structure Digest where
  count  : Nat
  sum    : Sum
  levels : Vector LevelFigure 8
deriving DecidableEq, Repr

/-- The digest of the empty set. -/
def Digest.zero : Digest :=
  { count := 0, sum := 0, levels := Vector.replicate 8 { count := 0, sum := 0 } }

/-! ### The lane record (R17) -/

inductive LaneState where
  | idle
  | retiring
  | staging
  | ready
  | discarding
deriving DecidableEq, Repr

inductive DiscardReason where
  | noReason
  | content
  | digest
  | overtaken
  | revised
  | storeFull
  | aborted
deriving DecidableEq, Repr

/-- A lane command waiting for a sweep to complete. -/
inductive LaneCommand where
  | rollback
  | clear
  | subscribe (stream : Nat)
deriving DecidableEq, Repr

/-- The fields copied from the NOTICE being staged. -/
structure StagedNotice where
  g     : Nat
  b     : Nat
  n     : Nat
  count : Nat
  sum   : Sum
  e     : Nat
deriving DecidableEq, Repr

/-- A history record: a generation with its digest. -/
structure HistoryRecord where
  generation : Nat
  digest     : Digest
deriving DecidableEq, Repr

/-- The lane record of R17. -/
structure LaneRec where
  state          : LaneState
  active         : Nat
  activeDigest   : Digest
  history        : List HistoryRecord
  floor          : Nat
  staged         : Option StagedNotice
  stagedDigest   : Digest
  segmentMap     : List Nat
  undoDeferred   : Bool
  pendingCommand : Option LaneCommand
  viewNewest     : Nat
  viewOldest     : Nat
  hold           : Bool
  lastReason     : DiscardReason
  lateness       : Nat
  repeats        : Nat
  duplicates     : Nat
  absentDrops    : Nat
  discards       : Nat
deriving DecidableEq, Repr

/-- The lane record after a cold reset (R18). -/
def LaneRec.cold : LaneRec :=
  { state := .idle, active := 0, activeDigest := Digest.zero, history := [], floor := 0,
    staged := none, stagedDigest := Digest.zero, segmentMap := [], undoDeferred := false,
    pendingCommand := none, viewNewest := 0, viewOldest := 0, hold := false,
    lastReason := .noReason, lateness := 0, repeats := 0, duplicates := 0, absentDrops := 0,
    discards := 0 }

/-! ### Carousel messages (section 1.2) -/

structure Notice where
  stream : Nat
  kind   : Lane
  g      : Nat
  b      : Nat
  n      : Nat
  count  : Nat
  sum    : Sum
  e      : Nat
  newest : Nat
  oldest : Nat
deriving DecidableEq, Repr

inductive BlockOp where
  | add
  | drop
deriving DecidableEq, Repr

/-- A blocklist item as parsed; a priority above 7 and a token of 0 are content errors (R64). -/
structure BlockItem where
  op       : BlockOp
  priority : Nat
  token    : Nat
deriving DecidableEq, Repr

/-- A product record as it travels in a SEGMENT or a BATCH. -/
structure ProductRecord where
  code       : Nat
  fare       : Nat
  concession : Option Nat
  firstDay   : Nat
  lastDay    : Option Nat
  transfer   : Option Nat
  zones      : List Nat
deriving DecidableEq, Repr

/-- The items of a SEGMENT, by the lane it belongs to. -/
inductive SegmentItems where
  | block (items : List BlockItem)
  | product (items : List ProductRecord)
deriving DecidableEq, Repr

structure Segment where
  stream : Nat
  g      : Nat
  b      : Nat
  index  : Nat
  items  : SegmentItems
deriving DecidableEq, Repr

/-- The lane whose item format a segment holds. -/
def Segment.lane (seg : Segment) : Lane :=
  match seg.items with
  | .block _ => .b
  | .product _ => .p

/-! ### The uplink port (chapter 1) and the egress queue (R183) -/

inductive CarouselKind where
  | notice
  | segment
  | beacon
deriving DecidableEq, Repr

/-- A message on the ingress queue: its kind and its body, not parsed at the port (R3). -/
structure IngressMessage where
  kind : CarouselKind
  body : List Byte
deriving DecidableEq, Repr

/-- A CONTROL on the control queue. Its tag, command and arguments are examined when it is taken. -/
structure ControlMessage where
  unitId : Byte
  tag    : Byte
  code   : Byte
  args   : List Byte
deriving DecidableEq, Repr

inductive OutboundKind where
  | answer
  | standing
  | alert
deriving DecidableEq, Repr

/-- A message on the egress queue with the addresses recorded at placing (R183), and whether it is the
ANSWER of a RESTART, whose sending brings the warm reset (R191). -/
structure OutboundMessage where
  kind       : OutboundKind
  body       : List Byte
  unitMac    : Mac
  gatewayMac : Mac
  etherType  : BitVec 16
  restart    : Bool
deriving DecidableEq, Repr

/-- The uplink counters (R15). -/
structure UplinkCounters where
  framesTaken   : Nat
  checkFailures : Nat
  foreignFrames : Nat
  ingressDrops  : Nat
  controlDrops  : Nat
  malformed     : Nat
  passedOver    : Nat
  alertsDropped : Nat
deriving DecidableEq, Repr

def UplinkCounters.zero : UplinkCounters :=
  { framesTaken := 0, checkFailures := 0, foreignFrames := 0, ingressDrops := 0, controlDrops := 0,
    malformed := 0, passedOver := 0, alertsDropped := 0 }

structure Uplink where
  counters    : UplinkCounters
  ingress     : List IngressMessage
  checkedHead : Option Segment
  control     : List ControlMessage
  egress      : List OutboundMessage
  /-- The frame last sent on the uplink port (log 29). -/
  lastFrame   : List Byte
deriving DecidableEq, Repr

/-- The uplink port after a reset (R16, R190). -/
def Uplink.cold : Uplink :=
  { counters := UplinkCounters.zero, ingress := [], checkedHead := none, control := [], egress := [],
    lastFrame := [] }

/-! ### The entry store (chapter 3) -/

/-- A blocklist entry (R51); `removed = none` is OPEN. -/
structure BlockEntry where
  token    : Nat
  priority : Fin 8
  added    : Nat
  removed  : Option Nat
deriving DecidableEq, Repr

/-- A product head (R52), with the first four zones of its record. -/
structure ProductHead where
  code       : Nat
  fare       : Nat
  concession : Option Nat
  firstDay   : Nat
  lastDay    : Option Nat
  transfer   : Option Nat
  zoneCount  : Nat
  zones      : List Nat
  added      : Nat
  removed    : Option Nat
  tail       : Option Nat
deriving DecidableEq, Repr

/-- A product tail (R52): zones 5 to 8 and the slot of its head. -/
structure ProductTail where
  zones : List Nat
  head  : Nat
deriving DecidableEq, Repr

/-- The contents of an occupied slot. -/
inductive Entry where
  | block (e : BlockEntry)
  | head (h : ProductHead)
  | tail (t : ProductTail)
deriving DecidableEq, Repr

/-- A region of the store: its occupied slots in rising order. An unlisted slot is FREE (R49). -/
abbrev Memory := List (Nat × Entry)

/-- The requesters of the store arbiter, in their cyclic order (R60). -/
inductive Requester where
  | apply
  | sweeper
  | scanner
  | control
deriving DecidableEq, Repr

/-- The apply engine (R62). `retry` marks an item tried again after the RECLAIM it waited for (R71).
`finishing` is APPLYING with an item granted before its lane left STAGING, still to be finished (R63). -/
inductive Engine where
  | empty
  | applying (seg : Segment) (pos : Nat) (retry : Bool)
  | waiting (seg : Segment) (pos : Nat)
  | finishing (seg : Segment) (pos : Nat)
deriving DecidableEq, Repr

structure Store where
  regions     : PerLane Memory
  free        : PerLane Nat
  lastGranted : Requester
  engine      : Engine
deriving DecidableEq, Repr

/-! ### The sweeper (R74) -/

inductive SweepKind where
  | retire (generation : Nat)
  | undo (generation : Nat)
  | reclaim
  | clear
deriving DecidableEq, Repr

structure SweepRequest where
  lane   : Lane
  kind   : SweepKind
  waiter : Bool
deriving DecidableEq, Repr

structure Sweep where
  request : SweepRequest
  cursor  : Nat
deriving DecidableEq, Repr

structure Sweeper where
  requests : List SweepRequest
  sweep    : Option Sweep
deriving DecidableEq, Repr

/-! ### The fleet clock (R104) -/

inductive ClockState where
  | unset
  | locked
  | holdover
deriving DecidableEq, Repr

structure Clock where
  value    : Nat
  state    : ClockState
  debt     : Nat
  timer    : Nat
  rejected : Nat
deriving DecidableEq, Repr

/-- The fleet clock after a cold reset (R117). -/
def Clock.cold : Clock := { value := 0, state := .unset, debt := 0, timer := 0, rejected := 0 }

/-! ### The validator bus (chapter 7) -/

/-- An item of a BATCH (R130). -/
inductive BatchItem where
  | block (token : Nat) (priority : Fin 8)
  | product (r : ProductRecord)
deriving DecidableEq, Repr

/-- The frames the part sends (section 7.4). -/
inductive BusFrame where
  | poll
  | open (l : Lane) (generation : Nat) (count : Nat) (cutoff : Nat) (truncated : Bool)
  | batch (l : Lane) (generation : Nat) (number : Nat) (items : List BatchItem)
  | close (l : Lane) (generation : Nat)
  | switch (l : Lane) (generation : Nat)
  | drop (l : Lane) (generation : Nat)
deriving DecidableEq, Repr

/-- The contents of a STATUS (R128). -/
structure StatusReport where
  held     : PerLane Nat
  staged   : PerLane Nat
  ready    : PerLane Bool
  capacity : Nat
deriving DecidableEq, Repr

/-- The replies of a validator (section 7.4). -/
inductive Reply where
  | status (r : StatusReport)
  | accept
  | ack (number : Option Nat)
  | confirm (count : Nat) (sum : Sum)
  | refuseCapacity (capacity : Nat)
  | refuseBusy
  | refuseGeneration
deriving DecidableEq, Repr

inductive MissKind where
  | silent
  | damaged
  | wrong
deriving DecidableEq, Repr

/-- The outcome of an addressed exchange (R124). -/
inductive ExchangeOutcome where
  | good (r : Reply)
  | miss (k : MissKind)
deriving DecidableEq, Repr

/-- An addressed exchange in flight. `pos` counts positions from 0, position 1 first. `nextCursor` is
the slot after the last item of a BATCH (R156). `recordGone` and `deliveryGone` record that the
position's record was set up anew (R143), or the frame's delivery abandoned (R161), meanwhile. -/
structure Addressed where
  pos          : Fin 16
  frame        : BusFrame
  nextCursor   : Nat
  recordGone   : Bool
  deliveryGone : Bool
deriving DecidableEq, Repr

/-- A SWITCH of the broadcast list (R146). -/
structure Switch where
  lane       : Lane
  generation : Nat
deriving DecidableEq, Repr

inductive Exchange where
  | addressed (x : Addressed)
  | broadcast (w : Switch)
deriving DecidableEq, Repr

/-- The link state with the exchange it concerns (R122). The last three are the state GAP. -/
inductive Link where
  | idle
  | sending (x : Exchange)
  | waiting (x : Addressed)
  | receiving (x : Addressed) (chars : List RxChar)
  | turnaround (x : Addressed) (o : ExchangeOutcome)
  | postBroadcast (w : Switch)
  | postReset
deriving DecidableEq, Repr

structure Bus where
  link     : Link
  strayRun : Bool
  damaged  : Nat
  wrong    : Nat
  stray    : Nat
  /-- The frame last handed to the line (log 29). -/
  line     : List Byte
deriving DecidableEq, Repr

/-- The bus after a cold reset (R134). -/
def Bus.cold : Bus :=
  { link := .idle, strayRun := false, damaged := 0, wrong := 0, stray := 0, line := [] }

/-! ### Settings (R188) -/

structure ClassRec where
  capacity        : Nat
  takesProducts   : Bool
  productCapacity : Nat
  batchSize       : Nat
deriving DecidableEq, Repr

structure Addressing where
  unitId     : Byte
  unitMac    : Mac
  groupMac   : Mac
  gatewayMac : Mac
  etherType  : BitVec 16
deriving DecidableEq, Repr

/-- The working settings. `subs` is the stream filter's subscription table (R9); a roster entry of
`none` is VACANT (R137). -/
structure Settings where
  addressing : Addressing
  split      : Fin 4
  subs       : PerLane Nat
  classes    : Vector ClassRec 8
  roster     : Vector (Option (Fin 8)) 16
  quiet      : Fin 4
  period     : Fin 13
  enables    : BitVec 16
deriving DecidableEq, Repr

/-- The settings loaded when the settings memory has never been written (R2, R135, R188). -/
def Settings.default (straps : Byte) : Settings :=
  { addressing :=
      { unitId := straps, unitMac := 0x0200000000#40 ++ straps, groupMac := BitVec.allOnes 48,
        gatewayMac := BitVec.allOnes 48, etherType := 0x88B5#16 },
    split := 1,
    subs := { b := 0, p := 0 },
    classes :=
      (Vector.replicate 8
        { capacity := 0, takesProducts := false, productCapacity := 0, batchSize := 16 }).set 0
        { capacity := 8192, takesProducts := true, productCapacity := 1024, batchSize := 16 },
    roster := Vector.replicate 16 (some 0),
    quiet := 2, period := 0, enables := 0 }

/-- A valid record place: a settings record and its save number. -/
structure SavedRecord where
  settings : Settings
  number   : Nat
deriving DecidableEq, Repr

inductive Place where
  | first
  | second
deriving DecidableEq, Repr

/-- The settings memory: two record places, `none` where the check value disagrees (R188), and the
place whose record was last loaded or saved (R189). -/
structure SettingsMemory where
  place1    : Option SavedRecord
  place2    : Option SavedRecord
  lastPlace : Option Place
deriving DecidableEq, Repr

/-! ### The feed scanner (chapters 8 and 9) -/

inductive Presence where
  | vacant
  | seeking
  | settling
  | present
  | silent
deriving DecidableEq, Repr

inductive DeliveryState where
  | idle
  | opening
  | sending
  | closing
deriving DecidableEq, Repr

/-- The delivery sub-record (R139). `refix` marks an OPENING whose figures are to be fixed afresh at
the next visit (R152). -/
structure Delivery where
  state       : DeliveryState
  target      : Nat
  capacity    : Nat
  cutoff      : Nat
  truncated   : Bool
  expectCount : Nat
  expectSum   : Sum
  running     : Sum
  cursor      : Nat
  sent        : Nat
  batchNo     : Nat
  attempts    : Nat
  refix       : Bool
deriving DecidableEq, Repr

/-- An IDLE sub-record with a confirmed generation (0 for none) and every other figure 0. -/
def Delivery.idleWith (confirmed : Nat) : Delivery :=
  { state := .idle, target := confirmed, capacity := 0, cutoff := 0, truncated := false,
    expectCount := 0, expectSum := 0, running := 0, cursor := 0, sent := 0, batchNo := 0,
    attempts := 0, refix := false }

/-- The per-lane part of a validator record (R139). -/
structure ValidatorLane where
  held     : Nat
  pending  : Nat
  ready    : Bool
  delivery : Delivery
  faulty   : Nat
  unfit    : Nat
  dropOwed : Nat
deriving DecidableEq, Repr

def ValidatorLane.anew : ValidatorLane :=
  { held := 0, pending := 0, ready := false, delivery := Delivery.idleWith 0, faulty := 0,
    unfit := 0, dropOwed := 0 }

structure Validator where
  presence     : Presence
  goodRun      : Nat
  missRun      : Nat
  lastCapacity : Nat
  missCounter  : Nat
  lanes        : PerLane ValidatorLane
deriving DecidableEq, Repr

/-- A validator record set up anew (R139). -/
def Validator.anew (entry : Option (Fin 8)) : Validator :=
  { presence := match entry with
      | some _ => .seeking
      | none => .vacant,
    goodRun := 0, missRun := 0, lastCapacity := 0, missCounter := 0,
    lanes := { b := ValidatorLane.anew, p := ValidatorLane.anew } }

/-- Where the scanner stands between visits (R145 to R149). `paused` holds the quiet interval of the
pause in milliseconds; `roundDue` is a round still to begin behind a waiting broadcast. -/
inductive ScanPhase where
  | visiting
  | roundDue
  | paused (ms : Nat)
  | awaitReset
deriving DecidableEq, Repr

/-- The BATCH being built at a visit (R155): the next slot to read and the items found. -/
structure Build where
  pos    : Fin 16
  lane   : Lane
  cursor : Nat
  items  : List (Nat × BatchItem)
deriving DecidableEq, Repr

inductive ReadKind where
  | tally
  | batch
deriving DecidableEq, Repr

structure TallyEntry where
  generation : Nat
  tally      : Nat
deriving DecidableEq, Repr

/-- The tally walk under way (R153). -/
structure Walk where
  generation : Nat
  cursor     : Nat
  tally      : Nat
deriving DecidableEq, Repr

structure Scanner where
  records   : Vector Validator 16
  broadcast : List Switch
  roundNo   : Nat
  phase     : ScanPhase
  nextPos   : Nat
  exchanged : Bool
  reported  : Bool
  build     : Option Build
  read      : Option ReadKind
  tally     : List TallyEntry
  walk      : Option Walk
deriving DecidableEq, Repr

/-! ### The control unit (chapter 10) -/

/-- The command an ANSWER echoes: identifier, tag and code. -/
structure CommandHead where
  unitId : Byte
  tag    : Byte
  code   : Byte
deriving DecidableEq, Repr

/-- A slot as INSPECT reports it. -/
structure SlotReport where
  slot  : Nat
  entry : Option Entry
deriving DecidableEq, Repr

/-- What a command CARRYING OUT waits for (R173). -/
inductive CommandWork where
  | lane (l : Lane)
  | inspect (left : Nat) (done : List SlotReport)
  | save (place : Place) (saved : SavedRecord)
  | restart
deriving DecidableEq, Repr

/-- An ANSWER built, with the change of addressing that follows its placing (R177) and whether it is
RESTART's. -/
structure PendingAnswer where
  head       : CommandHead
  body       : List Byte
  addressing : Option Addressing
  restart    : Bool
deriving DecidableEq, Repr

inductive CommandState where
  | available
  | carryingOut (h : CommandHead) (w : CommandWork)
  | placing (a : PendingAnswer)
deriving DecidableEq, Repr

inductive ResetCause where
  | cold
  | warm
deriving DecidableEq, Repr

structure Control where
  command     : CommandState
  flags       : BitVec 16
  alertNo     : Nat
  inspectLane : Lane
  inspectSlot : Nat
  reportTimer : Nat
  cause       : ResetCause
deriving DecidableEq, Repr

/-! ### The whole part -/

/-- Whether the part runs or is held by the reset input or the loss of power (R190). -/
inductive Power where
  | running
  | heldInReset
deriving DecidableEq, Repr

structure State where
  pending   : List Instr
  /-- The model's own counter that feeds the free values of Config (log 10, 11, 39, 40). -/
  choices   : Nat
  power     : Power
  straps    : Byte
  settings  : Settings
  settingsMemory : SettingsMemory
  uplink    : Uplink
  lanes     : PerLane LaneRec
  store     : Store
  sweeper   : Sweeper
  clock     : Clock
  bus       : Bus
  scan      : Scanner
  ctl       : Control
deriving DecidableEq, Repr

/-- No command of the part ends in a fault: the spec counts, flags or answers every error, and stops
at none. The type has no constructor. -/
inductive Fault where
deriving DecidableEq, Repr

/-- Reasons to refuse a command. -/
inductive Refusal where
  /-- Raised by Dispatch for a command without a meaning; safe. No command is without one. -/
  | notModelled (mnemonic : String)
deriving DecidableEq, Repr

/-- The part right after the cold reset of a unit whose settings memory has never been written and
whose straps read 00h (log 4, 5): every block at its cold values, RESTARTED set (R190) and round 0
begun (R149). -/
def State.reset : State :=
  { pending := [], choices := 0, power := .running, straps := 0,
    settings := Settings.default 0,
    settingsMemory := { place1 := none, place2 := none, lastPlace := none },
    uplink := Uplink.cold,
    lanes := { b := LaneRec.cold, p := LaneRec.cold },
    store :=
      { regions := { b := [], p := [] }, free := { b := 57344, p := 8192 },
        lastGranted := .control, engine := .empty },
    sweeper := { requests := [], sweep := none },
    clock := Clock.cold,
    bus := Bus.cold,
    scan :=
      { records := Vector.replicate 16 (Validator.anew (some 0)), broadcast := [], roundNo := 0,
        phase := .visiting, nextPos := 0, exchanged := false, reported := false, build := none,
        read := none, tally := [], walk := none },
    ctl :=
      { command := .available, flags := 0x8000, alertNo := 0, inspectLane := .b, inspectSlot := 0,
        reportTimer := 0, cause := .cold } }

end Sys2Proof.Machine
end

