-- ==== Sys2Proof/Machine/Layouts.lean ====
section
/-! DEFINITION. Byte layouts (chapter 11): fields, check sequences, messages out, bus frames, slot
records. -/

namespace Sys2Proof.Machine

/-! ### Fields -/

/-- A field of `n` bytes, most significant first. -/
def be : Nat → Nat → List Byte
  | 0, _ => []
  | n + 1, v => BitVec.ofNat 8 (v / 256 ^ n) :: be n v

/-- The value of a field sent most significant byte first. -/
def beNat (bs : List Byte) : Nat := bs.foldl (fun acc b => acc * 256 + b.toNat) 0

/-- The bytes `off` to `off + n - 1` of a body, as a figure. -/
def field (bs : List Byte) (off n : Nat) : Nat := beNat ((bs.drop off).take n)

/-- Zero bytes up to a length. -/
def padTo (n : Nat) (bs : List Byte) : List Byte := bs ++ List.replicate (n - bs.length) 0

def laneCode : Lane → Nat
  | .b => 1
  | .p => 2

/-- A lane field; any other value makes a message unparseable (chapter 11). -/
def laneOf (v : Nat) : Option Lane :=
  if v = 1 then some .b else if v = 2 then some .p else none

def yesNo (x : Bool) : Nat := if x then 1 else 0

/-- A yes or no field (chapter 11). -/
def yesNoOf (v : Nat) : Option Bool :=
  if v = 1 then some true else if v = 0 then some false else none

/-! ### Check sequences -/

/-- One bit into the register of the frame check sequence, least significant end first (R1). -/
def fcsBit (r : BitVec 32) (bit : Bool) : BitVec 32 :=
  if r.getLsbD 0 != bit then (r >>> 1) ^^^ 3988292384#32 else r >>> 1

def fcsByte (r : BitVec 32) (x : Byte) : BitVec 32 :=
  [0, 1, 2, 3, 4, 5, 6, 7].foldl (fun r i => fcsBit r (x.getLsbD i)) r

/-- The frame check sequence of R1. -/
def fcs (bs : List Byte) : BitVec 32 := ~~~(bs.foldl fcsByte (BitVec.allOnes 32))

/-- The four bytes of the frame check sequence, least significant first (R1). -/
def fcsBytes (bs : List Byte) : List Byte := (be 4 (fcs bs).toNat).reverse

/-- One bit into the register of the bus CRC, most significant end first (R121). -/
def crcBit (r : BitVec 16) (bit : Bool) : BitVec 16 :=
  if r.getLsbD 15 != bit then (r <<< 1) ^^^ 4129#16 else r <<< 1

def crcByte (r : BitVec 16) (x : Byte) : BitVec 16 :=
  [7, 6, 5, 4, 3, 2, 1, 0].foldl (fun r i => crcBit r (x.getLsbD i)) r

/-- The CRC of R121. -/
def crc (bs : List Byte) : BitVec 16 := bs.foldl crcByte 65535#16

/-! ### Codes (section 11.2) -/

def LaneState.code : LaneState → Nat
  | .idle => 0
  | .retiring => 1
  | .staging => 2
  | .ready => 3
  | .discarding => 4

def DiscardReason.code : DiscardReason → Nat
  | .noReason => 0
  | .content => 1
  | .digest => 2
  | .overtaken => 3
  | .revised => 4
  | .storeFull => 5
  | .aborted => 6

def ClockState.code : ClockState → Nat
  | .unset => 0
  | .locked => 1
  | .holdover => 2

def ResetCause.code : ResetCause → Nat
  | .cold => 1
  | .warm => 2

def SweepKind.code : SweepKind → Nat
  | .retire _ => 1
  | .undo _ => 2
  | .reclaim => 3
  | .clear => 4

def Presence.code : Presence → Nat
  | .vacant => 0
  | .seeking => 1
  | .settling => 2
  | .present => 3
  | .silent => 4

def DeliveryState.code : DeliveryState → Nat
  | .idle => 0
  | .opening => 1
  | .sending => 2
  | .closing => 3

/-! ### The uplink frame (R194) -/

def OutboundKind.code : OutboundKind → Nat
  | .answer => 5
  | .standing => 6
  | .alert => 7

/-- The envelope and body of a message. -/
def envelope (kind : Nat) (body : List Byte) : List Byte := be 1 kind ++ be 2 body.length ++ body

/-- The frame of an outbound message (R183, R194): addresses as recorded at placing, payload padded to
46 bytes, check sequence last. -/
def outboundFrame (m : OutboundMessage) : List Byte :=
  let front := be 6 m.gatewayMac.toNat ++ be 6 m.unitMac.toNat ++ be 2 m.etherType.toNat
    ++ padTo 46 (envelope m.kind.code m.body)
  front ++ fcsBytes front

/-! ### Products and slots -/

/-- The presence byte: 01h concession fare, 02h last service day, 04h transfer window. -/
def presenceByte (concession lastDay transfer : Option Nat) : Nat :=
  yesNo concession.isSome + 2 * yesNo lastDay.isSome + 4 * yesNo transfer.isSome

/-- A field present or taking no bytes. -/
def optField (n : Nat) : Option Nat → List Byte
  | some v => be n v
  | none => []

/-- A product record as sent in a BATCH (section 11.1). -/
def encodeRecord (r : ProductRecord) : List Byte :=
  be 2 r.code ++ be 1 (presenceByte r.concession r.lastDay r.transfer) ++ be 2 r.fare
    ++ be 2 r.firstDay ++ optField 2 r.concession ++ optField 2 r.lastDay ++ optField 1 r.transfer
    ++ be 1 r.zones.length ++ r.zones.flatMap (be 1)

/-- A zone list in four bytes, unused ones 0. -/
def encodeZones (zones : List Nat) : List Byte := padTo 4 (zones.flatMap (be 1))

/-- The fields of a slot record, without its padding. -/
def slotFields : Option Entry → List Byte
  | none => be 1 0
  | some (.block e) =>
      be 1 1 ++ be 7 e.token ++ be 1 e.priority.val ++ be 3 e.added ++ be 3 (e.removed.getD 0)
  | some (.head h) =>
      be 1 2 ++ be 2 h.code ++ be 1 (presenceByte h.concession h.lastDay h.transfer) ++ be 2 h.fare
        ++ be 2 (h.concession.getD 0) ++ be 2 h.firstDay ++ be 2 (h.lastDay.getD 0)
        ++ be 1 (h.transfer.getD 0) ++ be 1 h.zoneCount ++ encodeZones h.zones ++ be 3 h.added
        ++ be 3 (h.removed.getD 0) ++ be 2 (h.tail.getD 0)
  | some (.tail t) => be 1 3 ++ encodeZones t.zones ++ be 2 t.head

/-- The slot record of 26 bytes. -/
def encodeSlot (e : Option Entry) : List Byte := padTo 26 (slotFields e)

/-- A slot report of 28 bytes. -/
def encodeSlotReport (r : SlotReport) : List Byte := be 2 r.slot ++ encodeSlot r.entry

/-! ### Bus frames (section 11.4) -/

def encodeBatchItem : BatchItem → List Byte
  | .block token priority => be 7 token ++ be 1 priority.val
  | .product r => encodeRecord r

/-- The type byte of a frame. -/
def BusFrame.code : BusFrame → Nat
  | .poll => 1
  | .open .. => 2
  | .batch .. => 3
  | .close .. => 4
  | .switch .. => 5
  | .drop .. => 6

/-- The body of a frame. -/
def BusFrame.body : BusFrame → List Byte
  | .poll => []
  | .open l g count cutoff truncated =>
      be 1 (laneCode l) ++ be 3 g ++ be 2 count ++ be 1 cutoff ++ be 1 (yesNo truncated)
  | .batch l g number items =>
      be 1 (laneCode l) ++ be 3 g ++ be 2 number ++ be 1 items.length
        ++ items.flatMap encodeBatchItem
  | .close l g | .switch l g | .drop l g => be 1 (laneCode l) ++ be 3 g

/-- The bytes of a frame of the part: source 0, CRC last (R120, R121). -/
def busBytes (destination : Nat) (f : BusFrame) : List Byte :=
  let front := be 1 destination ++ be 1 0 ++ be 1 f.code ++ be 2 f.body.length ++ f.body
  front ++ be 2 (crc front).toNat

end Sys2Proof.Machine
end

