-- ==== Sys2Proof/Machine/Flags.lean ====
section
/-! DEFINITION. Event flags, ALERTs and the egress queue (sections 10.2 and 10.3), and the saturating
counters. -/

namespace Sys2Proof.Machine

/-- A counter that counts to 65,535 and stays there. -/
def bump (n : Nat) : Nat := min (n + 1) 65535

/-! ### Uplink counters and the egress queue -/

/-- Changes the uplink counters. -/
def State.countUplink (s : State) (f : UplinkCounters → UplinkCounters) : State :=
  { s with uplink := { s.uplink with counters := f s.uplink.counters } }

def UplinkCounters.taken (c : UplinkCounters) : UplinkCounters :=
  { c with framesTaken := bump c.framesTaken }
def UplinkCounters.failed (c : UplinkCounters) : UplinkCounters :=
  { c with checkFailures := bump c.checkFailures }
def UplinkCounters.foreign (c : UplinkCounters) : UplinkCounters :=
  { c with foreignFrames := bump c.foreignFrames }
def UplinkCounters.ingressDropped (c : UplinkCounters) : UplinkCounters :=
  { c with ingressDrops := bump c.ingressDrops }
def UplinkCounters.controlDropped (c : UplinkCounters) : UplinkCounters :=
  { c with controlDrops := bump c.controlDrops }
def UplinkCounters.bad (c : UplinkCounters) : UplinkCounters :=
  { c with malformed := bump c.malformed }
def UplinkCounters.passed (c : UplinkCounters) : UplinkCounters :=
  { c with passedOver := bump c.passedOver }
def UplinkCounters.alertDropped (c : UplinkCounters) : UplinkCounters :=
  { c with alertsDropped := bump c.alertsDropped }

/-- The egress queue holds fewer than 8 messages (R183). -/
def State.egressRoom (s : State) : Bool := decide (s.uplink.egress.length < 8)

/-- Places a message on the egress queue with the addresses in force (R183). -/
def State.place (s : State) (kind : OutboundKind) (body : List Byte) (restart : Bool) : State :=
  { s with uplink := { s.uplink with egress := s.uplink.egress ++
    [{ kind := kind, body := body, unitMac := s.settings.addressing.unitMac,
       gatewayMac := s.settings.addressing.gatewayMac,
       etherType := s.settings.addressing.etherType, restart := restart }] } }

/-! ### Event flags -/

/-- The 16 event flags of R180. -/
inductive EventFlag where
  | stagedReady (l : Lane)
  | activated (l : Lane)
  | discarded (l : Lane)
  | pressure (l : Lane)
  | joined
  | lost
  | deliveryFault
  | truncated
  | unfit
  | holdover
  | ingressOverflow
  | restarted
deriving DecidableEq, Repr

/-- The number of a flag (R180). -/
def EventFlag.number : EventFlag → Nat
  | .stagedReady .b => 0
  | .activated .b => 1
  | .discarded .b => 2
  | .pressure .b => 3
  | .stagedReady .p => 4
  | .activated .p => 5
  | .discarded .p => 6
  | .pressure .p => 7
  | .joined => 8
  | .lost => 9
  | .deliveryFault => 10
  | .truncated => 11
  | .unfit => 12
  | .holdover => 13
  | .ingressOverflow => 14
  | .restarted => 15

/-- The figure 2^f of a flag (R193). -/
def EventFlag.bit (f : EventFlag) : BitVec 16 := BitVec.ofNat 16 (2 ^ f.number)

/-- The context of an ALERT; a field not used is 0 (R181, section 11.1). -/
structure AlertContext where
  position   : Nat := 0
  lane       : Nat := 0
  generation : Nat := 0
  detail     : Nat := 0
  figure     : Nat := 0
deriving DecidableEq, Repr

/-- The ALERT body of 19 bytes, made with the flags and clock as they stand (R181). -/
def State.alertBody (s : State) (f : EventFlag) (c : AlertContext) : List Byte :=
  be 1 s.settings.addressing.unitId.toNat ++ be 2 s.ctl.alertNo ++ be 1 f.number
    ++ be 1 c.position ++ be 1 c.lane ++ be 3 c.generation ++ be 1 c.detail ++ be 2 c.figure
    ++ be 2 s.ctl.flags.toNat ++ be 4 s.clock.value ++ be 1 s.clock.state.code

/-- Makes an ALERT: numbers it, then places it, or drops it and counts the drop (R181, R183). -/
def State.alert (s : State) (f : EventFlag) (c : AlertContext) : State :=
  let s := { s with ctl := { s.ctl with alertNo := (s.ctl.alertNo + 1) % 65536 } }
  if s.egressRoom then s.place .alert (s.alertBody f c) false
  else s.countUplink .alertDropped

/-- A rise (R180): the flag becomes set, and an ALERT is made if it is enabled. -/
def State.rise (s : State) (f : EventFlag) (c : AlertContext) : State :=
  let s := { s with ctl := { s.ctl with flags := s.ctl.flags ||| f.bit } }
  if s.settings.enables.getLsbD f.number then s.alert f c else s

end Sys2Proof.Machine
end

