-- ==== Sys2Proof/Machine/Digest.lean ====
section
/-! DEFINITION. Weights, digests and fit (chapter 5). -/

namespace Sys2Proof.Machine

/-! ### Weights -/

/-- R90: ((V + 1) × (U + 40,503) + 977 × p) modulo 2^32, U and V the halves of the token. -/
def blockWeight (token priority : Nat) : Sum :=
  BitVec.ofNat 32 ((token % 2 ^ 28 + 1) * (token / 2 ^ 28 + 40503) + 977 * priority)

/-- The five terms of k in R91, with the values that stand for absent fields. -/
def productTerms (r : ProductRecord) : Nat :=
  r.firstDay + r.lastDay.getD 65536 + r.zones.foldl (· + ·) 0 + r.concession.getD 65536
    + r.transfer.getD 0

/-- R91: ((code + 1) × (fare + 40,503) + 977 × k) modulo 2^32. -/
def productWeight (r : ProductRecord) : Sum :=
  BitVec.ofNat 32 ((r.code + 1) * (r.fare + 40503) + 977 * productTerms r)

/-- The weight of an item of a BATCH. -/
def BatchItem.weight : BatchItem → Sum
  | .block token priority => blockWeight token priority.val
  | .product r => productWeight r

/-! ### Digests -/

/-- A level gains one entry of a weight. -/
def Digest.levelIn (d : Digest) (p : Fin 8) (w : Sum) : Digest :=
  { d with levels := d.levels.set p { count := d.levels[p].count + 1, sum := d.levels[p].sum + w } }

/-- A level loses one entry of a weight. -/
def Digest.levelOut (d : Digest) (p : Fin 8) (w : Sum) : Digest :=
  { d with levels := d.levels.set p { count := d.levels[p].count - 1, sum := d.levels[p].sum - w } }

/-- What an applied item does to the staged digest (R93). -/
inductive DigestChange where
  | blockIn (token : Nat) (p : Fin 8)
  | relevel (token : Nat) (q p : Fin 8)
  | blockOut (token : Nat) (q : Fin 8)
  | recordIn (w : Sum)
deriving DecidableEq, Repr

/-- The staged digest after an applied item (R93, R94). -/
def Digest.change (d : Digest) : DigestChange → Digest
  | .blockIn token p =>
      ({ d with count := d.count + 1, sum := d.sum + blockWeight token p.val }).levelIn p
        (blockWeight token p.val)
  | .relevel token q p =>
      (({ d with sum := d.sum - blockWeight token q.val + blockWeight token p.val }).levelOut q
        (blockWeight token q.val)).levelIn p (blockWeight token p.val)
  | .blockOut token q =>
      ({ d with count := d.count - 1, sum := d.sum - blockWeight token q.val }).levelOut q
        (blockWeight token q.val)
  | .recordIn w => { d with count := d.count + 1, sum := d.sum + w }

/-! ### Fit -/

/-- R96: the effective capacity from the class capacity and the last reported capacity. A class
capacity of 0 gives 0, and no lane-B delivery is started. -/
def effectiveCapacity (classCapacity reported : Nat) : Nat :=
  if reported = 0 then classCapacity else min classCapacity reported

/-- The levels of the histogram at a level and above. -/
def Digest.levelsFrom (d : Digest) (l : Nat) : List LevelFigure := d.levels.toList.drop l

/-- The suffix count at a level (R98). -/
def Digest.suffixCount (d : Digest) (l : Nat) : Nat :=
  ((d.levelsFrom l).map LevelFigure.count).foldl (· + ·) 0

/-- The total of the level sums at a level and above, modulo 2^32 (R98). -/
def Digest.suffixSum (d : Digest) (l : Nat) : Sum :=
  ((d.levelsFrom l).map LevelFigure.sum).foldl (· + ·) 0

/-- The lowest level whose suffix count fits a capacity, if the level-7 count fits (R98). -/
def Digest.cutoff (d : Digest) (capacity : Nat) : Option Nat :=
  [0, 1, 2, 3, 4, 5, 6, 7].find? fun l => decide (d.suffixCount l ≤ capacity)

/-- The figures fixed at the start of a delivery (R97, R152). -/
structure FitFigures where
  capacity    : Nat
  cutoff      : Nat
  truncated   : Bool
  expectCount : Nat
  expectSum   : Sum
deriving DecidableEq, Repr

/-- The figures of a lane-B delivery (R98, R99). A truncated one has its expected sum fixed later. -/
def fitBlock (capacity : Nat) (d : Digest) : FitFigures :=
  match d.cutoff capacity with
  | some l =>
    { capacity := capacity, cutoff := l, truncated := false, expectCount := d.suffixCount l,
      expectSum := d.suffixSum l }
  | none =>
    { capacity := capacity, cutoff := 7, truncated := true, expectCount := capacity,
      expectSum := 0 }

/-- The figures of a lane-P delivery (R102). R102 and R152 state no effective capacity for it; the figure,
shown in STANDING only, is the product capacity of the class, against which R153 tests the target (log 41,
DESIGN CHOICE). -/
def fitProduct (capacity : Nat) (d : Digest) : FitFigures :=
  { capacity := capacity, cutoff := 0, truncated := false, expectCount := d.count, expectSum := d.sum }

end Sys2Proof.Machine
end

