-- ==== Sys2Proof/Machine/Memory.lean ====
section
/-! DEFINITION. The entry store's regions: slots, stamps, visibility, allocation, and what one item or
one sweep step does to a region (chapters 3 and 4). -/

namespace Sys2Proof.Machine

/-- The size of a lane's region under a split (R49). -/
def regionSize (split : Fin 4) : Lane → Nat
  | .b => 61440 - 4096 * split.val
  | .p => 4096 + 4096 * split.val

/-! ### Slots -/

/-- The contents of a slot; `none` is FREE. -/
def Memory.read : Memory → Nat → Option Entry
  | [], _ => none
  | (k, e) :: m, a => if k = a then some e else Memory.read m a

/-- Makes a slot FREE. -/
def Memory.erase : Memory → Nat → Memory
  | [], _ => []
  | (k, e) :: m, a => if k = a then m else (k, e) :: Memory.erase m a

/-- Fills a slot, in place of what it held. -/
def Memory.write : Memory → Nat → Entry → Memory
  | [], a, x => [(a, x)]
  | (k, e) :: m, a, x =>
    if a < k then (a, x) :: (k, e) :: m
    else if k = a then (a, x) :: m
    else (k, e) :: Memory.write m a x

/-- The canonical form: slots strictly rising from a bound. -/
def Memory.risingFrom : Nat → Memory → Bool
  | _, [] => true
  | n, (k, _) :: m => decide (n ≤ k) && Memory.risingFrom (k + 1) m

/-- A region's canonical form: slots strictly rising, no slot listed twice. A FREE slot is not listed,
since an entry is never FREE. -/
def Memory.wf (m : Memory) : Bool := m.risingFrom 0

/-- The lowest FREE slot at or above `n` (R59). -/
def Memory.lowestFree : Memory → Nat → Nat
  | [], n => n
  | (k, _) :: m, n => if k = n then Memory.lowestFree m (n + 1) else if k < n then
      Memory.lowestFree m n else n

/-! ### Stamps and visibility -/

/-- R53 on a pair of stamps. -/
def stampsVisible (added : Nat) (removed : Option Nat) (v : Nat) : Bool :=
  decide (added ≤ v) &&
    match removed with
    | none => true
    | some r => decide (v < r)

/-- The stamps of an entry; a tail carries none of its own (R52). -/
def Entry.stamps : Entry → Option (Nat × Option Nat)
  | .block e => some (e.added, e.removed)
  | .head h => some (h.added, h.removed)
  | .tail _ => none

/-- A blocklist entry or product head visible in a generation. A tail is judged by its head. -/
def Entry.visibleIn (x : Entry) (v : Nat) : Bool :=
  match x.stamps with
  | some (a, r) => stampsVisible a r v
  | none => false

/-- Sets the removed stamp of an entry. -/
def Entry.setRemoved (x : Entry) (r : Option Nat) : Entry :=
  match x with
  | .block e => .block { e with removed := r }
  | .head h => .head { h with removed := r }
  | .tail t => .tail t

/-- The retained set of a lane (R54). -/
def LaneRec.retained (r : LaneRec) : List Nat :=
  (if r.active = 0 then [] else [r.active]) ++ r.history.map HistoryRecord.generation ++
    match r.state, r.staged with
    | .retiring, some n | .staging, some n | .ready, some n => [n.g]
    | _, _ => []

/-! ### Freeing -/

/-- Frees a slot, a product head together with its tail (R77). -/
def Memory.freeEntry (m : Memory) (a : Nat) : Memory :=
  match m.read a with
  | some (.head h) =>
    match h.tail with
    | some t => (m.erase a).erase t
    | none => m.erase a
  | _ => m.erase a

/-! ### Sweep steps (section 4.2) -/

/-- What a sweep does to the region at one slot (R77 to R81). -/
def sweepSlot (kind : SweepKind) (retained : List Nat) (m : Memory) (a : Nat) : Memory :=
  match m.read a with
  | none => m
  | some x =>
    match x.stamps with
    | none => m
    | some (added, removed) =>
      match kind with
      | .retire s => if removed = none then m.write a (x.setRemoved (some s)) else m
      | .undo s =>
        if added = s then m.freeEntry a
        else if removed = some s then m.write a (x.setRemoved none)
        else m
      | .reclaim => if retained.any x.visibleIn then m else m.freeEntry a
      | .clear => m.freeEntry a

/-! ### Items (section 3.5) -/

/-- The outcome of one item (R62). -/
inductive ItemOutcome where
  | applied (m : Memory) (change : DigestChange)
  | duplicate
  | absentDrop
  | contentError
  | noSlot
deriving DecidableEq, Repr

/-- The blocklist entry visible in a generation with a token, and its slot (R58). -/
def Memory.findToken (m : Memory) (s token : Nat) : Option (Nat × BlockEntry) :=
  m.findSome? fun (a, x) =>
    match x with
    | .block e => if e.token = token ∧ stampsVisible e.added e.removed s then some (a, e) else none
    | _ => none

/-- Whether a product head visible in a generation has a code (R69). -/
def Memory.hasCode (m : Memory) (s code : Nat) : Bool :=
  m.any fun (_, x) =>
    match x with
    | .head h => decide (h.code = code) && stampsVisible h.added h.removed s
    | _ => false

/-- Allocates a blocklist entry of S at the lowest FREE slot (R59, R65). -/
def Memory.addBlock (m : Memory) (s token : Nat) (p : Fin 8) : Memory :=
  m.write (m.lowestFree 0) (.block { token := token, priority := p, added := s, removed := none })

/-- An ADD that has passed the content tests (R65, R66). -/
def addItem (s free : Nat) (m : Memory) (token : Nat) (p : Fin 8) : ItemOutcome :=
  match m.findToken s token with
  | none => if free = 0 then .noSlot else .applied (m.addBlock s token p) (.blockIn token p)
  | some (a, e) =>
    if e.priority = p then .duplicate
    else if e.added = s then
      .applied (m.write a (.block { e with priority := p })) (.relevel token e.priority p)
    else if free = 0 then .noSlot
    else
      .applied ((m.write a (.block { e with removed := some s })).addBlock s token p)
        (.relevel token e.priority p)

/-- A DROP that has passed the content tests (R67). -/
def dropItem (s : Nat) (m : Memory) (token : Nat) : ItemOutcome :=
  match m.findToken s token with
  | none => .absentDrop
  | some (a, e) =>
    if e.added = s then .applied (m.erase a) (.blockOut token e.priority)
    else .applied (m.write a (.block { e with removed := some s })) (.blockOut token e.priority)

/-- One blocklist item against S, content tests first (R64 to R68). -/
def applyBlockItem (s : Nat) (image : Bool) (free : Nat) (m : Memory) (i : BlockItem) :
    ItemOutcome :=
  if i.token = 0 then .contentError
  else if hp : i.priority < 8 then
    match i.op with
    | .add => addItem s free m i.token ⟨i.priority, hp⟩
    | .drop => if image then .contentError else dropItem s m i.token
  else .contentError

/-- Strictly ascending. -/
def ascending : List Nat → Bool
  | x :: y :: rest => decide (x < y) && ascending (y :: rest)
  | _ => true

/-- The content tests of R69 that need no lookup. -/
def recordContentGood (r : ProductRecord) : Bool :=
  decide (r.code ≠ 0) && ascending r.zones &&
    match r.lastDay with
    | none => true
    | some d => decide (r.firstDay ≤ d)

/-- The head a record is written as (R52). -/
def headOf (r : ProductRecord) (s : Nat) (tail : Option Nat) : ProductHead :=
  { code := r.code, fare := r.fare, concession := r.concession, firstDay := r.firstDay,
    lastDay := r.lastDay, transfer := r.transfer, zoneCount := r.zones.length,
    zones := r.zones.take 4, added := s, removed := none, tail := tail }

/-- Writes a record of S: its head at the lowest FREE slot, and a tail for zones 5 to 8 at the next
lowest (R52, R59). -/
def Memory.addRecord (m : Memory) (s : Nat) (r : ProductRecord) : Memory :=
  let a := m.lowestFree 0
  if r.zones.length ≤ 4 then m.write a (.head (headOf r s none))
  else
    let t := m.lowestFree (a + 1)
    (m.write a (.head (headOf r s (some t)))).write t (.tail { zones := r.zones.drop 4, head := a })

/-- The slots a record needs (R52). -/
def ProductRecord.slots (r : ProductRecord) : Nat := if r.zones.length ≤ 4 then 1 else 2

/-- One product record against S (R69). -/
def applyRecord (s free : Nat) (m : Memory) (r : ProductRecord) : ItemOutcome :=
  if !recordContentGood r then .contentError
  else if m.hasCode s r.code then .contentError
  else if free < r.slots then .noSlot
  else .applied (m.addRecord s r) (.recordIn (productWeight r))

/-! ### Reading -/

/-- The whole record of a head, its tail's zones after its own (R130). -/
def Memory.recordAt (m : Memory) (h : ProductHead) : ProductRecord :=
  let rest := match h.tail.bind m.read with
    | some (.tail t) => t.zones
    | _ => []
  { code := h.code, fare := h.fare, concession := h.concession, firstDay := h.firstDay,
    lastDay := h.lastDay, transfer := h.transfer, zones := h.zones ++ rest }

/-- The item a slot gives a BATCH of a target, if it qualifies (R155). -/
def Memory.batchItem (m : Memory) (a target cutoff : Nat) : Option BatchItem :=
  match m.read a with
  | some (.block e) =>
    if stampsVisible e.added e.removed target ∧ cutoff ≤ e.priority.val
    then some (.block e.token e.priority) else none
  | some (.head h) =>
    if stampsVisible h.added h.removed target then some (.product (m.recordAt h)) else none
  | _ => none

/-- What a slot adds to the slot tally of a generation (R153). -/
def Memory.tallyAt (m : Memory) (a generation : Nat) : Nat :=
  match m.read a with
  | some (.head h) =>
    if stampsVisible h.added h.removed generation then (if h.tail.isSome then 2 else 1) else 0
  | _ => 0

end Sys2Proof.Machine
end

