-- ==== Sys2Proof/Machine/Ops.lean ====
section
/-! DEFINITION. The named operations over the state: lane records, regions, the sweeper's list, the
store arbiter, bus exchanges, ANSWERs. -/

namespace Sys2Proof.Machine

/-- A command's step, in a part that runs. A part held in reset takes nothing in, sends nothing and
carries nothing out (R190). -/
def State.whileRunning (s : State) (f : State → State) : Host.Outcome State Fault Refusal :=
  .next (if s.power = .running then f s else s)

/-! ### Lane records -/

def State.lane (s : State) (l : Lane) : LaneRec := s.lanes.get l

def State.setLane (s : State) (l : Lane) (r : LaneRec) : State :=
  { s with lanes := s.lanes.set l r }

/-- The states in which a lane has a staged generation S (R17), the ones a discard is made from (R33). -/
def LaneState.holdsStaging : LaneState → Bool
  | .retiring | .staging | .ready => true
  | .idle | .discarding => false

/-- The size of a lane's region under the split in force (R49). -/
def State.size (s : State) (l : Lane) : Nat := regionSize s.settings.split l

/-- The staged generation S, or 0 where nothing is staged. -/
def LaneRec.stagedGen (r : LaneRec) : Nat :=
  match r.staged with
  | some n => n.g
  | none => 0

/-- The lane is READY with a generation (R150, R165). -/
def LaneRec.readyWith (r : LaneRec) (g : Nat) : Bool :=
  decide (r.state = .ready) && decide (r.stagedGen = g)

/-! ### Regions -/

def State.region (s : State) (l : Lane) : Memory := s.store.regions.get l

/-- Replaces the contents of a region; the free count falls by one for each slot filled and rises by
one for each slot freed (R49). -/
def State.setRegion (s : State) (l : Lane) (m : Memory) : State :=
  { s with store :=
    { s.store with
      regions := s.store.regions.set l m,
      free := s.store.free.set l (s.store.free.get l + (s.region l).length - m.length) } }

def State.setEngine (s : State) (e : Engine) : State := { s with store := { s.store with engine := e } }

/-- The lane of the segment the apply engine holds. -/
def Engine.lane : Engine → Option Lane
  | .empty => none
  | .applying seg _ _ => some seg.lane
  | .waiting seg _ => some seg.lane
  | .finishing seg _ => some seg.lane

/-- The apply engine is finishing an item of a lane that has left STAGING (R63). -/
def Engine.finishes (e : Engine) (l : Lane) : Bool :=
  match e with
  | .finishing seg _ => decide (seg.lane = l)
  | _ => false

/-! ### The sweeper's list (R74 to R76) -/

/-- The lane and kind of a request, by which requests merge (R75). -/
def SweepRequest.sameWork (x y : SweepRequest) : Bool :=
  decide (x.lane = y.lane) && decide (x.kind.code = y.kind.code)

/-- Joins the tail of the list, or merges with the waiting request of the same lane and kind (R75). -/
def joinRequests : List SweepRequest → SweepRequest → List SweepRequest
  | [], x => [x]
  | y :: ys, x =>
    if y.sameWork x then { y with waiter := y.waiter || x.waiter } :: ys
    else y :: joinRequests ys x

/-- With no sweep in progress, the head request becomes the sweep in progress, cursor 0 (R76). -/
def Sweeper.start (w : Sweeper) : Sweeper :=
  match w.sweep, w.requests with
  | none, r :: rs => { requests := rs, sweep := some { request := r, cursor := 0 } }
  | _, _ => w

/-- A request made to the sweeper (R75), started at once if nothing is in progress (R76). -/
def State.requestSweep (s : State) (l : Lane) (k : SweepKind) (waiter : Bool) : State :=
  { s with sweeper :=
    ({ s.sweeper with
       requests := joinRequests s.sweeper.requests { lane := l, kind := k, waiter := waiter } }
      ).start }

/-- Clears every waiter mark, as the engine gives up its wait (R83). Only the engine's own RECLAIM
carries a mark. -/
def State.clearWaiter (s : State) : State :=
  { s with sweeper :=
    { requests := s.sweeper.requests.map fun r => { r with waiter := false },
      sweep := s.sweeper.sweep.map fun w => { w with request := { w.request with waiter := false } } } }

/-! ### The store arbiter (R60) -/

/-- Whether a requester has an operation waiting (R60). The engine waits while APPLYING an item not yet
granted, the sweeper
while a sweep is in progress, the control unit while slots of an INSPECT are left (log 6). -/
def State.waits (s : State) : Requester → Bool
  | .apply =>
    match s.store.engine with
    | .applying .. => true
    | _ => false
  | .sweeper => s.sweeper.sweep.isSome
  | .scanner => s.scan.read.isSome
  | .control =>
    match s.ctl.command with
    | .carryingOut _ (.inspect left _) => decide (0 < left)
    | _ => false

/-- The requesters in cyclic order, the one after the given first (R60). -/
def Requester.after : Requester → List Requester
  | .apply => [.sweeper, .scanner, .control, .apply]
  | .sweeper => [.scanner, .control, .apply, .sweeper]
  | .scanner => [.control, .apply, .sweeper, .scanner]
  | .control => [.apply, .sweeper, .scanner, .control]

/-- The requester the arbiter serves next: the one whose granted operation is being finished, or the
first waiting one after the one granted last. -/
def State.nextGrant (s : State) : Option Requester :=
  match s.store.engine with
  | .finishing .. => some .apply
  | _ => s.store.lastGranted.after.find? s.waits

/-- Records a grant. -/
def State.granted (s : State) (r : Requester) : State :=
  { s with store := { s.store with lastGranted := r } }

/-! ### Giving up a segment (R61, R63) -/

/-- An item of a segment whose lane leaves STAGING. Where its operation is the next to be granted, it
has been granted or is withdrawn, a free value (R61, log 39): granted, the engine finishes it; withdrawn,
or waiting behind another, it is not applied. -/
def State.giveUpItem (s : State) (seg : Segment) (pos : Nat) : State :=
  if s.nextGrant = some .apply then
    let first := Config.itemGrantedFirst s.choices
    let s := { s with choices := s.choices + 1 }
    if first then (s.granted .apply).setEngine (.finishing seg pos) else s.setEngine .empty
  else s.setEngine .empty

/-- The apply engine gives up the segment it holds for a lane that leaves STAGING (R63): a waiting one
at once, its RECLAIM running on with no waiter (R83). -/
def State.abandonSegment (s : State) (l : Lane) : State :=
  if s.store.engine.lane = some l then
    match s.store.engine with
    | .applying seg pos _ => s.giveUpItem seg pos
    | .waiting .. => (s.setEngine .empty).clearWaiter
    | .empty | .finishing .. => s
  else s

/-! ### Bus exchanges (R122) -/

def State.setLink (s : State) (k : Link) : State := { s with bus := { s.bus with link := k } }

/-- Hands an addressed frame to the bus (R122). The frame's visit is then made: the round goes on from
the next position. -/
def State.sendTo (s : State) (pos : Fin 16) (f : BusFrame) (nextCursor : Nat) : State :=
  { s with
    bus := { s.bus with
      link := .sending (.addressed
        { pos := pos, frame := f, nextCursor := nextCursor, recordGone := false,
          deliveryGone := false }),
      line := busBytes (pos.val + 1) f },
    scan := { s.scan with exchanged := true, nextPos := pos.val + 1 } }

/-- Changes the addressed exchange in flight, if there is one. -/
def Link.mapAddressed (k : Link) (f : Addressed → Addressed) : Link :=
  match k with
  | .sending (.addressed x) => .sending (.addressed (f x))
  | .waiting x => .waiting (f x)
  | .receiving x cs => .receiving (f x) cs
  | .turnaround x o => .turnaround (f x) o
  | .idle => .idle
  | .sending (.broadcast w) => .sending (.broadcast w)
  | .postBroadcast w => .postBroadcast w
  | .postReset => .postReset

/-- The broadcast SWITCH on the line, if there is one (R146). -/
def Link.broadcastOnLine : Link → Option Switch
  | .sending (.broadcast w) => some w
  | .postBroadcast w => some w
  | _ => none

/-! ### Validator records -/

def State.validator (s : State) (pos : Fin 16) : Validator := s.scan.records[pos]

def State.setValidator (s : State) (pos : Fin 16) (v : Validator) : State :=
  { s with scan := { s.scan with records := s.scan.records.set pos v } }

def Validator.lane (v : Validator) (l : Lane) : ValidatorLane := v.lanes.get l

def Validator.setLane (v : Validator) (l : Lane) (x : ValidatorLane) : Validator :=
  { v with lanes := v.lanes.set l x }

/-- Changes every element of a table by its index. -/
def eachOf {α β : Type} {n : Nat} (v : Vector α n) (f : Fin n → α → β) : Vector β n :=
  ⟨((List.finRange n).map fun i => f i v[i]).toArray, by simp⟩

/-- Changes every validator record. -/
def State.eachValidator (s : State) (f : Fin 16 → Validator → Validator) : State :=
  { s with scan := { s.scan with records := eachOf s.scan.records f } }

/-- The class of a position, none where it is VACANT (R137). -/
def State.classOf (s : State) (pos : Fin 16) : Option ClassRec :=
  s.settings.roster[pos].map fun c => s.settings.classes[c]

/-! ### ANSWERs (R173, R175) -/

inductive CommandResult where
  | done
  | state
  | argument
  | unknown
deriving DecidableEq, Repr

/-- The result byte (section 11.1). -/
def CommandResult.code : CommandResult → Nat
  | .done => 0
  | .state => 1
  | .argument => 2
  | .unknown => 3

/-- The ANSWER body: identifier, tag and command echoed, result, and the result's body (R175). The
identifier is the one its CONTROL matched, also in an ANSWER placed after a SET-ADDRESSING has changed it,
where R177 reads otherwise (log 37, DESIGN CHOICE). -/
def answerBody (h : CommandHead) (r : CommandResult) (body : List Byte) : List Byte :=
  [h.unitId, h.tag, h.code] ++ be 1 r.code ++ body

/-- Places an ANSWER built. SET-ADDRESSING takes effect once it is placed (R7, R177); RESTART stays
CARRYING OUT until its frame is sent (R191). -/
def State.placeAnswer (s : State) (a : PendingAnswer) : State :=
  let s := s.place .answer a.body a.restart
  let s := match a.addressing with
    | some x => { s with settings := { s.settings with addressing := x } }
    | none => s
  { s with ctl := { s.ctl with
      command := if a.restart then .carryingOut a.head .restart else .available } }

/-- An ANSWER is placed, or waits in PLACING when the egress queue is full (R173, R183). -/
def State.deliverAnswer (s : State) (a : PendingAnswer) : State :=
  if s.egressRoom then s.placeAnswer a
  else { s with ctl := { s.ctl with command := .placing a } }

/-- Answers a command. -/
def State.answer (s : State) (h : CommandHead) (r : CommandResult) (body : List Byte) : State :=
  s.deliverAnswer { head := h, body := answerBody h r body, addressing := none, restart := false }

/-- The lane reports a command complete, and it is answered DONE (R179). -/
def State.laneCommandDone (s : State) (l : Lane) : State :=
  match s.ctl.command with
  | .carryingOut h (.lane l') => if l' = l then s.answer h .done [] else s
  | _ => s

end Sys2Proof.Machine
end

