-- ==== Sys2Proof/Machine/Scanner.lean ====
section
/-! DEFINITION. The feed scanner's rules: targets, stale copies, abandonment, rounds and pauses, and
what the lane reports do (chapters 8 and 9). -/

namespace Sys2Proof.Machine

/-! ### Targets and work (R150, R151, R168) -/

/-- Whether a class takes a lane (R150). -/
def ClassRec.takes (c : ClassRec) : Lane → Bool
  | .b => decide (1 ≤ c.capacity)
  | .p => c.takesProducts

/-- R150 for a lane the class takes: ACTIVE in service, or S for pre-positioning. -/
def targetOf (r : LaneRec) (v : ValidatorLane) : Option Nat :=
  if r.active ≠ 0 ∧ v.held ≠ r.active ∧ v.pending ≠ r.active ∧ v.faulty ≠ r.active
      ∧ v.unfit ≠ r.active then some r.active
  else if r.state = .ready ∧ r.active ≠ 0 ∧ v.held = r.active ∧ v.pending ≠ r.stagedGen
      ∧ v.faulty ≠ r.stagedGen ∧ v.unfit ≠ r.stagedGen then some r.stagedGen
  else none

/-- The target of a lane for a position (R150). -/
def State.target (s : State) (pos : Fin 16) (l : Lane) : Option Nat :=
  match s.classOf pos with
  | none => none
  | some c => if c.takes l then targetOf (s.lane l) ((s.validator pos).lane l) else none

/-- The confirmed generation of a sub-record: the target field while it is IDLE (R139, log 27). -/
def Delivery.confirmed (d : Delivery) : Nat :=
  match d.state with
  | .idle => d.target
  | _ => 0

/-- An addressed SWITCH is due on a lane (R168). -/
def switchDue (r : LaneRec) (v : ValidatorLane) : Bool :=
  decide (r.active ≠ 0 ∧ v.pending = r.active ∧ v.held ≠ r.active ∧ v.delivery.state = .idle
    ∧ v.delivery.confirmed = r.active ∧ v.faulty ≠ r.active)

/-- Whether a position has work on a lane, for quiet cadence (R147). -/
def State.laneWork (s : State) (pos : Fin 16) (l : Lane) : Bool :=
  let v := (s.validator pos).lane l
  (s.target pos l).isSome || decide (v.delivery.state ≠ .idle) || switchDue (s.lane l) v
    || decide (v.dropOwed ≠ 0)

/-- A PRESENT validator with work (R147). -/
def State.hasWork (s : State) (pos : Fin 16) : Bool :=
  decide ((s.validator pos).presence = .present) && (s.laneWork pos .b || s.laneWork pos .p)

/-! ### Rounds and pauses (R145 to R148) -/

/-- Whether a position is visited when its turn comes in the round (R145). -/
def State.visitable (s : State) (pos : Fin 16) : Bool :=
  s.settings.roster[pos].isSome &&
    match (s.validator pos).presence with
    | .vacant => false
    | .seeking | .settling | .present => true
    | .silent => decide (s.scan.roundNo % 8 = 0)

/-- The next position to visit in the round. -/
def State.nextVisit (s : State) : Option (Fin 16) :=
  (List.finRange 16).find? fun pos => decide (s.scan.nextPos ≤ pos.val) && s.visitable pos

/-- The quiet interval in milliseconds (R147). -/
def quietMs (setting : Fin 4) : Nat := 250 * 2 ^ setting.val

/-- The scanner pauses for the quiet interval (R147). -/
def State.pause (s : State) : State :=
  { s with scan := { s.scan with phase := .paused (quietMs s.settings.quiet) } }

/-- A round of a number begins. A round that finds no position to visit is empty, and the scanner
pauses after it (R145, R147). -/
def State.beginRound (s : State) (number : Nat) : State :=
  let s := { s with scan := { s.scan with
    roundNo := number, phase := .visiting, nextPos := 0, exchanged := false, reported := false } }
  if s.nextVisit.isSome then s else s.pause

/-- The next round begins at once, or behind a waiting broadcast (R145, R146). -/
def State.nextRound (s : State) : State :=
  if s.scan.broadcast.isEmpty then s.beginRound ((s.scan.roundNo + 1) % 65536)
  else { s with scan := { s.scan with phase := .roundDue } }

/-- R147: the round ends quiet. -/
def State.quietRound (s : State) : Bool :=
  decide (s.lanes.b.state = .idle) && decide (s.lanes.p.state = .idle)
    && (List.finRange 16).all (fun pos => !s.hasWork pos)
    && s.scan.broadcast.isEmpty && !s.scan.reported

/-- A round ends: a pause follows a quiet or empty one (R147). -/
def State.endRound (s : State) : State :=
  if s.quietRound || !s.scan.exchanged then s.pause else s.nextRound

/-- After an exchange: the round ends if its last position has been visited or skipped, and a round due
begins once no broadcast waits (R145, R146). -/
def State.settleScan (s : State) : State :=
  match s.scan.phase with
  | .visiting => if s.nextVisit.isSome then s else s.endRound
  | .roundDue => if s.scan.broadcast.isEmpty then s.nextRound else s
  | .paused _ | .awaitReset => s

/-- A lane report, SET-CLASS or SET-POSITION has reached the scanner in the round: it will not end quiet
(R147). -/
def State.noteReport (s : State) : State := { s with scan := { s.scan with reported := true } }

/-- A lane report, or a SET-CLASS or SET-POSITION with a change, reaches the scanner: a pause ends at once
(R148), a round due begins if the report has emptied the broadcast list (R145, R146), and a round in
progress will not end quiet (R147). -/
def State.wakeScan (s : State) : State :=
  match s.scan.phase with
  | .paused _ | .roundDue => s.nextRound
  | .visiting | .awaitReset => s.noteReport

/-! ### Abandonment (R160, R61) -/

/-- Gives up the BATCH a visit to a position was building: its reads are withdrawn and the visit
chooses its frame again (R160). -/
def State.dropBuild (s : State) (pos : Fin 16) : State :=
  { s with scan := { s.scan with
      build := none, nextPos := pos.val,
      read := match s.scan.read, s.scan.walk with
        | some .batch, some _ => some .tally
        | some .batch, none => none
        | r, _ => r } }

/-- The frame belongs to a delivery of a lane. -/
def BusFrame.deliveryLane : BusFrame → Option Lane
  | .open l .. => some l
  | .batch l .. => some l
  | .close l _ => some l
  | _ => none

/-- The deliveries of a lane that an abandonment ends: those not IDLE that meet its test. -/
def State.abandons (s : State) (l : Lane) (test : Fin 16 → Delivery → Bool) (pos : Fin 16) : Bool :=
  let d := ((s.validator pos).lane l).delivery
  decide (d.state ≠ .idle) && test pos d

/-- Abandons the deliveries of a lane that meet a test (R160): the sub-records return to IDLE with
every figure 0, an exchange of one of them on the line is marked so that its outcome does not act on the
delivery (R161), and a BATCH being built for one of them is given up. -/
def State.abandonWhere (s : State) (l : Lane) (test : Fin 16 → Delivery → Bool) : State :=
  let s' := s.eachValidator fun pos v =>
    if s.abandons l test pos then
      v.setLane l { v.lane l with delivery := Delivery.idleWith 0 } else v
  let s' := s'.setLink (s.bus.link.mapAddressed fun x =>
    if x.frame.deliveryLane = some l ∧ s.abandons l test x.pos then { x with deliveryGone := true }
    else x)
  match s.scan.build with
  | some b => if b.lane = l ∧ s.abandons l test b.pos then s'.dropBuild b.pos else s'
  | none => s'

/-! ### Stale copies (R165) -/

/-- A pending generation is stale (R165). -/
def staleCopy (r : LaneRec) (v : ValidatorLane) : Bool :=
  decide (v.pending ≠ 0) &&
    !((decide (v.pending = r.active) || r.readyWith v.pending)
      && decide (v.pending = v.delivery.confirmed))

/-- The stale test: a stale copy is owed a DROP (R165). -/
def staleTest (r : LaneRec) (v : ValidatorLane) : ValidatorLane :=
  if staleCopy r v then { v with dropOwed := v.pending } else v

/-- Changes the part of a lane in every record that is not VACANT (section 9.4). -/
def State.eachLaneRecord (s : State) (l : Lane) (f : ValidatorLane → ValidatorLane) : State :=
  s.eachValidator fun _ v =>
    if v.presence = .vacant then v else v.setLane l (f (v.lane l))

/-- Clears the faulty and unfit marks (R169). -/
def ValidatorLane.clearMarks (v : ValidatorLane) : ValidatorLane := { v with faulty := 0, unfit := 0 }

/-! ### The tally walk (R153) -/

/-- At a lane report, a walk whose generation can no longer be a target is given up (R153). -/
def State.checkWalk (s : State) : State :=
  match s.scan.walk with
  | none => s
  | some w =>
    if w.generation = s.lanes.p.active ∨ s.lanes.p.readyWith w.generation then s
    else { s with scan := { s.scan with
        walk := none,
        read := match s.scan.read with
          | some .tally => if s.scan.build.isSome then some .batch else none
          | r => r } }

/-! ### Lane reports (R48, R162 to R164, R170, R171) -/

/-- A staging has begun, or S is READY: no record changes (R162). -/
def State.reportStaging (s : State) : State := s.checkWalk.wakeScan

/-- S is gone: what changes in a record for the lane (R164). -/
def goneIn (r : LaneRec) (g : Nat) (v : ValidatorLane) : ValidatorLane :=
  let v := if v.delivery.state = .idle ∧ v.delivery.target = g then
      { v with delivery := { v.delivery with target := 0 } } else v
  let v := if v.faulty = g then { v with faulty := 0 } else v
  let v := if v.unfit = g then { v with unfit := 0 } else v
  staleTest r v

/-- A delivery whose target is S leaves a drop owed for S (R164). -/
def owedForDelivery (g : Nat) (v : ValidatorLane) : ValidatorLane :=
  if v.delivery.state ≠ .idle ∧ v.delivery.target = g then { v with dropOwed := g } else v

/-- The report that S is gone (R164). -/
def State.reportGone (s : State) (l : Lane) (g : Nat) : State :=
  let s := s.eachLaneRecord l (owedForDelivery g)
  let s := s.abandonWhere l fun _ d => decide (d.target = g)
  let s := s.eachLaneRecord l (goneIn (s.lane l) g)
  let s := match l with
    | .b => s
    | .p => { s with scan := { s.scan with
        tally := s.scan.tally.filter fun t => decide (t.generation ≠ g) } }
  s.checkWalk.wakeScan

/-- A waiting SWITCH of a lane is replaced in its place by a new one, or the new one joins the tail
(R146). -/
def joinBroadcast : List Switch → Switch → List Switch
  | [], w => [w]
  | x :: xs, w => if x.lane = w.lane then w :: xs else x :: joinBroadcast xs w

/-- Changes the SWITCHes that wait; one on the line is not among them (R146, log 21). -/
def State.onWaitingSwitches (s : State) (f : List Switch → List Switch) : State :=
  { s with scan := { s.scan with
      broadcast :=
        match s.bus.link.broadcastOnLine, s.scan.broadcast with
        | some _, x :: xs => x :: f xs
        | _, xs => f xs } }

/-- The activation report (R163): `outgoing` is the ACTIVE the lane had. -/
def State.reportActivated (s : State) (l : Lane) (outgoing : Nat) : State :=
  let s := s.onWaitingSwitches fun xs =>
    joinBroadcast xs { lane := l, generation := (s.lane l).active }
  let s := s.abandonWhere l fun _ d => decide (d.target = outgoing)
  let s := s.eachLaneRecord l fun v => staleTest (s.lane l) v.clearMarks
  s.checkWalk.wakeScan

/-- Removes the waiting SWITCH of a lane unsent (R146). -/
def State.removeSwitch (s : State) (l : Lane) : State :=
  s.onWaitingSwitches fun xs => xs.filter fun w => decide (w.lane ≠ l)

/-- The rollback report (R170): `outgoing` is the rolled-back generation. -/
def State.reportRollback (s : State) (l : Lane) (outgoing : Nat) : State :=
  let s := s.removeSwitch l
  let s := s.abandonWhere l fun _ d => decide (d.target = outgoing)
  let s := s.eachLaneRecord l fun v => staleTest (s.lane l) v.clearMarks
  s.checkWalk.wakeScan

/-- The lane-cleared report (R171). -/
def State.reportCleared (s : State) (l : Lane) : State :=
  let s := s.removeSwitch l
  let s := s.abandonWhere l fun _ _ => true
  let s := s.eachLaneRecord l fun v => staleTest (s.lane l) v.clearMarks
  let s := match l with
    | .b => s
    | .p => { s with scan := { s.scan with tally := [] } }
  s.checkWalk.wakeScan

end Sys2Proof.Machine
end

