-- ==== Sys2Proof/Machine/Lanes.lean ====
section
/-! DEFINITION. The lane controller's shared procedures (chapter 2): staging, discard, verification,
activation, rollback, CLEAR and SUBSCRIBE. -/

namespace Sys2Proof.Machine

/-! ### Staging (R24, R25) -/

/-- The fields of a NOTICE copied into the staged notice. -/
def Notice.staged (x : Notice) : StagedNotice :=
  { g := x.g, b := x.b, n := x.n, count := x.count, sum := x.sum, e := x.e }

/-- A delta staging begins (R24). -/
def State.stageDelta (s : State) (l : Lane) (x : Notice) : State :=
  let r := s.lane l
  (s.setLane l { r with
    staged := some x.staged, stagedDigest := r.activeDigest, segmentMap := [],
    state := .staging }).reportStaging

/-- An image staging begins with a RETIRE of S (R25). -/
def State.stageImage (s : State) (l : Lane) (x : Notice) : State :=
  let r := s.lane l
  ((s.setLane l { r with staged := some x.staged, segmentMap := [], state := .retiring }
    ).requestSweep l (.retire x.g) false).reportStaging

/-! ### Discard (R33, R34, R36) -/

/-- The floor after a discard (R36). -/
def floorAfter (reason : DiscardReason) (floor staged : Nat) : Nat :=
  match reason with
  | .content | .digest => max floor staged
  | _ => floor

/-- The lane record at a discard (R33). A RETIRING lane defers its removing sweep (R34). -/
def LaneRec.discarded (r : LaneRec) (reason : DiscardReason) : LaneRec :=
  { r with
    state := .discarding, lastReason := reason, discards := bump r.discards,
    floor := floorAfter reason r.floor r.stagedGen,
    undoDeferred := if r.state = .retiring then true else r.undoDeferred }

/-- A staging is discarded (R33): the apply engine's segment given up, the record, the DISCARDED flag,
the report that S is gone, and the removing sweep requested unless the RETIRE still walks or the engine
still finishes an item (R34). -/
def State.discard (s : State) (l : Lane) (reason : DiscardReason) (removing : SweepKind) : State :=
  let r := s.lane l
  let g := r.stagedGen
  let s := s.abandonSegment l
  let s := s.setLane l (r.discarded reason)
  let s := s.rise (.discarded l) { lane := laneCode l, generation := g, detail := reason.code }
  let s := s.reportGone l g
  if r.state = .retiring ∨ s.store.engine.finishes l = true then s
  else s.requestSweep l removing false

/-- A discard whose removing sweep is an UNDO of S (R34). -/
def State.discardUndo (s : State) (l : Lane) (reason : DiscardReason) : State :=
  s.discard l reason (.undo (s.lane l).stagedGen)

/-! ### Activation (R37, R38) -/

/-- The effective time has come: e is 0, or the clock is set and at or above e (R37, R114). -/
def effectiveTimeCome (c : Clock) (e : Nat) : Bool :=
  decide (e = 0) || (decide (c.state ≠ .unset) && decide (e ≤ c.value))

/-- A lane meets the conditions of R37. -/
def State.activationDue (s : State) (l : Lane) : Bool :=
  let r := s.lane l
  match r.state, r.staged with
  | .ready, some n => !r.hold && effectiveTimeCome s.clock n.e
  | _, _ => false

/-- The history after a push of the outgoing ACTIVE (R38): at most two records. -/
def pushHistory (r : LaneRec) : List HistoryRecord :=
  if r.active = 0 then r.history
  else ({ generation := r.active, digest := r.activeDigest } :: r.history).take 2

/-- The lane record at activation, steps 1 to 4 of R38. -/
def LaneRec.activated (r : LaneRec) (n : StagedNotice) (clockValue : Nat) : LaneRec :=
  { r with
    history := pushHistory r, active := n.g, activeDigest := r.stagedDigest, staged := none,
    segmentMap := [], stagedDigest := Digest.zero, state := .idle,
    lateness := if n.e = 0 then 0 else min (clockValue - n.e) 65535 }

/-- Activation of S (R38), its report to the scanner last. -/
def State.activate (s : State) (l : Lane) : State :=
  let r := s.lane l
  match r.staged with
  | none => s
  | some n =>
    let s := s.setLane l (r.activated n s.clock.value)
    let s := s.requestSweep l .reclaim false
    let s := s.rise (.activated l) { lane := laneCode l, generation := n.g, detail := 1 }
    s.reportActivated l r.active

/-- The activation test (R37). -/
def State.testActivation (s : State) (l : Lane) : State :=
  if s.activationDue l then s.activate l else s

/-- The fleet clock's report to both lanes (R115). Which lane takes it first when both activate is a
free value (log 10). -/
def State.reportClock (s : State) : State :=
  if s.activationDue .b && s.activationDue .p then
    let first : Lane := if Config.laneBReportsFirst s.choices then .b else .p
    let s := { s with choices := s.choices + 1 }
    (s.testActivation first).testActivation first.other
  else (s.testActivation .b).testActivation .p

/-! ### Verification (R29, R30) -/

/-- A set of indices in rising order, with an index joined. -/
def insertIndex : List Nat → Nat → List Nat
  | [], i => [i]
  | x :: xs, i => if i < x then i :: x :: xs else if x = i then x :: xs else x :: insertIndex xs i

/-- The segment map holds every index from 0 to n - 1. -/
def mapFull (map : List Nat) (n : Nat) : Bool := (List.range n).all fun i => map.contains i

/-- The comparison made when the map is full (R30). -/
def State.verify (s : State) (l : Lane) : State :=
  let r := s.lane l
  match r.staged with
  | none => s
  | some n =>
    if r.stagedDigest.count = n.count ∧ r.stagedDigest.sum = n.sum then
      let s := s.setLane l { r with state := .ready }
      let s := s.rise (.stagedReady l) { lane := laneCode l, generation := n.g }
      s.reportStaging.testActivation l
    else s.discardUndo l .digest

/-- The last item of a segment is done (R29): the engine is EMPTY, the index joins the map, and a full
map is verified. -/
def State.completeSegment (s : State) (l : Lane) (index : Nat) : State :=
  let r := s.lane l
  let map := insertIndex r.segmentMap index
  let s := (s.setEngine .empty).setLane l { r with segmentMap := map }
  match r.staged with
  | none => s
  | some n => if mapFull map n.n then s.verify l else s

/-! ### Rollback (R42) -/

/-- A rollback completes (R42). -/
def State.completeRollback (s : State) (l : Lane) : State :=
  let r := s.lane l
  match r.history with
  | [] => s
  | top :: rest =>
    let s := s.setLane l { r with
      floor := max r.floor r.active, active := top.generation, activeDigest := top.digest,
      history := rest }
    let s := s.requestSweep l .reclaim false
    let s := s.rise (.activated l) { lane := laneCode l, generation := top.generation, detail := 2 }
    s.reportRollback l r.active

/-! ### CLEAR and SUBSCRIBE (R43 to R45) -/

/-- The sweep requests of R44 for a lane in which nothing is staged: a CLEAR at once, unless a deferred
sweep is to become one, or the sweep that the end of an item in hand is to bring (log 39). -/
def State.clearIdle (s : State) (l : Lane) : State :=
  if (s.lane l).state = .discarding
      ∧ ((s.lane l).undoDeferred = true ∨ s.store.engine.finishes l = true) then s
  else s.requestSweep l .clear false

/-- The record changes of R43. -/
def LaneRec.cleared (r : LaneRec) (cmd : LaneCommand) : LaneRec :=
  { r with
    active := 0, activeDigest := Digest.zero, history := [], floor := 0, state := .discarding,
    pendingCommand := some cmd }

/-- A CLEAR, or a SUBSCRIBE to another stream, is accepted (R43, R44). -/
def State.acceptClear (s : State) (l : Lane) (cmd : LaneCommand) : State :=
  let s := if (s.lane l).state.holdsStaging then s.discard l .aborted .clear else s.clearIdle l
  (s.setLane l ((s.lane l).cleared cmd)).reportCleared l

/-- Whether the pending command calls for a CLEAR sweep (R35, R44). -/
def LaneRec.clearPending (r : LaneRec) : Bool :=
  match r.pendingCommand with
  | some .clear | some (.subscribe _) => true
  | _ => false

/-- The removing sweep of a discarded generation, requested after its discard (R34, R44). -/
def LaneRec.removingSweep (r : LaneRec) : SweepKind :=
  if r.clearPending then .clear else .undo r.stagedGen

/-- The lane record emptied of its staging, IDLE (R35). -/
def LaneRec.emptied (r : LaneRec) : LaneRec :=
  { r with staged := none, segmentMap := [], stagedDigest := Digest.zero, state := .idle }

end Sys2Proof.Machine
end

