-- ==== Sys2Proof/Machine/Apply.lean ====
section
/-! DEFINITION. The apply engine: APPLY_ITEM (R62 to R72). -/

namespace Sys2Proof.Machine

/-- The outcome of the item at a position of a segment, against S and its region (R64 to R69); none past
the end of the list. -/
def State.itemOutcome (s : State) (seg : Segment) (pos : Nat) : Option ItemOutcome :=
  let l := seg.lane
  let g := (s.lane l).stagedGen
  match seg.items with
  | .block items =>
    items[pos]?.map (applyBlockItem g (decide (seg.b = 0)) (s.store.free.get l) (s.region l))
  | .product items => items[pos]?.map (applyRecord g (s.store.free.get l) (s.region l))

/-- The number of items of a segment. -/
def Segment.size (seg : Segment) : Nat :=
  match seg.items with
  | .block items => items.length
  | .product items => items.length

/-- After applied, duplicate or absent drop: the next item, or the segment complete (R62). -/
def State.nextItem (s : State) (seg : Segment) (pos : Nat) : State :=
  if pos + 1 < seg.size then s.setEngine (.applying seg (pos + 1) false)
  else s.completeSegment seg.lane seg.index

/-- The engine waits for a RECLAIM of its lane's region that it requests or joins (R70). -/
def State.waitForReclaim (s : State) (seg : Segment) (pos : Nat) : State :=
  (s.setEngine (.waiting seg pos)).requestSweep seg.lane .reclaim true

/-- The ladder's second step (R32, R71): the bottom history record is given up, or the store is full and
the engine stops (R63). -/
def State.giveUpHistory (s : State) (seg : Segment) (pos : Nat) : State :=
  let l := seg.lane
  let r := s.lane l
  match r.history.getLast? with
  | none => (s.setEngine .empty).discardUndo l .storeFull
  | some bottom =>
    let s := s.setLane l { r with history := r.history.dropLast }
    let s := s.rise (.pressure l) { lane := laneCode l, generation := bottom.generation }
    s.waitForReclaim seg pos

/-- What follows from an item's outcome (R20, R29, R31, R62, R70, R71). A content error stops the engine
(R63). -/
def State.takeOutcome (s : State) (seg : Segment) (pos : Nat) (retry : Bool) :
    ItemOutcome → State
  | .applied m change =>
    let l := seg.lane
    let s := s.setRegion l m
    let s := s.setLane l { s.lane l with stagedDigest := (s.lane l).stagedDigest.change change }
    s.nextItem seg pos
  | .duplicate =>
    let l := seg.lane
    (s.setLane l { s.lane l with duplicates := bump (s.lane l).duplicates }).nextItem seg pos
  | .absentDrop =>
    let l := seg.lane
    (s.setLane l { s.lane l with absentDrops := bump (s.lane l).absentDrops }).nextItem seg pos
  | .contentError => (s.setEngine .empty).discardUndo seg.lane .content
  | .noSlot => if retry then s.giveUpHistory seg pos else s.waitForReclaim seg pos

/-- An item granted before its lane left STAGING is carried out: its change of the region stands, and
nothing is reported to the lane (R63, R93). -/
def State.finishItem (s : State) (seg : Segment) (pos : Nat) : State :=
  match s.itemOutcome seg pos with
  | some (.applied m _) => s.setRegion seg.lane m
  | _ => s

/-- The segment is reported abandoned, and the lane requests its removing sweep (R34, R44, R63). -/
def State.segmentAbandoned (s : State) (l : Lane) : State :=
  (s.setEngine .empty).requestSweep l (s.lane l).removingSweep false

/-- The engine's operation, once the arbiter grants it (R60, R62), or the end of one granted before its
lane left STAGING (R63). -/
def applyItemStep (s : State) : State :=
  if s.nextGrant = some .apply then
    match s.store.engine with
    | .applying seg pos retry =>
      match s.itemOutcome seg pos with
      | some o => (s.granted .apply).takeOutcome seg pos retry o
      | none => (s.granted .apply).completeSegment seg.lane seg.index
    | .finishing seg pos => (s.finishItem seg pos).segmentAbandoned seg.lane
    | .empty | .waiting .. => s
  else s

/-- APPLY_ITEM. -/
def execApplyItem (s : State) : Host.Outcome State Fault Refusal := s.whileRunning applyItemStep

end Sys2Proof.Machine
end

