-- ==== Sys2Proof/Machine/Operands.lean ====
section
/-! DEFINITION. Parsing what the part receives: carousel bodies, CONTROL arguments, validator replies. -/

namespace Sys2Proof.Machine

/-! ### The uplink frame (R1 to R4, R194) -/

/-- The message kinds of the envelope. -/
inductive UplinkKind where
  | carousel (k : CarouselKind)
  | control
  | outbound
deriving DecidableEq, Repr

/-- The kind byte: 01h to 07h name the seven uplink kinds. -/
def uplinkKindOf : Nat → Option UplinkKind
  | 1 => some (.carousel .notice)
  | 2 => some (.carousel .segment)
  | 3 => some (.carousel .beacon)
  | 4 => some .control
  | 5 | 6 | 7 => some .outbound
  | _ => none

/-- R1: the frame is 64 bytes or more, and its last four are its check sequence. -/
def frameCheckGood (frame : List Byte) : Bool :=
  decide (64 ≤ frame.length)
    && frame.drop (frame.length - 4) == fcsBytes (frame.take (frame.length - 4))

/-- The destination address of a frame. -/
def frameDestination (frame : List Byte) : Mac := BitVec.ofNat 48 (field frame 0 6)

/-- The EtherType of a frame. -/
def frameEtherType (frame : List Byte) : BitVec 16 := BitVec.ofNat 16 (field frame 12 2)

/-- The bytes between the EtherType and the frame check sequence. -/
def framePayload (frame : List Byte) : List Byte := (frame.take (frame.length - 4)).drop 14

/-- R2: addressed to the unit or the fleet group, with the EtherType in force. -/
def frameIsOurs (a : Addressing) (frame : List Byte) : Bool :=
  (frameDestination frame == a.unitMac || frameDestination frame == a.groupMac)
    && frameEtherType frame == a.etherType

/-- The envelope test of R3 and R194: the kind and body, or none where the test fails. -/
def openEnvelope (payload : List Byte) : Option (UplinkKind × List Byte) :=
  let bodyLength := field payload 1 2
  let agrees := decide (payload.length = 3 + bodyLength)
    || (decide (3 + bodyLength < 46) && decide (payload.length = 46))
  match uplinkKindOf (field payload 0 1) with
  | none => none
  | some k =>
    if !agrees then none
    else if k = .control ∧ bodyLength < 3 then none
    else some (k, (payload.drop 3).take bodyLength)

/-- The fields of a CONTROL body: identifier, tag, command, arguments. -/
def controlOf (body : List Byte) : ControlMessage :=
  { unitId := BitVec.ofNat 8 (field body 0 1), tag := BitVec.ofNat 8 (field body 1 1),
    code := BitVec.ofNat 8 (field body 2 1), args := body.drop 3 }

/-! ### Carousel bodies -/

/-- A BEACON body is exactly one fleet time (R8, R193). -/
def parseBeacon (body : List Byte) : Option Nat :=
  if body.length = 4 then some (beNat body) else none

/-- The stream id of a NOTICE or SEGMENT, if the body is long enough to hold one (R9). -/
def streamIdOf (body : List Byte) : Option Nat :=
  if 2 ≤ body.length then some (field body 0 2) else none

/-- The NOTICE layout of 27 bytes (section 11.1). -/
def parseNotice (body : List Byte) : Option Notice :=
  if body.length = 27 then
    match laneOf (field body 2 1) with
    | none => none
    | some kind => some
      { stream := field body 0 2, kind := kind, g := field body 3 3, b := field body 6 3,
        n := field body 9 2, count := field body 11 2, sum := BitVec.ofNat 32 (field body 13 4),
        e := field body 17 4, newest := field body 21 3, oldest := field body 24 3 }
  else none

/-- The tests of R10 on a NOTICE that could be parsed. -/
def noticeWellFormed (l : Lane) (regionSize : Nat) (x : Notice) : Bool :=
  decide (x.kind = l)
    && decide (x.g ≠ 0)
    && decide (1 ≤ x.n ∧ x.n ≤ 1024)
    && decide (x.b = 0 ∨ x.b + 1 = x.g)
    && decide (¬(l = .p ∧ x.b ≠ 0))
    && decide (x.g ≤ x.newest)
    && decide (x.oldest = 0 ∨ x.oldest < x.newest)
    && decide (x.count ≤ regionSize)

/-- One blocklist item of 9 bytes: an op of ADD or DROP (R195). -/
def parseBlockItem (bs : List Byte) : Option (BlockItem × List Byte) :=
  if bs.length < 9 then none
  else
    let op : Option BlockOp :=
      if field bs 0 1 = 1 then some .add else if field bs 0 1 = 2 then some .drop else none
    op.map fun op =>
      ({ op := op, priority := field bs 1 1, token := field bs 2 7 }, bs.drop 9)

/-- A field of `n` bytes marked present or absent; a body that ends inside it cannot be parsed. -/
def takeOpt (present : Bool) (n : Nat) (bs : List Byte) : Option (Option Nat × List Byte) :=
  if present then
    if bs.length < n then none else some (some (field bs 0 n), bs.drop n)
  else some (none, bs)

/-- One product record (R195): its fixed fields, the fields its presence byte marks, its zones. -/
def parseProductRecord (bs : List Byte) : Option (ProductRecord × List Byte) :=
  if bs.length < 7 then none
  else
    let code := field bs 0 2
    let presence := field bs 2 1
    if 4095 < code ∨ 7 < presence then none
    else
      (takeOpt (presence.testBit 0) 2 (bs.drop 7)).bind fun (concession, r1) =>
      (takeOpt (presence.testBit 1) 2 r1).bind fun (lastDay, r2) =>
      (takeOpt (presence.testBit 2) 1 r2).bind fun (transfer, r3) =>
      let zoneCount := field r3 0 1
      let zones := ((r3.drop 1).take zoneCount).map BitVec.toNat
      if r3.length < 1 + zoneCount ∨ zoneCount < 1 ∨ 8 < zoneCount then none
      else if zones.any (· == 0) ∨ transfer = some 0 then none
      else some
        ({ code := code, fare := field bs 3 2, concession := concession,
           firstDay := field bs 5 2, lastDay := lastDay, transfer := transfer, zones := zones },
         r3.drop (1 + zoneCount))

/-- Items read one after another, as many as declared; the body must end after the last (R195). -/
def parseItems {α : Type} (one : List Byte → Option (α × List Byte)) :
    Nat → List Byte → Option (List α)
  | 0, bs => if bs.isEmpty then some [] else none
  | k + 1, bs =>
    match one bs with
    | none => none
    | some (x, rest) => (parseItems one k rest).map (x :: ·)

/-- The items of a SEGMENT against the format of its lane (R12). -/
def parseSegmentItems (l : Lane) (count : Nat) (bs : List Byte) : Option SegmentItems :=
  match l with
  | .b =>
    if count < 1 ∨ 64 < count then none
    else (parseItems parseBlockItem count bs).map .block
  | .p =>
    if count < 1 ∨ 16 < count then none
    else (parseItems parseProductRecord count bs).map .product

/-- A SEGMENT body checked for well-formedness (R12, R195). -/
def parseSegment (l : Lane) (body : List Byte) : Option Segment :=
  if body.length < 11 then none
  else
    let g := field body 2 3
    let b := field body 5 3
    let i := field body 8 2
    if g = 0 ∨ ¬(b = 0 ∨ b + 1 = g) ∨ 1023 < i then none
    else (parseSegmentItems l (field body 10 1) (body.drop 11)).map fun items =>
      { stream := field body 0 2, g := g, b := b, index := i, items := items }

/-! ### CONTROL arguments (section 11.1) -/

/-- An argument list of one lane. -/
def argLane (args : List Byte) : Option Lane :=
  if args.length = 1 then laneOf (field args 0 1) else none

/-- No arguments. -/
def argNone (args : List Byte) : Option Unit := if args.isEmpty then some () else none

def argSplit (args : List Byte) : Option (Fin 4) :=
  if args.length = 1 then
    if h : field args 0 1 < 4 then some ⟨field args 0 1, h⟩ else none
  else none

def argSubscribe (args : List Byte) : Option (Lane × Nat) :=
  if args.length = 3 then (laneOf (field args 0 1)).map fun l => (l, field args 1 2) else none

/-- SET-CLASS: class 0-7, capacity to 61,440, yes or no, product capacity to 16,384, batch 1-32
(R135, R136). -/
def argSetClass (args : List Byte) : Option (Fin 8 × ClassRec) :=
  if args.length = 7 then
    if h : field args 0 1 < 8 then
      (yesNoOf (field args 3 1)).bind fun takes =>
      if field args 1 2 ≤ 61440 ∧ field args 4 2 ≤ 16384 ∧ 1 ≤ field args 6 1 ∧ field args 6 1 ≤ 32
      then some (⟨field args 0 1, h⟩,
        { capacity := field args 1 2, takesProducts := takes,
          productCapacity := field args 4 2, batchSize := field args 6 1 })
      else none
    else none
  else none

/-- SET-POSITION: position 1-16 and a class 0-7, or FFh for VACANT (R138). -/
def argSetPosition (args : List Byte) : Option (Fin 16 × Option (Fin 8)) :=
  if args.length = 2 then
    if h : field args 0 1 - 1 < 16 then
      if field args 0 1 = 0 then none
      else if field args 1 1 = 255 then some (⟨field args 0 1 - 1, h⟩, none)
      else if hc : field args 1 1 < 8 then
        some (⟨field args 0 1 - 1, h⟩, some ⟨field args 1 1, hc⟩)
      else none
    else none
  else none

/-- SET-TIMING: quiet interval 0-3 and report period 0-12 (R178). -/
def argSetTiming (args : List Byte) : Option (Fin 4 × Fin 13) :=
  if args.length = 2 then
    if h : field args 0 1 < 4 then
      if hp : field args 1 1 < 13 then some (⟨field args 0 1, h⟩, ⟨field args 1 1, hp⟩) else none
    else none
  else none

/-- SET-ADDRESSING: an individual unit MAC address and an EtherType of 1,536 or more (R177). -/
def argSetAddressing (args : List Byte) : Option Addressing :=
  if args.length = 21 then
    if field args 1 1 % 2 = 0 ∧ 1536 ≤ field args 19 2 then some
      { unitId := BitVec.ofNat 8 (field args 0 1), unitMac := BitVec.ofNat 48 (field args 1 6),
        groupMac := BitVec.ofNat 48 (field args 7 6),
        gatewayMac := BitVec.ofNat 48 (field args 13 6),
        etherType := BitVec.ofNat 16 (field args 19 2) }
    else none
  else none

/-- EVENTS: mask and value (R182). -/
def argEvents (args : List Byte) : Option (BitVec 16 × BitVec 16) :=
  if args.length = 4 then
    some (BitVec.ofNat 16 (field args 0 2), BitVec.ofNat 16 (field args 2 2))
  else none

/-- ACKNOWLEDGE: mask (R182). -/
def argMask (args : List Byte) : Option (BitVec 16) :=
  if args.length = 2 then some (BitVec.ofNat 16 (field args 0 2)) else none

/-- INSPECT: lane, slot below the region size, count 1-16 (R186). -/
def argInspect (size : Lane → Nat) (args : List Byte) : Option (Lane × Nat × Nat) :=
  if args.length = 4 then
    (laneOf (field args 0 1)).bind fun l =>
    if field args 1 2 < size l ∧ 1 ≤ field args 3 1 ∧ field args 3 1 ≤ 16
    then some (l, field args 1 2, field args 3 1) else none
  else none

/-- INSPECT-NEXT: count 1-16 (R187). -/
def argInspectNext (args : List Byte) : Option Nat :=
  if args.length = 1 then
    if 1 ≤ field args 0 1 ∧ field args 0 1 ≤ 16 then some (field args 0 1) else none
  else none

/-! ### Replies (R123, R124, R196) -/

/-- The largest body of a reply type, that of STATUS (section 11.4). -/
def largestReplyBody : Nat := 16

/-- The body length a reply declares, once its first five characters have arrived. -/
def declaredLength (chars : List RxChar) : Option Nat :=
  if 5 ≤ chars.length then some (field (chars.map RxChar.byte) 3 2) else none

/-- The STATUS body of 16 bytes; a capacity above 61,440 or a ready figure neither yes nor no makes
the reply wrong (R128). -/
def parseStatus (body : List Byte) : Option StatusReport :=
  match yesNoOf (field body 6 1), yesNoOf (field body 13 1) with
  | some rb, some rp =>
    if body.length = 16 ∧ field body 14 2 ≤ 61440 then some
      { held := { b := field body 0 3, p := field body 7 3 },
        staged := { b := field body 3 3, p := field body 10 3 },
        ready := { b := rb, p := rp }, capacity := field body 14 2 }
    else none
  | _, _ => none

/-- A REFUSE body: its reason, and a capacity of 1 to 61,440 for CAPACITY alone (R129, R196). -/
def parseRefuse (body : List Byte) : Option Reply :=
  if body.length = 3 ∧ field body 0 1 = 1 ∧ 1 ≤ field body 1 2 ∧ field body 1 2 ≤ 61440 then
    some (.refuseCapacity (field body 1 2))
  else if body.length = 1 ∧ field body 0 1 = 2 then some .refuseBusy
  else if body.length = 1 ∧ field body 0 1 = 3 then some .refuseGeneration
  else none

/-- A reply by its type byte and body (R196). -/
def parseReply (type : Nat) (body : List Byte) : Option Reply :=
  if type = 0x81 then (parseStatus body).map .status
  else if type = 0x82 then if body.isEmpty then some .accept else none
  else if type = 0x83 then
    if body.isEmpty then some (.ack none)
    else if body.length = 2 then some (.ack (some (beNat body))) else none
  else if type = 0x84 then
    if body.length = 6 then some (.confirm (field body 0 2) (BitVec.ofNat 32 (field body 2 4)))
    else none
  else if type = 0x85 then parseRefuse body
  else none

/-- The replies allowed for each frame (R124). -/
def replyAllowed : BusFrame → Reply → Bool
  | .poll, .status _ => true
  | .open .., .accept => true
  | .open l .., .refuseCapacity _ => decide (l = .b)
  | .open .., .refuseBusy => true
  | .batch _ _ number _, .ack (some n) => decide (n = number)
  | .close .., .confirm _ _ => true
  | .close .., .refuseGeneration => true
  | .switch .., .status _ => true
  | .drop .., .ack none => true
  | _, _ => false

/-- The judgement of a complete reply (R123, R124): damaged by its CRC or a framing error, wrong by its
contents, or good. -/
def judgeReply (x : Addressed) (chars : List RxChar) : ExchangeOutcome :=
  let bytes := chars.map RxChar.byte
  let front := bytes.take (bytes.length - 2)
  let body := front.drop 5
  if chars.any RxChar.framingError then .miss .damaged
  else if field bytes (bytes.length - 2) 2 ≠ (crc front).toNat then .miss .damaged
  else if field bytes 0 1 ≠ 0 ∨ field bytes 1 1 ≠ x.pos.val + 1 then .miss .wrong
  else
    match parseReply (field bytes 2 1) body with
    | none => .miss .wrong
    | some r => if replyAllowed x.frame r then .good r else .miss .wrong

end Sys2Proof.Machine
end

