-- ==== Sys2Proof/Machine/BusSteps.lean ====
section
/-! DEFINITION. The validator bus and the outcomes it hands to the scanner: BROADCAST_SWITCH,
BUS_FRAME_SENT, REPLY_START, REPLY_RECEIVED, REPLY_WINDOW_END, LINE_IDLE_GAP, TURNAROUND_GAP_END,
POST_BROADCAST_GAP_END, POST_RESET_GAP_END, QUIET_INTERVAL_END. -/

namespace Sys2Proof.Machine

/-! ### BROADCAST_SWITCH (R146) -/

/-- The head of the broadcast list goes to the bus once no exchange and no build is in hand. In a round
it counts as an exchange made (R145). -/
def broadcastSwitchStep (s : State) : State :=
  match s.scan.broadcast, s.bus.link, s.scan.build with
  | w :: _, .idle, none =>
    { s with
      bus := { s.bus with
        link := .sending (.broadcast w), line := busBytes 0 (.switch w.lane w.generation) },
      scan := { s.scan with
        exchanged := if s.scan.phase = .visiting then true else s.scan.exchanged } }
  | _, _, _ => s

/-- BROADCAST_SWITCH. -/
def execBroadcastSwitch (s : State) : Host.Outcome State Fault Refusal :=
  s.whileRunning broadcastSwitchStep

/-! ### BUS_FRAME_SENT (R122, R125) -/

/-- The link state after the last stop bit of the part's frame. -/
def Link.frameSent : Link → Link
  | .sending (.addressed x) => .waiting x
  | .sending (.broadcast w) => .postBroadcast w
  | k => k

def busFrameSentStep (s : State) : State := s.setLink s.bus.link.frameSent

/-- BUS_FRAME_SENT. -/
def execBusFrameSent (s : State) : Host.Outcome State Fault Refusal :=
  s.whileRunning busFrameSentStep

/-! ### Characters on the line (R119, R122, R123, R126) -/

/-- A start bit: the first one within the reply window begins a reply; in IDLE and GAP it is stray
traffic; while the part sends, it is not received. -/
def Bus.startBit (b : Bus) : Bus :=
  match b.link with
  | .waiting x => { b with link := .receiving x [] }
  | .idle | .turnaround .. | .postBroadcast _ | .postReset => { b with strayRun := true }
  | .sending _ | .receiving .. => b

/-- The link after one more character of a reply (R123): an overlong body length takes no further
bytes; a complete reply is judged and the turnaround gap begins. -/
def receiveChar (x : Addressed) (chars : List RxChar) (c : RxChar) : Link :=
  match declaredLength chars with
  | some n =>
    if largestReplyBody < n then .receiving x chars
    else if chars.length + 1 = n + 7 then .turnaround x (judgeReply x (chars ++ [c]))
    else .receiving x (chars ++ [c])
  | none => .receiving x (chars ++ [c])

/-- One character on the line. -/
def Bus.char (b : Bus) (c : RxChar) : Bus :=
  let b := b.startBit
  match b.link with
  | .receiving x chars => { b with link := receiveChar x chars c }
  | _ => b

/-- REPLY_START (R122). -/
def execReplyStart (s : State) : Host.Outcome State Fault Refusal :=
  s.whileRunning fun s => { s with bus := s.bus.startBit }

/-- REPLY_RECEIVED (R123): the characters are taken in one after another. -/
def execReplyReceived (chars : List RxChar) (s : State) : Host.Outcome State Fault Refusal :=
  s.whileRunning fun s => { s with bus := chars.foldl Bus.char s.bus }

/-- The reply window ends with no character: a silent miss (R122). -/
def Link.windowEnd : Link → Link
  | .waiting x => .turnaround x (.miss .silent)
  | k => k

/-- REPLY_WINDOW_END. -/
def execReplyWindowEnd (s : State) : Host.Outcome State Fault Refusal :=
  s.whileRunning fun s => s.setLink s.bus.link.windowEnd

/-- The line has been idle for 1 ms: a run of stray traffic is counted (R126), and a reply not
complete has ended damaged (R123). While the part sends, the line is not idle. -/
def Bus.idleGap (b : Bus) : Bus :=
  match b.link with
  | .sending _ => b
  | _ =>
    { b with
      stray := if b.strayRun then bump b.stray else b.stray, strayRun := false,
      link := match b.link with
        | .receiving x _ => .turnaround x (.miss .damaged)
        | k => k }

/-- LINE_IDLE_GAP. -/
def execLineIdleGap (s : State) : Host.Outcome State Fault Refusal :=
  s.whileRunning fun s => { s with bus := s.bus.idleGap }

/-! ### Presence (R140 to R142) -/

/-- A good outcome on presence and the runs. -/
def Validator.goodPresence (v : Validator) : Validator :=
  match v.presence with
  | .vacant => v
  | .seeking | .silent => { v with presence := .settling, goodRun := 0 }
  | .settling =>
    if 3 ≤ v.goodRun + 1 then
      { v with presence := .present, goodRun := v.goodRun + 1, missRun := 0 }
    else { v with goodRun := v.goodRun + 1 }
  | .present => { v with missRun := 0 }

/-- A good outcome takes the position into PRESENT. -/
def Validator.joins (v : Validator) : Bool :=
  decide (v.presence = .settling) && decide (3 ≤ v.goodRun + 1)

/-- A miss on presence, the runs and the miss counter. -/
def Validator.missPresence (v : Validator) : Validator :=
  let v := { v with missCounter := bump v.missCounter }
  match v.presence with
  | .vacant | .seeking | .silent => v
  | .settling => { v with presence := .seeking, goodRun := 0 }
  | .present =>
    if 4 ≤ v.missRun + 1 then { v with presence := .silent, missRun := 0 }
    else { v with missRun := v.missRun + 1 }

/-- A miss loses the position (R141). -/
def Validator.isLost (v : Validator) : Bool :=
  decide (v.presence = .present) && decide (4 ≤ v.missRun + 1)

/-- A good outcome applied to presence, JOINED raised at the entry to PRESENT (R140). -/
def State.goodAt (s : State) (pos : Fin 16) : State :=
  let v := s.validator pos
  let s := s.setValidator pos v.goodPresence
  if v.joins then s.rise .joined { position := pos.val + 1 } else s

/-- A miss applied to presence; a lost position raises LOST and has its deliveries abandoned
(R141). -/
def State.missAt (s : State) (pos : Fin 16) : State :=
  let v := s.validator pos
  let s := s.setValidator pos v.missPresence
  if v.isLost then
    let s := s.rise .lost { position := pos.val + 1 }
    (s.abandonWhere .b fun p _ => decide (p = pos)).abandonWhere .p fun p _ => decide (p = pos)
  else s

/-! ### Good replies -/

/-- The lane part of a STATUS write, with the stale test (R144, R165). -/
def ValidatorLane.withStatus (v : ValidatorLane) (r : LaneRec) (held staged : Nat) (ready : Bool) :
    ValidatorLane :=
  staleTest r { v with held := held, pending := staged, ready := ready }

/-- A good STATUS is written for a position that is not VACANT (R144); a nonzero capacity below the one
fixed for a lane-B delivery abandons it (R103, R157). -/
def State.writeStatus (s : State) (pos : Fin 16) (t : StatusReport) : State :=
  let v := s.validator pos
  if v.presence = .vacant then s else
  let s := s.setValidator pos
    { v with
      lastCapacity := t.capacity,
      lanes :=
        { b := v.lanes.b.withStatus (s.lane .b) t.held.b t.staged.b t.ready.b,
          p := v.lanes.p.withStatus (s.lane .p) t.held.p t.staged.p t.ready.p } }
  s.abandonWhere .b fun p d =>
    decide (p = pos) && decide (t.capacity ≠ 0) && decide (t.capacity < d.capacity)

/-- Marks a generation faulty for a validator and raises DELIVERY_FAULT (R159, R168). -/
def State.markFaulty (s : State) (pos : Fin 16) (l : Lane) (generation : Nat) : State :=
  let v := s.validator pos
  let s := s.setValidator pos (v.setLane l { v.lane l with faulty := generation })
  s.rise .deliveryFault { position := pos.val + 1, lane := laneCode l, generation := generation }

/-- A failed attempt (R159); `owed` where the validator may hold the target with other contents. -/
def State.failedAttempt (s : State) (pos : Fin 16) (l : Lane) (owed : Bool) : State :=
  let v := s.validator pos
  let x := v.lane l
  let d := x.delivery
  let x := if owed then { x with dropOwed := d.target } else x
  if d.attempts + 1 < 3 then
    s.setValidator pos (v.setLane l { x with
      delivery := { d with state := .opening, attempts := d.attempts + 1, refix := true } })
  else
    (s.setValidator pos (v.setLane l { x with delivery := Delivery.idleWith 0 })).markFaulty pos l
      d.target

/-- A good reply to the OPEN of a delivery (R154). -/
def State.openReply (s : State) (pos : Fin 16) (l : Lane) (r : Reply) : State :=
  let v := s.validator pos
  let x := v.lane l
  let d := x.delivery
  match r with
  | .accept =>
    s.setValidator pos (v.setLane l { x with
      pending := 0,
      delivery := { d with state := .sending, cursor := 0, sent := 0, batchNo := 1, running := 0 } })
  | .refuseCapacity c =>
    if c < d.expectCount then
      s.setValidator pos (v.setLane l { x with delivery := { d with refix := true } })
    else s.failedAttempt pos l true
  | _ => s

/-- A good ACK of a BATCH (R100, R156). -/
def Delivery.acknowledged (d : Delivery) (items : List BatchItem) (nextCursor : Nat) : Delivery :=
  { d with
    sent := d.sent + items.length, cursor := nextCursor, batchNo := d.batchNo + 1,
    running := if d.truncated then (items.map BatchItem.weight).foldl (· + ·) d.running
      else d.running }

/-- A good reply to CLOSE (R158). -/
def State.closeReply (s : State) (pos : Fin 16) (l : Lane) (r : Reply) : State :=
  let v := s.validator pos
  let x := v.lane l
  let d := x.delivery
  match r with
  | .confirm count sum =>
    if count = d.expectCount ∧ sum = d.expectSum then
      s.setValidator pos (v.setLane l { x with
        pending := d.target, delivery := Delivery.idleWith d.target })
    else s.failedAttempt pos l true
  | _ => s.failedAttempt pos l false

/-- A good STATUS in reply to an addressed SWITCH that shows it not made (R168, log 26). -/
def State.switchReply (s : State) (pos : Fin 16) (l : Lane) (generation : Nat) : State :=
  let a := (s.lane l).active
  let x := (s.validator pos).lane l
  if generation = a ∧ x.pending = a ∧ x.held ≠ a then s.markFaulty pos l a else s

/-- A good ACK of a DROP (R166). -/
def ValidatorLane.dropped (x : ValidatorLane) (generation : Nat) : ValidatorLane :=
  { x with
    pending := if x.pending = generation then 0 else x.pending,
    dropOwed := if x.dropOwed = generation then 0 else x.dropOwed }

/-- A figure reported by REFUSE CAPACITY (R154, R161). -/
def State.noteCapacity (s : State) (pos : Fin 16) (r : Reply) : State :=
  match r with
  | .refuseCapacity c =>
    let v := s.validator pos
    s.setValidator pos { v with lastCapacity := c }
  | _ => s

/-- A good reply applied to the work its frame was sent for (R143, R154 to R168). An abandoned
delivery is not acted on (R161). -/
def State.applyReply (s : State) (x : Addressed) (r : Reply) : State :=
  let s := s.noteCapacity x.pos r
  let s := match r with
    | .status t => s.writeStatus x.pos t
    | _ => s
  match x.frame with
  | .poll => s
  | .open l .. => if x.deliveryGone then s else s.openReply x.pos l r
  | .batch l _ _ items =>
    if x.deliveryGone then s
    else
      let v := s.validator x.pos
      s.setValidator x.pos (v.setLane l { v.lane l with
        delivery := (v.lane l).delivery.acknowledged items x.nextCursor })
  | .close l _ => if x.deliveryGone then s else s.closeReply x.pos l r
  | .switch l g => s.switchReply x.pos l g
  | .drop l g =>
    let v := s.validator x.pos
    s.setValidator x.pos (v.setLane l ((v.lane l).dropped g))

/-! ### TURNAROUND_GAP_END (R122, R127, R134, R143) -/

/-- The bus counters at the end of an exchange (R134). -/
def Bus.countOutcome (b : Bus) : ExchangeOutcome → Bus
  | .miss .damaged => { b with damaged := bump b.damaged }
  | .miss .wrong => { b with wrong := bump b.wrong }
  | .miss .silent => b
  | .good _ => b

/-- The outcome applied to the position's record, unless the record was set up anew meanwhile
(R143). -/
def State.applyOutcome (s : State) (x : Addressed) (o : ExchangeOutcome) : State :=
  if x.recordGone then s
  else
    match o with
    | .good r => (s.goodAt x.pos).applyReply x r
    | .miss _ => s.missAt x.pos

/-- The turnaround gap ends: the outcome is handed over and applied, and the round goes on. -/
def turnaroundGapEndStep (s : State) : State :=
  match s.bus.link with
  | .turnaround x o =>
    let s := { s with bus := { s.bus.countOutcome o with link := .idle } }
    (s.applyOutcome x o).settleScan
  | _ => s

/-- TURNAROUND_GAP_END. -/
def execTurnaroundGapEnd (s : State) : Host.Outcome State Fault Refusal :=
  s.whileRunning turnaroundGapEndStep

/-! ### POST_BROADCAST_GAP_END (R125, R146, R167) -/

/-- A PRESENT validator with the generation pending has switched (R167). -/
def Validator.switched (v : Validator) (w : Switch) : Validator :=
  if v.presence = .present ∧ (v.lane w.lane).pending = w.generation then
    v.setLane w.lane { v.lane w.lane with held := w.generation, pending := 0 }
  else v

/-- The outcome "sent": the SWITCH leaves the list, the records are switched, and the round goes on. -/
def postBroadcastGapEndStep (s : State) : State :=
  match s.bus.link with
  | .postBroadcast w =>
    let s := s.setLink .idle
    let s := { s with scan := { s.scan with broadcast := s.scan.broadcast.tail } }
    (s.eachValidator fun _ v => v.switched w).settleScan
  | _ => s

/-- POST_BROADCAST_GAP_END. -/
def execPostBroadcastGapEnd (s : State) : Host.Outcome State Fault Refusal :=
  s.whileRunning postBroadcastGapEndStep

/-! ### POST_RESET_GAP_END and QUIET_INTERVAL_END -/

/-- The post-reset gap ends: the link is IDLE and round 0 begins (R134, R149), behind a broadcast that
was handed over meanwhile (R146). -/
def postResetGapEndStep (s : State) : State :=
  match s.bus.link with
  | .postReset => (s.setLink .idle).beginRound 0
  | _ => s

/-- POST_RESET_GAP_END. -/
def execPostResetGapEnd (s : State) : Host.Outcome State Fault Refusal :=
  s.whileRunning postResetGapEndStep

/-- The quiet interval of a pause has run (R147). -/
def quietIntervalEndStep (s : State) : State :=
  match s.scan.phase with
  | .paused _ => s.nextRound
  | _ => s

/-- QUIET_INTERVAL_END. -/
def execQuietIntervalEnd (s : State) : Host.Outcome State Fault Refusal :=
  s.whileRunning quietIntervalEndStep

end Sys2Proof.Machine
end

