-- ==== Sys2Proof/Machine/Standing.lean ====
section
/-! DEFINITION. The STANDING body (R185, section 11.3). -/

namespace Sys2Proof.Machine

/-- A digest of 54 bytes. -/
def encodeDigest (d : Digest) : List Byte :=
  be 2 d.count ++ be 4 d.sum.toNat
    ++ d.levels.toList.flatMap fun f => be 2 f.count ++ be 4 f.sum.toNat

/-- A history place of 57 bytes; an unused one is 0. -/
def encodeHistoryPlace : Option HistoryRecord → List Byte
  | some r => be 3 r.generation ++ encodeDigest r.digest
  | none => be 3 0 ++ encodeDigest Digest.zero

/-- The staged notice in 18 bytes, all 0 when empty. -/
def encodeStaged : Option StagedNotice → List Byte
  | some n => be 3 n.g ++ be 3 n.b ++ be 2 n.n ++ be 2 n.count ++ be 4 n.sum.toNat ++ be 4 n.e
  | none => be 3 0 ++ be 3 0 ++ be 2 0 ++ be 2 0 ++ be 4 0 ++ be 4 0

/-- Byte `i` of the segment map: index j of it as the figure 2^(7 - j) (R193). -/
def segmentMapByte (map : List Nat) (i : Nat) : Nat :=
  ([0, 1, 2, 3, 4, 5, 6, 7].map fun j => if map.contains (8 * i + j) then 2 ^ (7 - j) else 0).foldl
    (· + ·) 0

/-- The segment map in 128 bytes. -/
def encodeSegmentMap (map : List Nat) : List Byte :=
  (List.range 128).flatMap fun i => be 1 (segmentMapByte map i)

/-- The pending command and its stream id. Section 11.3 leaves the stream id unstated beside none, ROLLBACK
and CLEAR: beside none it is the figure given (log 42), beside the other two 0 (log 43, DESIGN CHOICE). -/
def encodeLaneCommand (unused : Nat) : Option LaneCommand → List Byte
  | none => be 1 0 ++ be 2 unused
  | some .rollback => be 1 1 ++ be 2 0
  | some .clear => be 1 2 ++ be 2 0
  | some (.subscribe stream) => be 1 3 ++ be 2 stream

/-- A lane record of 398 bytes, with what stands in the stream id of no pending command. -/
def encodeLane (r : LaneRec) (unused : Nat) : List Byte :=
  be 1 r.state.code ++ be 3 r.active ++ encodeDigest r.activeDigest
    ++ be 1 r.history.length ++ encodeHistoryPlace r.history[0]? ++ encodeHistoryPlace r.history[1]?
    ++ be 3 r.floor ++ encodeStaged r.staged ++ encodeDigest r.stagedDigest
    ++ encodeSegmentMap r.segmentMap ++ be 1 (yesNo r.undoDeferred)
    ++ encodeLaneCommand unused r.pendingCommand ++ be 3 r.viewNewest ++ be 3 r.viewOldest
    ++ be 1 (yesNo r.hold) ++ be 1 r.lastReason.code ++ be 2 r.lateness
    ++ be 2 r.repeats ++ be 2 r.duplicates ++ be 2 r.absentDrops ++ be 2 r.discards

/-- A delivery sub-record of 25 bytes. -/
def encodeDelivery (d : Delivery) : List Byte :=
  be 1 d.state.code ++ be 3 d.target ++ be 2 d.capacity ++ be 1 d.cutoff ++ be 1 (yesNo d.truncated)
    ++ be 2 d.expectCount ++ be 4 d.expectSum.toNat ++ be 4 d.running.toNat ++ be 2 d.cursor
    ++ be 2 d.sent ++ be 2 d.batchNo ++ be 1 d.attempts

/-- The part of a lane in a validator record, 41 bytes. -/
def encodeValidatorLane (v : ValidatorLane) : List Byte :=
  be 3 v.held ++ be 3 v.pending ++ be 1 (yesNo v.ready) ++ encodeDelivery v.delivery
    ++ be 3 v.faulty ++ be 3 v.unfit ++ be 3 v.dropOwed

/-- A roster entry: 00h-07h, FFh for VACANT. -/
def rosterCode : Option (Fin 8) → Nat
  | some c => c.val
  | none => 255

/-- A validator record of 90 bytes, its roster entry first. -/
def encodeValidator (entry : Option (Fin 8)) (v : Validator) : List Byte :=
  be 1 (rosterCode entry) ++ be 1 v.presence.code ++ be 1 v.goodRun ++ be 1 v.missRun
    ++ be 2 v.lastCapacity ++ be 2 v.missCounter
    ++ encodeValidatorLane v.lanes.b ++ encodeValidatorLane v.lanes.p

/-- The command state and the command in flight. -/
def encodeCommand : CommandState → List Byte
  | .available => be 1 0 ++ be 1 0
  | .carryingOut h _ => be 1 1 ++ be 1 h.code.toNat
  | .placing a => be 1 2 ++ be 1 a.head.code.toNat

/-- The apply engine's state and the lane of its segment. An item being finished is APPLYING (R62). -/
def encodeEngine : Engine → List Byte
  | .empty => be 1 0 ++ be 1 0
  | .applying seg _ _ => be 1 1 ++ be 1 (laneCode seg.lane)
  | .waiting seg _ => be 1 2 ++ be 1 (laneCode seg.lane)
  | .finishing seg _ => be 1 1 ++ be 1 (laneCode seg.lane)

/-- The sweep in progress: kind, lane and cursor. With none in progress section 11.3 gives the kind 00h and
leaves the lane and the cursor unstated: a free value stands there (log 40). -/
def encodeSweep (unused : BitVec 24) : Option Sweep → List Byte
  | none => be 1 0 ++ be 3 unused.toNat
  | some w => be 1 w.request.kind.code ++ be 1 (laneCode w.request.lane) ++ be 2 w.cursor

/-- A request place: lane and kind, 0 when unused. -/
def encodeRequest : Option SweepRequest → List Byte
  | none => be 1 0 ++ be 1 0
  | some r => be 1 (laneCode r.lane) ++ be 1 r.kind.code

/-- The sweeper's part of 21 bytes, with what stands in the lane and cursor of no sweep. -/
def encodeSweeper (w : Sweeper) (unused : BitVec 24) : List Byte :=
  encodeSweep unused w.sweep ++ be 1 w.requests.length
    ++ [0, 1, 2, 3, 4, 5, 6, 7].flatMap fun i => encodeRequest w.requests[i]?

/-- The eight uplink counters in the order of R15. -/
def encodeCounters (c : UplinkCounters) : List Byte :=
  be 2 c.framesTaken ++ be 2 c.checkFailures ++ be 2 c.foreignFrames ++ be 2 c.ingressDrops
    ++ be 2 c.controlDrops ++ be 2 c.malformed ++ be 2 c.passedOver ++ be 2 c.alertsDropped

def encodeUnit (s : State) : List Byte :=
  be 1 s.settings.addressing.unitId.toNat ++ be 1 s.ctl.cause.code ++ encodeCommand s.ctl.command
    ++ be 2 s.ctl.alertNo

def encodeSettings (st : Settings) : List Byte :=
  be 1 st.split.val ++ be 2 st.subs.b ++ be 2 st.subs.p ++ be 1 st.quiet.val ++ be 1 st.period.val
    ++ be 2 st.enables.toNat

def encodeClock (c : Clock) : List Byte :=
  be 4 c.value ++ be 1 c.state.code ++ be 2 c.debt ++ be 2 c.timer ++ be 2 c.rejected

def encodeUplink (u : Uplink) : List Byte :=
  encodeCounters u.counters ++ be 1 u.ingress.length ++ be 1 u.control.length
    ++ be 1 u.egress.length

def encodeStore (t : Store) : List Byte := be 2 t.free.b ++ be 2 t.free.p ++ encodeEngine t.engine

def encodeBus (s : State) : List Byte :=
  be 2 s.bus.damaged ++ be 2 s.bus.wrong ++ be 2 s.bus.stray ++ be 2 s.scan.roundNo

def encodeValidators (s : State) : List Byte :=
  (List.finRange 16).flatMap fun i => encodeValidator s.settings.roster[i] s.scan.records[i]

/-- What stands in the stream id of a lane record with no pending command: 0 (log 43), but while an INSPECT
is in flight the inspect pointer, as the reads so far have left it, its lane in the record of lane B and its
slot in that of lane P. R176 has the body show the pointer then; section 11.3 gives it no field of its own and
leaves no other bytes open in every such state (log 42, DESIGN CHOICE). -/
def State.unusedStream (s : State) (l : Lane) : Nat :=
  match s.ctl.command, l with
  | .carryingOut _ (.inspect _ _), .b => laneCode s.ctl.inspectLane
  | .carryingOut _ (.inspect _ _), .p => s.ctl.inspectSlot
  | _, _ => 0

/-- The STANDING body of 2,318 bytes, laid out as section 11.3 lists it. The class table is not in it (R185);
for the product capacity of a class see logs 41 and 44. -/
def State.standing (s : State) : List Byte :=
  encodeUnit s ++ encodeSettings s.settings ++ be 2 s.ctl.flags.toNat ++ encodeClock s.clock
    ++ encodeUplink s.uplink ++ encodeLane s.lanes.b (s.unusedStream .b)
    ++ encodeLane s.lanes.p (s.unusedStream .p) ++ encodeStore s.store
    ++ encodeSweeper s.sweeper (Config.noSweepBytes s.choices)
    ++ encodeBus s ++ encodeValidators s

/-- A STANDING has been composed; the next one takes a fresh free value (log 40). -/
def State.standingMade (s : State) : State := { s with choices := s.choices + 1 }

end Sys2Proof.Machine
end

