-- ==== Sys2Proof/Machine/Seconds.lean ====
section
/-! DEFINITION. The local second (R105 to R107, R184): LOCAL_SECOND, HOLDOVER_ENTRY,
PERIODIC_STANDING. -/

namespace Sys2Proof.Machine

/-! ### The periodic STANDING (R184) -/

/-- The report interval in seconds of a period k of 1 to 12. -/
def reportInterval (k : Fin 13) : Nat := 2 ^ (k.val - 1)

/-- The report timer has reached the report interval, and the STANDING of the period is still to be
made. -/
def State.standingDue (s : State) : Bool :=
  decide (s.settings.period ≠ 0) && decide (reportInterval s.settings.period ≤ s.ctl.reportTimer)

/-- A STANDING is made: the timer returns to 0, and the STANDING is placed, or made and not placed when
the queue is full (R183, R184). -/
def State.makeStanding (s : State) : State :=
  let s := { s with ctl := { s.ctl with reportTimer := 0 } }
  (if s.egressRoom then s.place .standing s.standing false else s).standingMade

/-- Makes the STANDING of the period if it is due. -/
def State.standingIfDue (s : State) : State := if s.standingDue then s.makeStanding else s

/-- PERIODIC_STANDING (R184). -/
def execPeriodicStanding (s : State) : Host.Outcome State Fault Refusal :=
  s.whileRunning State.standingIfDue

/-! ### The clock's second (R106, R107) -/

/-- The clock after a local second. -/
def Clock.second (c : Clock) : Clock :=
  match c.state with
  | .unset => c
  | .locked | .holdover =>
    { c with
      value := if 0 < c.debt then c.value else min (c.value + 1) 4294967295,
      debt := c.debt - 1,
      timer := min (c.timer + 1) 300,
      state := if c.state = .locked ∧ 300 ≤ c.timer + 1 then .holdover else c.state }

/-- The second that takes a LOCKED clock to HOLDOVER (R107). -/
def Clock.entersHoldover (c : Clock) : Bool :=
  decide (c.state = .locked) && decide (300 ≤ c.timer + 1)

/-- A local second: a STANDING still due is made first; the clock takes the second whole, HOLDOVER
rising with it; the lanes are told; the report timer advances (R106, R107, R115, R184). -/
def localSecondStep (s : State) : State :=
  let s := s.standingIfDue
  let enters := s.clock.entersHoldover
  let s := { s with clock := s.clock.second }
  let s := if enters then s.rise .holdover {} else s
  let s := s.reportClock
  if s.settings.period = 0 then s
  else { s with ctl := { s.ctl with reportTimer := s.ctl.reportTimer + 1 } }

/-- LOCAL_SECOND. -/
def execLocalSecond (s : State) : Host.Outcome State Fault Refusal := s.whileRunning localSecondStep

/-- The local second that brings the beacon timer of a LOCKED clock to 300 (R107); no step when the next
second would not. -/
def holdoverEntryStep (s : State) : State :=
  if s.clock.entersHoldover then localSecondStep s else s

/-- HOLDOVER_ENTRY. -/
def execHoldoverEntry (s : State) : Host.Outcome State Fault Refusal :=
  s.whileRunning holdoverEntryStep

end Sys2Proof.Machine
end

