-- ==== Sys2Proof/Machine/Commands.lean ====
section
/-! DEFINITION. The commands of the control unit (chapter 10): STATUS to RESTART, INSPECT_SLOT_READ and
SAVE_WRITE_COMPLETE. -/

namespace Sys2Proof.Machine

/-! ### Taking a command (R173, R174) -/

/-- The codes of the command table (section 11.1). -/
def codeKnown (code : Nat) : Bool := decide (1 ≤ code ∧ code ≤ 17)

/-- The head of a CONTROL, for its ANSWER. -/
def ControlMessage.head (m : ControlMessage) : CommandHead :=
  { unitId := m.unitId, tag := m.tag, code := m.code }

/-- The head leaves the control queue (R173). -/
def State.popControl (s : State) : State :=
  { s with uplink := { s.uplink with control := s.uplink.control.tail } }

/-- The control unit takes the head of the control queue as the command of a code (R173). A head of
another known code waits for its own step. A head of unknown code is taken by any command's step and
answered UNKNOWN (R174, log 7). -/
def State.takeCommand (s : State) (code : Nat) (carry : CommandHead → List Byte → State → State) :
    State :=
  match s.ctl.command, s.uplink.control with
  | .available, m :: _ =>
    if m.code.toNat = code then carry m.head m.args s.popControl
    else if codeKnown m.code.toNat then s
    else s.popControl.answer m.head .unknown []
  | _, _ => s

/-- A command whose arguments have been read, or are answered ARGUMENT (R174). -/
def withArgs {α : Type} (read : List Byte → Option α) (carry : CommandHead → α → State → State)
    (h : CommandHead) (args : List Byte) (s : State) : State :=
  match read args with
  | some x => carry h x s
  | none => s.answer h .argument []

/-- The command state becomes CARRYING OUT. -/
def State.carryOut (s : State) (h : CommandHead) (w : CommandWork) : State :=
  { s with ctl := { s.ctl with command := .carryingOut h w } }

/-! ### STATUS (R173, R176) -/

/-- Whether a STATUS at the head may be taken out of turn (R173): not while a RESTART is in flight
(R191), and only with room for its ANSWER. -/
def State.outOfTurn (s : State) : Bool :=
  match s.ctl.command with
  | .carryingOut _ .restart => false
  | .carryingOut _ _ => s.egressRoom
  | _ => false

/-- The result of a STATUS: DONE with a STANDING composed as it is taken, or ARGUMENT. -/
def statusAnswer (h : CommandHead) (args : List Byte) (s : State) : List Byte :=
  match argNone args with
  | some _ => answerBody h .done s.standing
  | none => answerBody h .argument []

/-- A STATUS has been answered, with a STANDING unless it was refused. -/
def State.statusTaken (s : State) (args : List Byte) : State :=
  match argNone args with
  | some _ => s.standingMade
  | none => s

/-- STATUS in AVAILABLE, or out of turn in CARRYING OUT without touching the command in flight. -/
def statusStep (s : State) : State :=
  match s.outOfTurn, s.uplink.control with
  | true, m :: _ =>
    if m.code.toNat = 1 then
      (s.popControl.place .answer (statusAnswer m.head m.args s.popControl) false).statusTaken m.args
    else s
  | _, _ =>
    s.takeCommand 1 fun h args s =>
      (s.deliverAnswer
        { head := h, body := statusAnswer h args s, addressing := none, restart := false }).statusTaken args

/-- STATUS. -/
def execStatus (s : State) : Host.Outcome State Fault Refusal := s.whileRunning statusStep

/-! ### SET-SPLIT (R50) -/

/-- A lane IDLE with ACTIVE 0 and an empty history. -/
def LaneRec.bare (r : LaneRec) : Bool :=
  decide (r.state = .idle) && decide (r.active = 0) && r.history.isEmpty

/-- The regions drawn anew, entirely FREE, the inspect pointer at lane B slot 0. -/
def State.redraw (s : State) (split : Fin 4) : State :=
  { s with
    settings := { s.settings with split := split },
    store := { s.store with
      regions := { b := [], p := [] },
      free := { b := regionSize split .b, p := regionSize split .p } },
    ctl := { s.ctl with inspectLane := .b, inspectSlot := 0 } }

def carrySetSplit (h : CommandHead) (split : Fin 4) (s : State) : State :=
  if !(s.lanes.b.bare && s.lanes.p.bare) then s.answer h .state []
  else if split = s.settings.split then s.answer h .done []
  else (s.redraw split).answer h .done []

def setSplitStep (s : State) : State := s.takeCommand 2 (withArgs argSplit carrySetSplit)

/-- SET_SPLIT. -/
def execSetSplit (s : State) : Host.Outcome State Fault Refusal := s.whileRunning setSplitStep

/-! ### SUBSCRIBE and CLEAR (R43 to R46, R179) -/

/-- A stream id that is the other lane's subscription is an ARGUMENT failure (R9, R46). -/
def carrySubscribe (h : CommandHead) (x : Lane × Nat) (s : State) : State :=
  let (l, stream) := x
  if stream = s.settings.subs.get l then s.answer h .done []
  else if stream ≠ 0 ∧ stream = s.settings.subs.get l.other then s.answer h .argument []
  else (s.carryOut h (.lane l)).acceptClear l (.subscribe stream)

def subscribeStep (s : State) : State := s.takeCommand 3 (withArgs argSubscribe carrySubscribe)

/-- SUBSCRIBE. -/
def execSubscribe (s : State) : Host.Outcome State Fault Refusal := s.whileRunning subscribeStep

def carryClear (h : CommandHead) (l : Lane) (s : State) : State :=
  (s.carryOut h (.lane l)).acceptClear l .clear

def clearStep (s : State) : State := s.takeCommand 13 (withArgs argLane carryClear)

/-- CLEAR. -/
def execClear (s : State) : Host.Outcome State Fault Refusal := s.whileRunning clearStep

/-! ### SET-CLASS (R136) -/

/-- The class takes new fields; for the positions that name it, deliveries are abandoned and marks
cleared. -/
def State.changeClass (s : State) (c : Fin 8) (f : ClassRec) : State :=
  let names (pos : Fin 16) : Bool := decide (s.settings.roster[pos] = some c)
  let s := { s with settings := { s.settings with classes := s.settings.classes.set c f } }
  let s := (s.abandonWhere .b fun pos _ => names pos).abandonWhere .p fun pos _ => names pos
  let s := s.eachValidator fun pos v =>
    if names pos then
      { v with lanes := { b := v.lanes.b.clearMarks, p := v.lanes.p.clearMarks } } else v
  s.wakeScan

/-- A SET-CLASS without a change reaches the scanner all the same (R147, log 16). -/
def carrySetClass (h : CommandHead) (x : Fin 8 × ClassRec) (s : State) : State :=
  if s.settings.classes[x.1] = x.2 then s.noteReport.answer h .done []
  else (s.changeClass x.1 x.2).answer h .done []

def setClassStep (s : State) : State := s.takeCommand 4 (withArgs argSetClass carrySetClass)

/-- SET_CLASS. -/
def execSetClass (s : State) : Host.Outcome State Fault Refusal := s.whileRunning setClassStep

/-! ### SET-POSITION (R138) -/

/-- The record of a position is set up anew (R139): its deliveries are abandoned, and an exchange with
it on the line will not be applied (R143). -/
def State.renewRecord (s : State) (pos : Fin 16) (entry : Option (Fin 8)) : State :=
  let s := (s.abandonWhere .b fun p _ => decide (p = pos)).abandonWhere .p fun p _ => decide (p = pos)
  let s := s.setLink (s.bus.link.mapAddressed fun x =>
    if x.pos = pos then { x with recordGone := true } else x)
  s.setValidator pos (Validator.anew entry)

/-- The roster entry changes and the record is set up anew. -/
def State.changePosition (s : State) (pos : Fin 16) (entry : Option (Fin 8)) : State :=
  let s := { s with settings := { s.settings with roster := s.settings.roster.set pos entry } }
  (s.renewRecord pos entry).wakeScan

/-- A SET-POSITION without a change reaches the scanner all the same (R147, log 16). -/
def carrySetPosition (h : CommandHead) (x : Fin 16 × Option (Fin 8)) (s : State) : State :=
  if s.settings.roster[x.1] = x.2 then s.noteReport.answer h .done []
  else (s.changePosition x.1 x.2).answer h .done []

def setPositionStep (s : State) : State :=
  s.takeCommand 5 (withArgs argSetPosition carrySetPosition)

/-- SET_POSITION. -/
def execSetPosition (s : State) : Host.Outcome State Fault Refusal := s.whileRunning setPositionStep

/-! ### SET-TIMING (R178) -/

/-- Both settings are stored; a changed report period restarts the report timer. A STANDING still due
from the second before is made first (log 9). -/
def carrySetTiming (h : CommandHead) (x : Fin 4 × Fin 13) (s : State) : State :=
  let s := s.standingIfDue
  let timer := if x.2 = s.settings.period then s.ctl.reportTimer else 0
  let s := { s with
    settings := { s.settings with quiet := x.1, period := x.2 },
    ctl := { s.ctl with reportTimer := timer } }
  s.answer h .done []

def setTimingStep (s : State) : State := s.takeCommand 6 (withArgs argSetTiming carrySetTiming)

/-- SET_TIMING. -/
def execSetTiming (s : State) : Host.Outcome State Fault Refusal := s.whileRunning setTimingStep

/-! ### SET-ADDRESSING (R7, R177) -/

/-- The new settings take effect when the ANSWER is placed. -/
def carrySetAddressing (h : CommandHead) (a : Addressing) (s : State) : State :=
  s.deliverAnswer
    { head := h, body := answerBody h .done [], addressing := some a, restart := false }

def setAddressingStep (s : State) : State :=
  s.takeCommand 7 (withArgs argSetAddressing carrySetAddressing)

/-- SET_ADDRESSING. -/
def execSetAddressing (s : State) : Host.Outcome State Fault Refusal :=
  s.whileRunning setAddressingStep

/-! ### EVENTS and ACKNOWLEDGE (R182) -/

/-- The flags and enables of an ANSWER. -/
def State.flagsBody (s : State) : List Byte :=
  be 2 s.ctl.flags.toNat ++ be 2 s.settings.enables.toNat

def carryEvents (h : CommandHead) (x : BitVec 16 × BitVec 16) (s : State) : State :=
  let s := { s with settings := { s.settings with
    enables := (s.settings.enables &&& ~~~x.1) ||| (x.2 &&& x.1) } }
  s.answer h .done s.flagsBody

def eventsStep (s : State) : State := s.takeCommand 8 (withArgs argEvents carryEvents)

/-- EVENTS. -/
def execEvents (s : State) : Host.Outcome State Fault Refusal := s.whileRunning eventsStep

def carryAcknowledge (h : CommandHead) (mask : BitVec 16) (s : State) : State :=
  let s := { s with ctl := { s.ctl with flags := s.ctl.flags &&& ~~~mask } }
  s.answer h .done s.flagsBody

def acknowledgeStep (s : State) : State := s.takeCommand 9 (withArgs argMask carryAcknowledge)

/-- ACKNOWLEDGE. -/
def execAcknowledge (s : State) : Host.Outcome State Fault Refusal := s.whileRunning acknowledgeStep

/-! ### HOLD and RELEASE (R39) -/

def carryHold (h : CommandHead) (l : Lane) (s : State) : State :=
  (s.setLane l { s.lane l with hold := true }).answer h .done []

def holdStep (s : State) : State := s.takeCommand 10 (withArgs argLane carryHold)

/-- HOLD. -/
def execHold (s : State) : Host.Outcome State Fault Refusal := s.whileRunning holdStep

/-- RELEASE is followed at once by an activation test (R37). -/
def carryRelease (h : CommandHead) (l : Lane) (s : State) : State :=
  ((s.setLane l { s.lane l with hold := false }).testActivation l).answer h .done []

def releaseStep (s : State) : State := s.takeCommand 11 (withArgs argLane carryRelease)

/-- RELEASE. -/
def execRelease (s : State) : Host.Outcome State Fault Refusal := s.whileRunning releaseStep

/-! ### ROLLBACK (R41, R42) -/

def carryRollback (h : CommandHead) (l : Lane) (s : State) : State :=
  let r := s.lane l
  if r.history.isEmpty ∨ r.state = .discarding then s.answer h .state []
  else if r.state = .idle then (s.completeRollback l).answer h .done []
  else
    let s := (s.carryOut h (.lane l)).discardUndo l .aborted
    s.setLane l { s.lane l with pendingCommand := some .rollback }

def rollbackStep (s : State) : State := s.takeCommand 12 (withArgs argLane carryRollback)

/-- ROLLBACK. -/
def execRollback (s : State) : Host.Outcome State Fault Refusal := s.whileRunning rollbackStep

/-! ### INSPECT and INSPECT-NEXT (R186, R187) -/

def carryInspect (h : CommandHead) (x : Lane × Nat × Nat) (s : State) : State :=
  let (l, slot, count) := x
  { s with ctl := { s.ctl with
      inspectLane := l, inspectSlot := slot, command := .carryingOut h (.inspect count []) } }

def inspectStep (s : State) : State := s.takeCommand 14 (withArgs (argInspect s.size) carryInspect)

/-- INSPECT. -/
def execInspect (s : State) : Host.Outcome State Fault Refusal := s.whileRunning inspectStep

def carryInspectNext (h : CommandHead) (count : Nat) (s : State) : State :=
  s.carryOut h (.inspect count [])

def inspectNextStep (s : State) : State := s.takeCommand 15 (withArgs argInspectNext carryInspectNext)

/-- INSPECT_NEXT. -/
def execInspectNext (s : State) : Host.Outcome State Fault Refusal := s.whileRunning inspectNextStep

/-- The body of a DONE ANSWER to INSPECT: lane, slots read, pointer (section 11.1). -/
def inspectBody (l : Lane) (done : List SlotReport) (pointer : Nat) : List Byte :=
  be 1 (laneCode l) ++ be 1 done.length ++ done.flatMap encodeSlotReport ++ be 1 (laneCode l)
    ++ be 2 pointer

/-- One read of an INSPECT: the slot as held, the pointer advanced (R186). -/
def State.inspectRead (s : State) (h : CommandHead) (left : Nat) (done : List SlotReport) : State :=
  let l := s.ctl.inspectLane
  let slot := s.ctl.inspectSlot
  let done := done ++ [{ slot := slot, entry := (s.region l).read slot }]
  let next := if slot + 1 < s.size l then slot + 1 else 0
  let s := { s with ctl := { s.ctl with inspectSlot := next } }
  if left ≤ 1 then s.answer h .done (inspectBody l done next)
  else s.carryOut h (.inspect (left - 1) done)

/-- A granted inspect read (R58, R60). -/
def inspectSlotReadStep (s : State) : State :=
  if s.nextGrant = some .control then
    match s.ctl.command with
    | .carryingOut h (.inspect left done) => (s.granted .control).inspectRead h left done
    | _ => s
  else s

/-- INSPECT_SLOT_READ. -/
def execInspectSlotRead (s : State) : Host.Outcome State Fault Refusal :=
  s.whileRunning inspectSlotReadStep

/-! ### SAVE (R189) -/

def SettingsMemory.at (m : SettingsMemory) : Place → Option SavedRecord
  | .first => m.place1
  | .second => m.place2

def SettingsMemory.write (m : SettingsMemory) (p : Place) (r : Option SavedRecord) : SettingsMemory :=
  match p with
  | .first => { m with place1 := r }
  | .second => { m with place2 := r }

/-- The place a SAVE writes, and the save number it writes (R189). -/
def SettingsMemory.saveTarget (m : SettingsMemory) : Place × Nat :=
  let after (p : Place) : Nat :=
    match m.at p with
    | some r => if r.number = 65535 then 1 else r.number + 1
    | none => 1
  match m.lastPlace with
  | some .first => (.second, after .first)
  | some .second => (.first, after .second)
  | none => (.first, 1)

def carrySave (h : CommandHead) (_ : Unit) (s : State) : State :=
  let (place, number) := s.settingsMemory.saveTarget
  s.carryOut h (.save place { settings := s.settings, number := number })

def saveStep (s : State) : State := s.takeCommand 16 (withArgs argNone carrySave)

/-- SAVE. -/
def execSave (s : State) : Host.Outcome State Fault Refusal := s.whileRunning saveStep

/-- The write completes: the new record is valid, and SAVE is answered DONE. -/
def saveWriteCompleteStep (s : State) : State :=
  match s.ctl.command with
  | .carryingOut h (.save place saved) =>
    ({ s with settingsMemory :=
        { s.settingsMemory.write place (some saved) with lastPlace := some place } }).answer h .done []
  | _ => s

/-- SAVE_WRITE_COMPLETE. -/
def execSaveWriteComplete (s : State) : Host.Outcome State Fault Refusal :=
  s.whileRunning saveWriteCompleteStep

/-! ### RESTART (R191) -/

/-- Answered DONE; the command stays in flight until the ANSWER's frame has been sent. -/
def carryRestart (h : CommandHead) (_ : Unit) (s : State) : State :=
  s.deliverAnswer { head := h, body := answerBody h .done [], addressing := none, restart := true }

def restartStep (s : State) : State := s.takeCommand 17 (withArgs argNone carryRestart)

/-- RESTART. -/
def execRestart (s : State) : Host.Outcome State Fault Refusal := s.whileRunning restartStep

end Sys2Proof.Machine
end

