-- ==== Sys2Proof/Machine/Resets.lean ====
section
/-! DEFINITION. The resets and the sending of an outbound frame (sections 10.3 and 10.6): COLD_RESET,
RESET_ASSERTED, EGRESS_FRAME_SENT. -/

namespace Sys2Proof.Machine

/-! ### RESET_ASSERTED (R189, R190) -/

/-- The write of a SAVE cut by the reset completes or leaves its place invalid; which is a free value
(R189, log 11). -/
def State.cutSave (s : State) : State :=
  match s.ctl.command with
  | .carryingOut _ (.save place saved) =>
    { s with
      choices := s.choices + 1,
      settingsMemory := s.settingsMemory.write place
        (if Config.cutSaveCompletes s.choices then some saved else none) }
  | _ => s

/-- Every operation in hand has ended without completion: queues, engine, sweeper, bus and scanner hold
nothing, and no command is in flight (R190, log 13). -/
def State.dropWork (s : State) : State :=
  { s with
    uplink := { s.uplink with ingress := [], checkedHead := none, control := [], egress := [] },
    store := { s.store with engine := .empty, lastGranted := .control },
    sweeper := { requests := [], sweep := none },
    bus := { s.bus with link := .idle, strayRun := false },
    scan := { s.scan with broadcast := [], build := none, read := none, walk := none },
    ctl := { s.ctl with command := .available } }

def resetAssertedStep (s : State) : State := { s.cutSave.dropWork with power := .heldInReset }

/-- RESET_ASSERTED. -/
def execResetAsserted (s : State) : Host.Outcome State Fault Refusal :=
  s.whileRunning resetAssertedStep

/-! ### COLD_RESET (R188, R190) -/

/-- Save number `a` is later than `b`: 1 counts as later than 65,535 (R188). -/
def laterNumber (a b : Nat) : Bool :=
  if a = 1 ∧ b = 65535 then true else if a = 65535 ∧ b = 1 then false else decide (b < a)

/-- The place whose record a cold reset loads (R188). -/
def SettingsMemory.newest (m : SettingsMemory) : Option Place :=
  match m.place1, m.place2 with
  | some a, some b => if laterNumber b.number a.number then some .second else some .first
  | some _, none => some .first
  | none, some _ => some .second
  | none, none => none

/-- The working settings a cold reset loads (R188). -/
def SettingsMemory.load (m : SettingsMemory) (straps : Byte) : Settings :=
  match m.newest.bind m.at with
  | some r => r.settings
  | none => Settings.default straps

/-- The validator records set up anew against a roster (R139). -/
def anewRecords (roster : Vector (Option (Fin 8)) 16) : Vector Validator 16 :=
  eachOf roster fun _ entry => Validator.anew entry

/-- The feed scanner after a reset, before round 0 (R149, R172). -/
def Scanner.afterReset (roster : Vector (Option (Fin 8)) 16) : Scanner :=
  { records := anewRecords roster, broadcast := [], roundNo := 0, phase := .awaitReset, nextPos := 0,
    exchanged := false, reported := false, build := none, read := none, tally := [], walk := none }

/-- The entry store after a cold reset (R49, R73). -/
def Store.cold (split : Fin 4) : Store :=
  { regions := { b := [], p := [] },
    free := { b := regionSize split .b, p := regionSize split .p },
    lastGranted := .control, engine := .empty }

/-- The control unit after a reset (R190, R191). -/
def Control.afterReset (cause : ResetCause) : Control :=
  { command := .available, flags := 0, alertNo := 0, inspectLane := .b, inspectSlot := 0,
    reportTimer := 0, cause := cause }

/-- Every block at its cold values (R190). -/
def State.coldValues (s : State) (straps : Byte) : State :=
  let settings := s.settingsMemory.load straps
  { s with
    power := .running, straps := straps, settings := settings,
    settingsMemory := { s.settingsMemory with lastPlace := s.settingsMemory.newest },
    uplink := { Uplink.cold with lastFrame := s.uplink.lastFrame },
    lanes := { b := LaneRec.cold, p := LaneRec.cold },
    store := Store.cold settings.split,
    sweeper := { requests := [], sweep := none },
    clock := Clock.cold,
    bus := { Bus.cold with line := s.bus.line },
    scan := Scanner.afterReset settings.roster,
    ctl := Control.afterReset .cold }

/-- The detail of a RESTARTED ALERT (R181). -/
def State.riseRestarted (s : State) : State := s.rise .restarted { detail := s.ctl.cause.code }

/-- A cold reset ends: settings loaded, cold values, RESTARTED (R190), round 0 begun (R149). A part that
was running has first been reset. -/
def coldResetStep (straps : Byte) (s : State) : State :=
  let s := if s.power = .running then s.cutSave else s
  ((s.coldValues straps).riseRestarted).beginRound 0

/-- COLD_RESET. -/
def execColdReset (straps : Byte) (s : State) : Host.Outcome State Fault Refusal :=
  .next (coldResetStep straps s)

/-! ### The warm reset (R191) -/

/-- A lane record at a warm reset (R19). -/
def LaneRec.warm (r : LaneRec) : LaneRec :=
  let r := { r with
    repeats := 0, duplicates := 0, absentDrops := 0, discards := 0, undoDeferred := false,
    pendingCommand := none }
  if r.state = .idle then r else { r with state := .discarding, lastReason := .aborted }

/-- The UNDO requested for a lane that the reset sends to DISCARDING (R19, R89). -/
def LaneRec.warmUndo (r : LaneRec) (l : Lane) : List SweepRequest :=
  if r.state = .idle then []
  else [{ lane := l, kind := .undo r.stagedGen, waiter := false }]

/-- The sweeper after a warm reset: the UNDO of lane B ahead of that of lane P, the first started
(R89). -/
def State.warmSweeper (s : State) : Sweeper :=
  Sweeper.start
    { requests := s.lanes.b.warmUndo .b ++ s.lanes.p.warmUndo .p, sweep := none }

/-- Every block at its warm reset values (R16, R19, R73, R89, R118, R134, R149, R172, R191). -/
def State.warmValues (s : State) : State :=
  { s with
    uplink := { Uplink.cold with lastFrame := s.uplink.lastFrame },
    lanes := { b := s.lanes.b.warm, p := s.lanes.p.warm },
    store := { s.store with engine := .empty, lastGranted := .control },
    sweeper := s.warmSweeper,
    clock := { s.clock with rejected := 0 },
    bus := { Bus.cold with link := .postReset, line := s.bus.line },
    scan := Scanner.afterReset s.settings.roster,
    ctl := Control.afterReset .warm }

/-- An item in progress when a warm reset arrives is finished before the reset takes effect (R58),
unreported (R63). Whether an item next to be granted is in progress is a free value (log 39). -/
def State.finishGranted (s : State) : State :=
  let s := match s.store.engine.lane with
    | some l => s.abandonSegment l
    | none => s
  match s.store.engine with
  | .finishing seg pos => s.finishItem seg pos
  | _ => s

/-- The warm reset, RESTARTED rising from it (R191). -/
def State.warmReset (s : State) : State := s.finishGranted.warmValues.riseRestarted

/-! ### EGRESS_FRAME_SENT (R173, R183, R191) -/

/-- An ANSWER waiting in PLACING is placed at the first room (R173). -/
def State.placeWaiting (s : State) : State :=
  match s.ctl.command with
  | .placing a => s.deliverAnswer a
  | _ => s

/-- The head of the egress queue has been sent. The sending of RESTART's ANSWER brings the warm
reset. -/
def egressFrameSentStep (s : State) : State :=
  match s.uplink.egress with
  | [] => s
  | m :: rest =>
    let s := { s with uplink := { s.uplink with egress := rest, lastFrame := outboundFrame m } }
    if m.restart then s.warmReset else s.placeWaiting

/-- EGRESS_FRAME_SENT. -/
def execEgressFrameSent (s : State) : Host.Outcome State Fault Refusal :=
  s.whileRunning egressFrameSentStep

end Sys2Proof.Machine
end

