-- ==== Sys2Proof/Machine/Sweeps.lean ====
section
/-! DEFINITION. The sweeper's steps and completions (chapter 4): RETIRE_SLOT, UNDO_SLOT, RECLAIM_SLOT,
CLEAR_SLOT. -/

namespace Sys2Proof.Machine

/-! ### Completion (R82) -/

/-- RETIRE complete (R25, R34, R82): the lane stages, or requests the sweep it deferred. -/
def State.retireDone (s : State) (l : Lane) : State :=
  let r := s.lane l
  match r.state with
  | .retiring => s.setLane l { r with stagedDigest := Digest.zero, state := .staging }
  | .discarding =>
    if r.undoDeferred then
      (s.setLane l { r with undoDeferred := false }).requestSweep l r.removingSweep false
    else s
  | _ => s

/-- UNDO complete (R35): by the pending command. -/
def State.undoDone (s : State) (l : Lane) : State :=
  let r := s.lane l
  if r.state = .discarding then
    match r.pendingCommand with
    | none => s.setLane l r.emptied
    | some .rollback =>
      ((s.setLane l { r.emptied with pendingCommand := none }).completeRollback l).laneCommandDone l
    | some .clear | some (.subscribe _) => s
  else s

/-- RECLAIM complete (R70, R82, R83): a marked waiter retries its item. -/
def State.reclaimDone (s : State) (waiter : Bool) : State :=
  match s.store.engine with
  | .waiting seg pos => if waiter then s.setEngine (.applying seg pos true) else s
  | _ => s

/-- CLEAR complete (R45): the record is cleared, a new subscription stored, the command answered. -/
def State.clearDone (s : State) (l : Lane) : State :=
  let r := s.lane l
  if r.state = .discarding ∧ r.clearPending then
    let s := match r.pendingCommand with
      | some (.subscribe stream) =>
        { s with settings := { s.settings with subs := s.settings.subs.set l stream } }
      | _ => s
    (s.setLane l { r.emptied with
      undoDeferred := false, viewNewest := 0, viewOldest := 0, pendingCommand := none }
      ).laneCommandDone l
  else s

/-- The report of a completed sweep to the block that waits for it (R82). -/
def State.sweepDone (s : State) (q : SweepRequest) : State :=
  match q.kind with
  | .retire _ => s.retireDone q.lane
  | .undo _ => s.undoDone q.lane
  | .reclaim => s.reclaimDone q.waiter
  | .clear => s.clearDone q.lane

/-! ### The walk (R76) -/

/-- The sweep in progress takes one slot: the change its kind makes there, then the cursor, or the
completion and the next sweep (R76, R82). -/
def State.sweepStep (s : State) (w : Sweep) : State :=
  let l := w.request.lane
  let s := s.granted .sweeper
  let s := s.setRegion l (sweepSlot w.request.kind (s.lane l).retained (s.region l) w.cursor)
  if w.cursor + 1 < s.size l then
    { s with sweeper := { s.sweeper with sweep := some { w with cursor := w.cursor + 1 } } }
  else
    let s := ({ s with sweeper := { s.sweeper with sweep := none } }).sweepDone w.request
    { s with sweeper := s.sweeper.start }

/-- The sweep in progress if the arbiter grants its operation next (R60). -/
def State.grantedSweep (s : State) : Option Sweep :=
  if s.nextGrant = some .sweeper then s.sweeper.sweep else none

/-- A granted RETIRE step (R78). -/
def retireSlotStep (s : State) : State :=
  match s.grantedSweep with
  | some w =>
    match w.request.kind with
    | .retire _ => s.sweepStep w
    | _ => s
  | none => s

/-- A granted UNDO step (R79). -/
def undoSlotStep (s : State) : State :=
  match s.grantedSweep with
  | some w =>
    match w.request.kind with
    | .undo _ => s.sweepStep w
    | _ => s
  | none => s

/-- A granted RECLAIM step (R80). -/
def reclaimSlotStep (s : State) : State :=
  match s.grantedSweep with
  | some w => if w.request.kind = .reclaim then s.sweepStep w else s
  | none => s

/-- A granted CLEAR step (R81). -/
def clearSlotStep (s : State) : State :=
  match s.grantedSweep with
  | some w => if w.request.kind = .clear then s.sweepStep w else s
  | none => s

/-- RETIRE_SLOT. -/
def execRetireSlot (s : State) : Host.Outcome State Fault Refusal := s.whileRunning retireSlotStep

/-- UNDO_SLOT. -/
def execUndoSlot (s : State) : Host.Outcome State Fault Refusal := s.whileRunning undoSlotStep

/-- RECLAIM_SLOT. -/
def execReclaimSlot (s : State) : Host.Outcome State Fault Refusal := s.whileRunning reclaimSlotStep

/-- CLEAR_SLOT. -/
def execClearSlot (s : State) : Host.Outcome State Fault Refusal := s.whileRunning clearSlotStep

end Sys2Proof.Machine
end

