-- ==== Sys2Proof/Machine/Uplink.lean ====
section
/-! DEFINITION. The uplink port and the head of the ingress queue (chapter 1): FRAME_ARRIVAL, BEACON,
NOTICE, SEGMENT_CHECK, SEGMENT_MATCH. -/

namespace Sys2Proof.Machine

/-! ### FRAME_ARRIVAL (R1 to R6) -/

/-- Offers a message to the ingress queue (R5). -/
def State.offerIngress (s : State) (m : IngressMessage) : State :=
  if s.uplink.ingress.length < 16 then
    ({ s with uplink := { s.uplink with ingress := s.uplink.ingress ++ [m] } }).countUplink .taken
  else (s.countUplink .ingressDropped).rise .ingressOverflow {}

/-- Offers a CONTROL of this unit to the control queue (R6). -/
def State.offerControl (s : State) (m : ControlMessage) : State :=
  if s.uplink.control.length < 4 then
    ({ s with uplink := { s.uplink with control := s.uplink.control ++ [m] } }).countUplink .taken
  else s.countUplink .controlDropped

/-- A frame through the tests of the port, in their order (R1, R2, R3, R4). -/
def frameStep (frame : List Byte) (s : State) : State :=
  if !frameCheckGood frame then s.countUplink .failed
  else if !frameIsOurs s.settings.addressing frame then s.countUplink .foreign
  else
    match openEnvelope (framePayload frame) with
    | none => s.countUplink .bad
    | some (.carousel k, body) => s.offerIngress { kind := k, body := body }
    | some (.outbound, _) => s.countUplink .foreign
    | some (.control, body) =>
      if (controlOf body).unitId = s.settings.addressing.unitId then s.offerControl (controlOf body)
      else s.countUplink .foreign

/-- FRAME_ARRIVAL (R1). -/
def execFrameArrival (frame : List Byte) (s : State) : Host.Outcome State Fault Refusal :=
  s.whileRunning (frameStep frame)

/-! ### The head of the ingress queue (R8, R9) -/

/-- The body of the head, if the head is of a kind. -/
def State.headOf (s : State) (k : CarouselKind) : Option (List Byte) :=
  match s.uplink.ingress with
  | m :: _ => if m.kind = k then some m.body else none
  | [] => none

/-- The head leaves the ingress queue. -/
def State.popIngress (s : State) : State :=
  { s with uplink := { s.uplink with ingress := s.uplink.ingress.tail, checkedHead := none } }

/-- The stream filter (R9): the lane that follows a stream. An entry of 0 matches no message. -/
def Settings.laneOfStream (st : Settings) (stream : Nat) : Option Lane :=
  if stream = 0 then none
  else if st.subs.b = stream then some .b
  else if st.subs.p = stream then some .p
  else none

/-! ### BEACON (R108 to R111) -/

/-- The clock after an accepted beacon, or none where the beacon is rejected (R108 to R111). -/
def Clock.beacon (c : Clock) (t : Nat) : Option Clock :=
  match c.state with
  | .unset => some { c with value := t, debt := 0, timer := 0, state := .locked }
  | .locked | .holdover =>
    if c.value ≤ t then some { c with value := t, debt := 0, timer := 0, state := .locked }
    else if c.value - t ≤ 600 then
      some { c with debt := c.value - t, timer := 0, state := .locked }
    else none

/-- A fleet time is offered to the clock; an accepted beacon is reported to the lanes (R115). -/
def State.offerBeacon (s : State) (t : Nat) : State :=
  match s.clock.beacon t with
  | some c => ({ s with clock := c }).reportClock
  | none => { s with clock := { s.clock with rejected := bump s.clock.rejected } }

/-- The BEACON at the head is taken (R8). -/
def beaconStep (s : State) : State :=
  match s.headOf .beacon with
  | none => s
  | some body =>
    match parseBeacon body with
    | none => s.popIngress.countUplink .bad
    | some t => s.popIngress.offerBeacon t

/-- BEACON. -/
def execBeacon (s : State) : Host.Outcome State Fault Refusal := s.whileRunning beaconStep

/-! ### NOTICE (R10, R11, R21 to R28) -/

/-- A NOTICE at or below the larger of ACTIVE and floor is stale (R21). -/
def LaneRec.stale (r : LaneRec) (g : Nat) : Bool := decide (g ≤ max r.active r.floor)

/-- R22: a delta starts a staging. -/
def LaneRec.takesDelta (r : LaneRec) (x : Notice) : Bool :=
  decide (x.b ≠ 0 ∧ x.b = r.active ∧ r.active ≠ 0 ∧ r.viewOldest ≠ 0 ∧ r.viewOldest ≤ r.active)

/-- R23, and R47 for lane P: the image test. -/
def LaneRec.takesImage (r : LaneRec) (l : Lane) (x : Notice) : Bool :=
  decide (x.b = 0 ∧ x.g = r.viewNewest)
    && (decide (l = .p) || decide (r.active = 0 ∨ r.viewOldest = 0 ∨ r.active < r.viewOldest))

/-- R26, and R47 for lane P: the overtaking test against the stream view. -/
def LaneRec.overtaken (r : LaneRec) (n : StagedNotice) : Bool :=
  if n.b = 0 then decide (n.g < r.viewNewest)
  else decide (r.viewOldest = 0 ∨ r.active < r.viewOldest)

/-- R27: a NOTICE of S that differs from the staged notice. The segment total is compared only between
NOTICEs of the same form. -/
def StagedNotice.revisedBy (n : StagedNotice) (x : Notice) : Bool :=
  decide (x.g = n.g) &&
    (decide (x.b = n.b ∧ x.n ≠ n.n) || decide (x.count ≠ n.count ∨ x.sum ≠ n.sum ∨ x.e ≠ n.e))

/-- What a lane in RETIRING or STAGING does with a NOTICE (R26, R27). -/
def State.testStaging (s : State) (l : Lane) (x : Notice) : State :=
  match (s.lane l).staged with
  | none => s
  | some n =>
    if (s.lane l).overtaken n then s.discardUndo l .overtaken
    else if n.revisedBy x then s.discardUndo l .revised
    else s

/-- A well-formed NOTICE in the hands of its lane's controller (R21 to R28). -/
def State.takeNotice (s : State) (l : Lane) (x : Notice) : State :=
  let s := s.setLane l { s.lane l with viewNewest := x.newest, viewOldest := x.oldest }
  let r := s.lane l
  let s := if r.stale x.g then s.countUplink .passed else s
  match r.state with
  | .idle =>
    if r.stale x.g then s
    else if r.takesDelta x then s.stageDelta l x
    else if r.takesImage l x then s.stageImage l x
    else s
  | .retiring | .staging => s.testStaging l x
  | .ready | .discarding => s

/-- The NOTICE at the head, through the stream filter (R9) and the checks of R10. -/
def noticeStep (s : State) : State :=
  match s.headOf .notice with
  | none => s
  | some body =>
    match streamIdOf body with
    | none => s.popIngress.countUplink .bad
    | some stream =>
      match s.settings.laneOfStream stream with
      | none => s.popIngress.countUplink .passed
      | some l =>
        match parseNotice body with
        | none => s.popIngress.countUplink .bad
        | some x =>
          if noticeWellFormed l (s.size l) x then s.popIngress.takeNotice l x
          else s.popIngress.countUplink .bad

/-- NOTICE. -/
def execNotice (s : State) : Host.Outcome State Fault Refusal := s.whileRunning noticeStep

/-! ### SEGMENT_CHECK (R9, R12) -/

/-- The SEGMENT at the head is filtered and checked; a good one waits there (R8). A head that already
waits is not checked again. -/
def segmentCheckStep (s : State) : State :=
  match s.uplink.checkedHead, s.headOf .segment with
  | none, some body =>
    match streamIdOf body with
    | none => s.popIngress.countUplink .bad
    | some stream =>
      match s.settings.laneOfStream stream with
      | none => s.popIngress.countUplink .passed
      | some l =>
        match parseSegment l body with
        | none => s.popIngress.countUplink .bad
        | some seg => { s with uplink := { s.uplink with checkedHead := some seg } }
  | _, _ => s

/-- SEGMENT_CHECK. -/
def execSegmentCheck (s : State) : Host.Outcome State Fault Refusal :=
  s.whileRunning segmentCheckStep

/-! ### SEGMENT_MATCH (R13) -/

/-- The outcomes of R13. -/
inductive MatchOutcome where
  | passedOver
  | malformed
  | repeated
  | taken
deriving DecidableEq, Repr

/-- The table of R13. -/
def LaneRec.matchSegment (r : LaneRec) (seg : Segment) : MatchOutcome :=
  match r.state, r.staged with
  | .staging, some n =>
    if seg.g ≠ n.g ∨ seg.b ≠ n.b then .passedOver
    else if n.n ≤ seg.index then .malformed
    else if r.segmentMap.contains seg.index then .repeated
    else .taken
  | _, _ => .passedOver

/-- The waiting SEGMENT leaves the queue by the outcome of its test (R13). One whose stream its lane no
longer follows is passed over (R9). -/
def State.matchHead (s : State) (seg : Segment) : State :=
  let l := seg.lane
  if s.settings.laneOfStream seg.stream ≠ some l then s.popIngress.countUplink .passed
  else
    match (s.lane l).matchSegment seg with
    | .passedOver => s.popIngress.countUplink .passed
    | .malformed => s.popIngress.countUplink .bad
    | .repeated =>
      let s := s.popIngress.countUplink .passed
      s.setLane l { s.lane l with repeats := bump (s.lane l).repeats }
    | .taken => s.popIngress.setEngine (.applying seg 0 false)

/-- The test is made once the apply engine holds no segment (R13). -/
def segmentMatchStep (s : State) : State :=
  match s.uplink.checkedHead, s.store.engine with
  | some seg, .empty => s.matchHead seg
  | _, _ => s

/-- SEGMENT_MATCH. -/
def execSegmentMatch (s : State) : Host.Outcome State Fault Refusal :=
  s.whileRunning segmentMatchStep

end Sys2Proof.Machine
end

