-- ==== Sys2Proof/Machine/Visits.lean ====
section
/-! DEFINITION. The feed scanner's visits and reads (chapter 9): SCANNER_VISIT, BATCH_SLOT_READ,
TALLY_SLOT_READ. -/

namespace Sys2Proof.Machine

/-! ### Fixing a delivery's figures (R97 to R99, R102, R152) -/

/-- The digest of a target as the lane record holds it (R97, R102). -/
def LaneRec.targetDigest (r : LaneRec) (target : Nat) : Digest :=
  if target = r.active then r.activeDigest else r.stagedDigest

/-- The product capacity of a position's class. -/
def State.productCapacity (s : State) (pos : Fin 16) : Nat :=
  match s.classOf pos with
  | some c => c.productCapacity
  | none => 0

/-- The figures of a delivery of a target to a position (R96 to R99, R102). -/
def State.figures (s : State) (pos : Fin 16) (l : Lane) (target : Nat) : FitFigures :=
  let d := (s.lane l).targetDigest target
  match l with
  | .b =>
    let classCapacity := match s.classOf pos with
      | some c => c.capacity
      | none => 0
    fitBlock (effectiveCapacity classCapacity (s.validator pos).lastCapacity) d
  | .p => fitProduct (s.productCapacity pos) d

/-- An OPENING sub-record with its figures fixed (R152). -/
def openingDelivery (target attempts : Nat) (f : FitFigures) : Delivery :=
  { state := .opening, target := target, capacity := f.capacity, cutoff := f.cutoff,
    truncated := f.truncated, expectCount := f.expectCount, expectSum := f.expectSum, running := 0,
    cursor := 0, sent := 0, batchNo := 1, attempts := attempts, refix := false }

/-- The OPEN of a sub-record (R129). -/
def Delivery.openFrame (d : Delivery) (l : Lane) : BusFrame :=
  .open l d.target d.expectCount d.cutoff d.truncated

/-- Replaces the delivery of a lane in a record. -/
def State.setDelivery (s : State) (pos : Fin 16) (l : Lane) (d : Delivery) : State :=
  let v := s.validator pos
  s.setValidator pos (v.setLane l { v.lane l with delivery := d })

/-- The figures are fixed, TRUNCATED raised where they are truncated (R99), and OPEN is sent (R152). -/
def State.fixAndOpen (s : State) (pos : Fin 16) (l : Lane) (target attempts : Nat) : State :=
  let f := s.figures pos l target
  let d := openingDelivery target attempts f
  let s := s.setDelivery pos l d
  let s := if f.truncated then
      s.rise .truncated
        { position := pos.val + 1, lane := 1, generation := target, figure := f.capacity }
    else s
  s.sendTo pos (d.openFrame l) 0

/-! ### The next frame of a delivery (R151 step 2) -/

/-- CLOSE is sent, and the delivery is CLOSING; a truncated one has its expected sum fixed (R158). -/
def State.sendClose (s : State) (pos : Fin 16) (l : Lane) : State :=
  let d := ((s.validator pos).lane l).delivery
  let d := { d with
    state := .closing, expectSum := if d.truncated then d.running else d.expectSum }
  (s.setDelivery pos l d).sendTo pos (.close l d.target) 0

/-- A BATCH begins to be built from the cursor: its first read is requested, or waits for a tally read
already requested (R153, R155). -/
def State.startBuild (s : State) (pos : Fin 16) (l : Lane) (cursor : Nat) : State :=
  { s with scan := { s.scan with
      build := some { pos := pos, lane := l, cursor := cursor, items := [] },
      read := match s.scan.read with
        | none => some .batch
        | r => r } }

/-- The frame of a delivery that is not IDLE (R152, R155, R157, R158). -/
def State.deliveryFrame (s : State) (pos : Fin 16) (l : Lane) : State :=
  let d := ((s.validator pos).lane l).delivery
  match d.state with
  | .idle => s
  | .opening =>
    if d.refix then s.fixAndOpen pos l d.target d.attempts else s.sendTo pos (d.openFrame l) 0
  | .sending =>
    if d.sent = d.expectCount ∨ s.size l ≤ d.cursor then s.sendClose pos l
    else if l = .b ∧ s.scan.roundNo % 8 = 0 then s.sendTo pos .poll 0
    else s.startBuild pos l d.cursor
  | .closing => s.sendTo pos (.close l d.target) 0

/-! ### The fit test and the tally walk (R153) -/

/-- The slot tally of a generation, if the table holds it. -/
def Scanner.tallyOf (t : Scanner) (generation : Nat) : Option Nat :=
  (t.tally.find? fun x => decide (x.generation = generation)).map TallyEntry.tally

/-- A tally walk of the lane-P target begins, if its tally is not known and none is under way (R153). -/
def State.beginWalk (s : State) (pos : Fin 16) : State :=
  match s.target pos .p, s.scan.walk with
  | some g, none =>
    if (s.scan.tallyOf g).isSome then s
    else { s with scan := { s.scan with
        walk := some { generation := g, cursor := 0, tally := 0 },
        read := match s.scan.read with
          | none => some .tally
          | r => r } }
  | _, _ => s

/-- A lane-P target too large for the class is marked unfit (R153). -/
def State.markUnfit (s : State) (pos : Fin 16) (target tally : Nat) : State :=
  let v := s.validator pos
  let s := s.setValidator pos (v.setLane .p { v.lane .p with unfit := target })
  s.rise .unfit { position := pos.val + 1, generation := target, figure := tally }

/-- Steps 4 and 5 of R151 for lane P: a delivery is started if the target is known to fit; otherwise
POLL. -/
def State.startProduct (s : State) (pos : Fin 16) : State :=
  match s.target pos .p with
  | some g =>
    if ((s.validator pos).lane .p).ready then
      match s.scan.tallyOf g with
      | some tally =>
        if s.productCapacity pos < tally then (s.markUnfit pos g tally).sendTo pos .poll 0
        else s.fixAndOpen pos .p g 0
      | none => s.sendTo pos .poll 0
    else s.sendTo pos .poll 0
  | none => s.sendTo pos .poll 0

/-- Step 4 of R151: lane B before lane P. -/
def State.startDelivery (s : State) (pos : Fin 16) : State :=
  match s.target pos .b with
  | some g =>
    if ((s.validator pos).lane .b).ready then s.fixAndOpen pos .b g 0 else s.startProduct pos
  | none => s.startProduct pos

/-! ### The visit (R143, R151) -/

/-- A visit to a PRESENT validator: the first step of R151 that applies. The lane-P target of the visit
has its tally walk begun where it needs one (R153, R162, log 17). -/
def State.visitPresent (s : State) (pos : Fin 16) : State :=
  let s := s.beginWalk pos
  let b := (s.validator pos).lane .b
  let p := (s.validator pos).lane .p
  if b.dropOwed ≠ 0 then s.sendTo pos (.drop .b b.dropOwed) 0
  else if p.dropOwed ≠ 0 then s.sendTo pos (.drop .p p.dropOwed) 0
  else if b.delivery.state ≠ .idle then s.deliveryFrame pos .b
  else if p.delivery.state ≠ .idle then s.deliveryFrame pos .p
  else if switchDue (s.lane .b) b then s.sendTo pos (.switch .b (s.lane .b).active) 0
  else if switchDue (s.lane .p) p then s.sendTo pos (.switch .p (s.lane .p).active) 0
  else s.startDelivery pos

/-- A visit (R143): POLL unless the position is PRESENT. -/
def State.visit (s : State) (pos : Fin 16) : State :=
  match (s.validator pos).presence with
  | .present => s.visitPresent pos
  | .vacant => s
  | .seeking | .settling | .silent => s.sendTo pos .poll 0

/-- A visit may be made: the round is on, the bus is IDLE, no BATCH is being built and no broadcast
waits (R145, R146). -/
def State.visitDue (s : State) : Bool :=
  decide (s.scan.phase = .visiting) && decide (s.bus.link = .idle) && s.scan.build.isNone
    && s.scan.broadcast.isEmpty

/-- The next visit of the round; where the positions left have all become ones to skip, the round
ends. -/
def scannerVisitStep (s : State) : State :=
  if s.visitDue then
    match s.nextVisit with
    | some pos => s.visit pos
    | none => s.endRound
  else s

/-- SCANNER_VISIT (R151). -/
def execScannerVisit (s : State) : Host.Outcome State Fault Refusal :=
  s.whileRunning scannerVisitStep

/-! ### BATCH_SLOT_READ (R155) -/

/-- The batch size of a position's class. -/
def State.batchSize (s : State) (pos : Fin 16) : Nat :=
  match s.classOf pos with
  | some c => c.batchSize
  | none => 0

/-- The BATCH is built when it is full, when a truncated delivery has its count, or when the last slot
has been read (R155). -/
def State.buildDone (s : State) (b : Build) (d : Delivery) : Bool :=
  decide (s.batchSize b.pos ≤ b.items.length)
    || (d.truncated && decide (d.expectCount ≤ d.sent + b.items.length))
    || decide (s.size b.lane ≤ b.cursor)

/-- The read the scanner requests when no BATCH is being built: the walk's, if one is under way. -/
def Scanner.idleRead (t : Scanner) : Option ReadKind :=
  match t.walk with
  | some _ => some .tally
  | none => none

/-- The BATCH built is handed to the bus, or CLOSE where no item was found (R155). -/
def State.sendBuild (s : State) (b : Build) (d : Delivery) : State :=
  let s := { s with scan := { s.scan with build := none, read := s.scan.idleRead } }
  match b.items.getLast? with
  | none => s.sendClose b.pos b.lane
  | some (last, _) =>
    s.sendTo b.pos (.batch b.lane d.target d.batchNo (b.items.map Prod.snd)) (last + 1)

/-- The build after the read of its cursor slot. -/
def Build.readSlot (b : Build) (m : Memory) (d : Delivery) : Build :=
  { b with
    cursor := b.cursor + 1,
    items := match m.batchItem b.cursor d.target d.cutoff with
      | some i => b.items ++ [(b.cursor, i)]
      | none => b.items }

/-- A granted read for the BATCH being built (R58, R60, R155). -/
def batchSlotReadStep (s : State) : State :=
  match s.scan.build with
  | some b =>
    if s.nextGrant = some .scanner ∧ s.scan.read = some .batch then
      let d := ((s.validator b.pos).lane b.lane).delivery
      let b := b.readSlot (s.region b.lane) d
      let s := s.granted .scanner
      if s.buildDone b d then s.sendBuild b d
      else { s with scan := { s.scan with build := some b } }
    else s
  | none => s

/-- BATCH_SLOT_READ. -/
def execBatchSlotRead (s : State) : Host.Outcome State Fault Refusal :=
  s.whileRunning batchSlotReadStep

/-! ### TALLY_SLOT_READ (R153) -/

/-- Drops the entry entered earliest among those of neither lane P's ACTIVE nor its S (R153). -/
def dropTally (keep : Nat → Bool) : List TallyEntry → List TallyEntry
  | [] => []
  | x :: xs => if keep x.generation then x :: dropTally keep xs else xs

/-- A generation is the S of a lane, in the states in which it has one (R17). -/
def LaneRec.isStagedGen (r : LaneRec) (g : Nat) : Bool :=
  r.state.holdsStaging && decide (r.stagedGen = g)

/-- A tally enters the table of four (R153). -/
def State.enterTally (s : State) (x : TallyEntry) : State :=
  let r := s.lane .p
  let room := if s.scan.tally.length < 4 then s.scan.tally
    else dropTally (fun g => decide (g = r.active) || r.isStagedGen g) s.scan.tally
  { s with scan := { s.scan with tally := room ++ [x] } }

/-- The read requested after a tally read: a BATCH that waited for it comes first (R153). -/
def Scanner.readAfterTally (t : Scanner) : Option ReadKind :=
  match t.build with
  | some _ => some .batch
  | none => t.idleRead

/-- A granted read of the tally walk (R58, R60, R153). -/
def tallySlotReadStep (s : State) : State :=
  match s.scan.walk with
  | some w =>
    if s.nextGrant = some .scanner ∧ s.scan.read = some .tally then
      let tally := w.tally + (s.region .p).tallyAt w.cursor w.generation
      let s := s.granted .scanner
      let s :=
        if w.cursor + 1 < s.size .p then
          { s with scan := { s.scan with
              walk := some { w with cursor := w.cursor + 1, tally := tally } } }
        else ({ s with scan := { s.scan with walk := none } }).enterTally
          { generation := w.generation, tally := tally }
      { s with scan := { s.scan with read := s.scan.readAfterTally } }
    else s
  | none => s

/-- TALLY_SLOT_READ. -/
def execTallySlotRead (s : State) : Host.Outcome State Fault Refusal :=
  s.whileRunning tallySlotReadStep

end Sys2Proof.Machine
end

