-- ==== Sys2Proof/Machine/Dispatch.lean ====
section
/-! DEFINITION. One arm for each command: its meaning. -/

namespace Sys2Proof.Machine

def exec (i : Instr) (s : State) : Host.Outcome State Fault Refusal :=
  match i with
  | .coldReset straps => Sys2Proof.Machine.execColdReset straps s
  | .frameArrival frame => Sys2Proof.Machine.execFrameArrival frame s
  | .beacon => Sys2Proof.Machine.execBeacon s
  | .notice => Sys2Proof.Machine.execNotice s
  | .segmentCheck => Sys2Proof.Machine.execSegmentCheck s
  | .segmentMatch => Sys2Proof.Machine.execSegmentMatch s
  | .applyItem => Sys2Proof.Machine.execApplyItem s
  | .retireSlot => Sys2Proof.Machine.execRetireSlot s
  | .undoSlot => Sys2Proof.Machine.execUndoSlot s
  | .reclaimSlot => Sys2Proof.Machine.execReclaimSlot s
  | .clearSlot => Sys2Proof.Machine.execClearSlot s
  | .localSecond => Sys2Proof.Machine.execLocalSecond s
  | .holdoverEntry => Sys2Proof.Machine.execHoldoverEntry s
  | .scannerVisit => Sys2Proof.Machine.execScannerVisit s
  | .tallySlotRead => Sys2Proof.Machine.execTallySlotRead s
  | .batchSlotRead => Sys2Proof.Machine.execBatchSlotRead s
  | .broadcastSwitch => Sys2Proof.Machine.execBroadcastSwitch s
  | .busFrameSent => Sys2Proof.Machine.execBusFrameSent s
  | .replyReceived chars => Sys2Proof.Machine.execReplyReceived chars s
  | .replyWindowEnd => Sys2Proof.Machine.execReplyWindowEnd s
  | .lineIdleGap => Sys2Proof.Machine.execLineIdleGap s
  | .turnaroundGapEnd => Sys2Proof.Machine.execTurnaroundGapEnd s
  | .quietIntervalEnd => Sys2Proof.Machine.execQuietIntervalEnd s
  | .postBroadcastGapEnd => Sys2Proof.Machine.execPostBroadcastGapEnd s
  | .postResetGapEnd => Sys2Proof.Machine.execPostResetGapEnd s
  | .status => Sys2Proof.Machine.execStatus s
  | .setSplit => Sys2Proof.Machine.execSetSplit s
  | .subscribe => Sys2Proof.Machine.execSubscribe s
  | .setClass => Sys2Proof.Machine.execSetClass s
  | .setPosition => Sys2Proof.Machine.execSetPosition s
  | .setTiming => Sys2Proof.Machine.execSetTiming s
  | .setAddressing => Sys2Proof.Machine.execSetAddressing s
  | .events => Sys2Proof.Machine.execEvents s
  | .acknowledge => Sys2Proof.Machine.execAcknowledge s
  | .hold => Sys2Proof.Machine.execHold s
  | .release => Sys2Proof.Machine.execRelease s
  | .rollback => Sys2Proof.Machine.execRollback s
  | .clear => Sys2Proof.Machine.execClear s
  | .inspect => Sys2Proof.Machine.execInspect s
  | .inspectNext => Sys2Proof.Machine.execInspectNext s
  | .inspectSlotRead => Sys2Proof.Machine.execInspectSlotRead s
  | .save => Sys2Proof.Machine.execSave s
  | .saveWriteComplete => Sys2Proof.Machine.execSaveWriteComplete s
  | .restart => Sys2Proof.Machine.execRestart s
  | .egressFrameSent => Sys2Proof.Machine.execEgressFrameSent s
  | .periodicStanding => Sys2Proof.Machine.execPeriodicStanding s
  | .resetAsserted => Sys2Proof.Machine.execResetAsserted s
  | .replyStart => Sys2Proof.Machine.execReplyStart s

end Sys2Proof.Machine
end

