-- ==== Sys2Proof/Safety.lean ====
section
/-! DEFINITION. What the statements call safe: the forms a reachable state keeps, and the figures they
are stated with. -/

namespace Sys2Proof.Machine

/-! ### The entry store -/

/-- A region's canonical form, its bounds and its free count (R49). -/
def RegionInv (size free : Nat) (m : Memory) : Prop :=
  m.wf = true ∧ (∀ a x, m.read a = some x → a < size) ∧ free + m.length = size

/-- Both regions keep the form of R49. -/
def StoreInv (s : State) : Prop := ∀ l, RegionInv (s.size l) (s.store.free.get l) (s.region l)

/-- Heads and tails name each other, a tail above its head (R52). -/
def LinksOk (m : Memory) : Prop :=
  (∀ a h t, m.read a = some (.head h) → h.tail = some t →
    a < t ∧ ∃ x, m.read t = some (.tail x) ∧ x.head = a)
  ∧ ∀ t x, m.read t = some (.tail x) → ∃ h, m.read x.head = some (.head h) ∧ h.tail = some t

/-- Both regions are canonical, and their heads and tails name each other. -/
def LinkInv (s : State) : Prop := ∀ l, (s.region l).wf = true ∧ LinksOk (s.region l)

/-- The blocklist entries visible in a generation, in slot order (R53). -/
def Memory.visibleBlocks (m : Memory) (g : Nat) : List BlockEntry :=
  m.filterMap fun (_, x) =>
    match x with
    | .block e => if stampsVisible e.added e.removed g then some e else none
    | _ => none

/-- The product heads visible in a generation, in slot order (R53). -/
def Memory.visibleHeads (m : Memory) (g : Nat) : List ProductHead :=
  m.filterMap fun (_, x) =>
    match x with
    | .head h => if stampsVisible h.added h.removed g then some h else none
    | _ => none

/-- The digest of a list of blocklist entries, with its histogram (R92, R94). -/
def digestOfBlocks (es : List BlockEntry) : Digest :=
  es.foldl (fun d e => d.change (.blockIn e.token e.priority)) Digest.zero

/-- The digest of a list of product records (R92). -/
def digestOfRecords (rs : List ProductRecord) : Digest :=
  rs.foldl (fun d r => d.change (.recordIn (productWeight r))) Digest.zero

/-! ### Lane records -/

/-- What R17, R36 and R40 say of a lane record: a staged generation above ACTIVE and the floor, nothing
staged in IDLE, and a history of at most two, strictly descending below ACTIVE. -/
def LaneRecInv (r : LaneRec) : Prop :=
  (r.state.holdsStaging = true → ∃ n, r.staged = some n ∧ max r.active r.floor < n.g)
  ∧ (r.state = .idle → r.staged = none)
  ∧ r.history.length ≤ 2
  ∧ (r.active :: r.history.map HistoryRecord.generation).Pairwise (· > ·)

/-- The apply engine holds a segment of a STAGING lane only, or finishes an item of one that has been
discarded and whose removing sweep waits for it (R34, R63). -/
def EngineInv (s : State) : Prop :=
  match s.store.engine with
  | .empty => True
  | .applying seg _ _ | .waiting seg _ => (s.lane seg.lane).state = .staging
  | .finishing seg _ =>
    (s.lane seg.lane).state = .discarding ∧ (s.lane seg.lane).staged.isSome = true

/-- Both lane records keep that form, and the engine its own. -/
def LaneInv (s : State) : Prop := (∀ l, LaneRecInv (s.lane l)) ∧ EngineInv s

/-! ### The clock, the queues, the counters -/

/-- The ranges of the clock record (R104). -/
def ClockOk (c : Clock) : Prop :=
  c.value ≤ 4294967295 ∧ c.debt ≤ 600 ∧ c.timer ≤ 300 ∧ c.rejected ≤ 65535
  ∧ (c.state = .unset → c.value = 0 ∧ c.debt = 0 ∧ c.timer = 0)

/-- The queues hold no more than their capacities (R5, R6, R183). -/
def QueueInv (s : State) : Prop :=
  s.uplink.ingress.length ≤ 16 ∧ s.uplink.control.length ≤ 4 ∧ s.uplink.egress.length ≤ 8

/-- No uplink counter exceeds 65,535 (R15). -/
def UplinkCounters.inRange (c : UplinkCounters) : Prop :=
  c.framesTaken ≤ 65535 ∧ c.checkFailures ≤ 65535 ∧ c.foreignFrames ≤ 65535
  ∧ c.ingressDrops ≤ 65535 ∧ c.controlDrops ≤ 65535 ∧ c.malformed ≤ 65535
  ∧ c.passedOver ≤ 65535 ∧ c.alertsDropped ≤ 65535

/-- The counters and the lateness of a lane record stay in range (R17, R20). -/
def LaneRec.countersInRange (r : LaneRec) : Prop :=
  r.lateness ≤ 65535 ∧ r.repeats ≤ 65535 ∧ r.duplicates ≤ 65535 ∧ r.absentDrops ≤ 65535
  ∧ r.discards ≤ 65535

/-- Every counter of the part stays in range (R15, R20, R134, R139, R145, R181). -/
def CounterInv (s : State) : Prop :=
  s.uplink.counters.inRange ∧ (∀ l, (s.lane l).countersInRange)
  ∧ s.bus.damaged ≤ 65535 ∧ s.bus.wrong ≤ 65535 ∧ s.bus.stray ≤ 65535
  ∧ (∀ pos, (s.validator pos).missCounter ≤ 65535)
  ∧ s.scan.roundNo ≤ 65535 ∧ s.ctl.alertNo ≤ 65535

/-! ### Taking a command -/

/-- The control unit is free to take the CONTROL at the head of its queue, which has a code (R173). -/
def State.takes (s : State) (m : ControlMessage) (code : Nat) : Prop :=
  s.power = .running ∧ s.ctl.command = .available ∧ s.uplink.control.head? = some m
  ∧ m.code.toNat = code

/-- The codes of the commands of the control unit (section 11.1), by the step that takes them. -/
def commandCode : Instr → Option Nat
  | .status => some 1
  | .setSplit => some 2
  | .subscribe => some 3
  | .setClass => some 4
  | .setPosition => some 5
  | .setTiming => some 6
  | .setAddressing => some 7
  | .events => some 8
  | .acknowledge => some 9
  | .hold => some 10
  | .release => some 11
  | .rollback => some 12
  | .clear => some 13
  | .inspect => some 14
  | .inspectNext => some 15
  | .save => some 16
  | .restart => some 17
  | _ => none

/-- A well-formed NOTICE of a lane's stream stands at the head of the ingress queue (R8 to R10). -/
def State.noticeAtHead (s : State) (l : Lane) (x : Notice) : Prop :=
  s.power = .running
  ∧ (∃ body, s.headOf .notice = some body ∧ parseNotice body = some x)
  ∧ s.settings.laneOfStream x.stream = some l ∧ noticeWellFormed l (s.size l) x = true

/-- A visit to a position is the scanner's next act (R145, R146). -/
def State.visits (s : State) (pos : Fin 16) : Prop :=
  s.power = .running ∧ s.visitDue = true ∧ s.nextVisit = some pos

/-- The sweep in progress has the arbiter's next grant (R60). -/
def State.sweeps (s : State) (w : Sweep) : Prop :=
  s.power = .running ∧ s.nextGrant = some .sweeper ∧ s.sweeper.sweep = some w

/-- The step of a sweep's kind. -/
def commandOfSweep : SweepKind → Instr
  | .retire _ => .retireSlot
  | .undo _ => .undoSlot
  | .reclaim => .reclaimSlot
  | .clear => .clearSlot

/-- The apply engine has the arbiter's next grant for an item of a segment (R60, R62). -/
def State.applies (s : State) (seg : Segment) (pos : Nat) (retry : Bool) : Prop :=
  s.power = .running ∧ s.nextGrant = some .apply ∧ s.store.engine = .applying seg pos retry

/-- The turnaround gap of an addressed exchange runs out, its record being the one it was sent for
(R122, R143). -/
def State.ends (s : State) (x : Addressed) (o : ExchangeOutcome) : Prop :=
  s.power = .running ∧ s.bus.link = .turnaround x o ∧ x.recordGone = false

/-- A SAVE is in flight (R189). -/
def State.savingTo (s : State) (place : Place) (saved : SavedRecord) : Prop :=
  ∃ h, s.ctl.command = .carryingOut h (.save place saved)

/-- The rises of a step have reached the control unit, one after another, with the clock as the step leaves
it (R180, R181): flags, alert number, egress queue and uplink counters are as each `rise` leaves them. -/
def State.raises (s t : State) (rises : List (EventFlag × AlertContext)) : Prop :=
  let u := rises.foldl (fun u x => u.rise x.1 x.2) { s with clock := t.clock }
  t.ctl.flags = u.ctl.flags ∧ t.ctl.alertNo = u.ctl.alertNo ∧ t.uplink.egress = u.uplink.egress
  ∧ t.uplink.counters = u.uplink.counters

/-! ### What a discard and the lane reports leave -/

/-- The sweeper after a discard of a lane asks for the removing sweep; a RETIRING lane defers it
(R34). -/
def State.afterAsking (s u : State) (l : Lane) (removing : SweepKind) : Sweeper :=
  if (s.lane l).state = .retiring then u.sweeper else (u.requestSweep l removing false).sweeper

/-- What a discard of a lane leaves of the apply engine and of the sweeper's list (R34, R61, R63). Whether
an item next to be granted was granted first is a free value (log 39). -/
def State.givesUpSegment (s t : State) (l : Lane) (removing : SweepKind) : Prop :=
  let emptied : Store := { s.store with engine := .empty }
  (s.store.engine.lane ≠ some l →
    t.store = s.store ∧ t.sweeper = s.afterAsking s l removing)
  ∧ (∀ seg pos, s.store.engine = .waiting seg pos → seg.lane = l →
    t.store = emptied ∧ t.sweeper = s.afterAsking s.clearWaiter l removing)
  ∧ (∀ seg pos retry, s.store.engine = .applying seg pos retry → seg.lane = l →
    ((s.nextGrant ≠ some .apply ∨ Config.itemGrantedFirst s.choices = false) →
      t.store = emptied ∧ t.sweeper = s.afterAsking s l removing)
    ∧ (s.nextGrant = some .apply → Config.itemGrantedFirst s.choices = true →
      t.store = { s.store with lastGranted := .apply, engine := .finishing seg pos }
      ∧ t.sweeper = s.sweeper))

/-- A pending generation is stale in a lane that is not READY: it is not ACTIVE, or not the confirmed
generation of the sub-record (R139, R165). -/
def ValidatorLane.staleAgainst (y : ValidatorLane) (active : Nat) : Prop :=
  y.pending ≠ 0
    ∧ ¬(y.pending = active ∧ y.delivery.state = .idle ∧ y.pending = y.delivery.target)

/-- What the report that S is gone leaves of a lane's part of a record, ACTIVE as it stands (R164): a
delivery of S abandoned, a confirmation of S and marks of S withdrawn, a drop owed for S or for a stale
copy. -/
def ValidatorLane.isWhenGone (x y : ValidatorLane) (active g : Nat) : Prop :=
  let busy : Prop := y.delivery.state ≠ .idle
  x.held = y.held ∧ x.pending = y.pending ∧ x.ready = y.ready
  ∧ (busy → y.delivery.target = g → x.delivery = Delivery.idleWith 0)
  ∧ (busy → y.delivery.target ≠ g → x.delivery = y.delivery)
  ∧ (¬ busy → x.delivery =
      { y.delivery with target := if y.delivery.target = g then 0 else y.delivery.target })
  ∧ x.faulty = (if y.faulty = g then 0 else y.faulty)
  ∧ x.unfit = (if y.unfit = g then 0 else y.unfit)
  ∧ (x.staleAgainst active → x.dropOwed = y.pending)
  ∧ (¬ x.staleAgainst active → busy → y.delivery.target = g → x.dropOwed = g)
  ∧ (¬ x.staleAgainst active → ¬(busy ∧ y.delivery.target = g) → x.dropOwed = y.dropOwed)

/-- What an activation, rollback or lane-cleared report leaves of a lane's part of a record, with the new
ACTIVE (R163, R170, R171): the deliveries of the targets that end abandoned, the marks cleared, a drop owed
for a stale copy. -/
def ValidatorLane.isWhenMoved (x y : ValidatorLane) (active : Nat) (ends : Nat → Prop) : Prop :=
  let busy : Prop := y.delivery.state ≠ .idle
  x.held = y.held ∧ x.pending = y.pending ∧ x.ready = y.ready
  ∧ (busy → ends y.delivery.target → x.delivery = Delivery.idleWith 0)
  ∧ (¬(busy ∧ ends y.delivery.target) → x.delivery = y.delivery)
  ∧ x.faulty = 0 ∧ x.unfit = 0
  ∧ (x.staleAgainst active → x.dropOwed = y.pending)
  ∧ (¬ x.staleAgainst active → x.dropOwed = y.dropOwed)

/-- Every record that is not VACANT has its part of a lane changed in a way, and nothing else of it. -/
def State.changesLaneRecords (s t : State) (l : Lane)
    (way : ValidatorLane → ValidatorLane → Prop) : Prop :=
  ∀ pos, (s.validator pos).presence ≠ .vacant →
    way ((t.validator pos).lane l) ((s.validator pos).lane l)
    ∧ t.validator pos = (s.validator pos).setLane l ((t.validator pos).lane l)

/-- The addressed exchange in flight (R122). -/
def Link.addressed : Link → Option Addressed
  | .sending (.addressed x) => some x
  | .waiting x => some x
  | .receiving x _ => some x
  | .turnaround x _ => some x
  | _ => none

/-- The exchange on the line runs on; its outcome will not act on its delivery where that is one of a
lane's that end (R160, R161). -/
def State.marksExchange (s t : State) (l : Lane) (ends : Nat → Prop) : Prop :=
  (s.bus.link.addressed = none → t.bus.link = s.bus.link)
  ∧ ∀ x, s.bus.link.addressed = some x →
    let d := ((s.validator x.pos).lane l).delivery
    let ended : Prop := x.frame.deliveryLane = some l ∧ d.state ≠ .idle ∧ ends d.target
    (ended → t.bus.link.addressed = some { x with deliveryGone := true })
    ∧ (¬ ended → t.bus.link = s.bus.link)

/-- A BATCH being built for a delivery of a lane's that ends is given up, and the visit chooses its frame
again; any other is built on (R61, R160). -/
def State.givesUpBuild (s t : State) (l : Lane) (ends : Nat → Prop) : Prop :=
  (s.scan.build = none → t.scan.build = none)
  ∧ ∀ b, s.scan.build = some b →
    let d := ((s.validator b.pos).lane l).delivery
    let ended : Prop := b.lane = l ∧ d.state ≠ .idle ∧ ends d.target
    (ended → t.scan.build = none ∧ (s.scan.phase = .visiting → t.scan.nextPos = b.pos.val))
    ∧ (¬ ended → t.scan.build = s.scan.build)

/-- At a lane report the tally walk goes on while its generation can be a lane-P target, ACTIVE or the S of a
READY lane, and is given up otherwise; a read requested for what is given up is withdrawn, and the other kind
is requested where it is under way (R61, R153). -/
def State.keepsWalk (s t : State) : Prop :=
  let p := t.lane .p
  (s.scan.walk = none → t.scan.walk = none)
  ∧ (∀ w, s.scan.walk = some w →
    let live : Prop := w.generation = p.active ∨ (p.state = .ready ∧ w.generation = p.stagedGen)
    (live → t.scan.walk = s.scan.walk) ∧ (¬ live → t.scan.walk = none))
  ∧ (s.scan.read = none → t.scan.read = none)
  ∧ (s.scan.read = some .batch → s.scan.build.isSome = true →
    t.scan.read = if t.scan.build.isSome then some .batch else t.scan.walk.map fun _ => .tally)
  ∧ (s.scan.read = some .tally → s.scan.walk.isSome = true →
    t.scan.read = if t.scan.walk.isSome then some .tally else t.scan.build.map fun _ => .batch)

/-- A round of a number has begun, from position 1; one that visits nobody has ended in a pause (R145,
R147; log 22 for the empty round). -/
def State.beginsRound (t : State) (number : Nat) : Prop :=
  t.scan.roundNo = number ∧ t.scan.nextPos = 0 ∧ t.scan.exchanged = false ∧ t.scan.reported = false
  ∧ t.scan.phase = (if t.nextVisit.isSome then .visiting else .paused (250 * 2 ^ t.settings.quiet.val))

/-- One lane report has reached the scanner: a round in progress is marked, a pause ends, and the next
round begins, at once or behind a waiting broadcast (R145 to R148; log 22 for the round due and the empty
round). -/
def State.hearsReport (s t : State) : Prop :=
  (s.scan.phase = .visiting →
    t.scan.phase = .visiting ∧ t.scan.roundNo = s.scan.roundNo ∧ t.scan.reported = true)
  ∧ (s.scan.phase = .awaitReset → t.scan.phase = .awaitReset ∧ t.scan.roundNo = s.scan.roundNo)
  ∧ ((s.scan.phase = .roundDue ∨ ∃ ms, s.scan.phase = .paused ms) →
    (t.scan.broadcast = [] → t.beginsRound ((s.scan.roundNo + 1) % 65536))
    ∧ (t.scan.broadcast ≠ [] → t.scan.phase = .roundDue ∧ t.scan.roundNo = s.scan.roundNo))

/-- Two lane reports have reached the scanner, one after the other. The state between them has the settings,
the presences and the broadcast list as they stood, and what is given of the first report. -/
def State.hearsTwoReports (s t : State) (first : State → Prop) : Prop :=
  ∃ u : State, u.settings = s.settings ∧ u.scan.broadcast = s.scan.broadcast
    ∧ (∀ pos, (u.validator pos).presence = (s.validator pos).presence)
    ∧ first u ∧ s.hearsReport u ∧ u.hearsReport t

/-- The report of a staging, or of READY, changes nothing in the scanner but the round and the tally walk
(R162). -/
def State.reportsStaging (s u : State) : Prop :=
  u.scan.records = s.scan.records ∧ u.scan.tally = s.scan.tally ∧ u.scan.build = s.scan.build
  ∧ u.bus = s.bus ∧ s.keepsWalk u

/-- The report that S is gone has reached the scanner: the records, the exchange on the line, the BATCH being
built, the tally walk and table (R153, R160, R164). -/
def State.reportsGone (s t : State) (l : Lane) (g : Nat) : Prop :=
  s.changesLaneRecords t l (fun x y => x.isWhenGone y (s.lane l).active g)
  ∧ s.marksExchange t l (fun target => target = g) ∧ s.givesUpBuild t l (fun target => target = g)
  ∧ s.keepsWalk t
  ∧ t.scan.tally =
    (if l = .p then s.scan.tally.filter (fun e => decide (e.generation ≠ g)) else s.scan.tally)

/-- A report of a new ACTIVE has reached the scanner: the records, the exchange on the line, the BATCH being
built and the tally walk (R153, R160, R163, R170). -/
def State.reportsMoved (s t : State) (l : Lane) (active outgoing : Nat) : Prop :=
  s.changesLaneRecords t l (fun x y => x.isWhenMoved y active (fun target => target = outgoing))
  ∧ s.marksExchange t l (fun target => target = outgoing)
  ∧ s.givesUpBuild t l (fun target => target = outgoing) ∧ s.keepsWalk t
  ∧ t.scan.tally = s.scan.tally

/-- The SWITCHes that wait, with one on the line left at the head, have lost those of a lane (R146,
log 21). -/
def State.dropsSwitch (s t : State) (l : Lane) : Prop :=
  (s.bus.link.broadcastOnLine = none →
    t.scan.broadcast = s.scan.broadcast.filter (fun w => decide (w.lane ≠ l)))
  ∧ ∀ w online rest, s.bus.link.broadcastOnLine = some w → s.scan.broadcast = online :: rest →
    t.scan.broadcast = online :: rest.filter (fun w => decide (w.lane ≠ l))

/-- A SWITCH takes the place of the waiting one of its lane, or joins the tail (R146). -/
def joinsList (new : Switch) (waiting joined : List Switch) : Prop :=
  ((∀ w ∈ waiting, w.lane ≠ new.lane) → joined = waiting ++ [new])
  ∧ ∀ before w after, waiting = before ++ w :: after → (∀ x ∈ before, x.lane ≠ new.lane) →
    w.lane = new.lane → joined = before ++ new :: after

/-- A SWITCH has joined those that wait, one on the line left at the head (R146, log 21). -/
def State.joinsSwitch (s t : State) (new : Switch) : Prop :=
  (s.bus.link.broadcastOnLine = none → joinsList new s.scan.broadcast t.scan.broadcast)
  ∧ ∀ w online rest, s.bus.link.broadcastOnLine = some w → s.scan.broadcast = online :: rest →
    ∃ joined, joinsList new rest joined ∧ t.scan.broadcast = online :: joined

/-! ### The layouts of a SEGMENT (R12, R195) -/

/-- A blocklist item's nine bytes. -/
def BlockItem.bytes (i : BlockItem) : List Byte :=
  be 1 (match i.op with | .add => 1 | .drop => 2) ++ be 1 i.priority ++ be 7 i.token

def BlockItem.fits (i : BlockItem) : Prop := i.priority < 2 ^ 8 ∧ i.token < 2 ^ 56

/-- The ranges in which a product record is well-formed (R12, R195). -/
def ProductRecord.fits (r : ProductRecord) : Prop :=
  r.code ≤ 4095 ∧ r.fare < 65536 ∧ r.firstDay < 65536
  ∧ (∀ v, r.concession = some v → v < 65536) ∧ (∀ v, r.lastDay = some v → v < 65536)
  ∧ (∀ v, r.transfer = some v → 1 ≤ v ∧ v < 256)
  ∧ 1 ≤ r.zones.length ∧ r.zones.length ≤ 8 ∧ ∀ z ∈ r.zones, 1 ≤ z ∧ z < 256

/-- The well-formed items of a SEGMENT of a lane, their number and their bytes (R12, R195). -/
def SegmentItems.areSent (items : SegmentItems) (l : Lane) (count : Nat) (bytes : List Byte) : Prop :=
  match items, l with
  | .block is, .b =>
    is.length = count ∧ 1 ≤ count ∧ count ≤ 64 ∧ (∀ i ∈ is, i.fits)
      ∧ bytes = is.flatMap BlockItem.bytes
  | .product rs, .p =>
    rs.length = count ∧ 1 ≤ count ∧ count ≤ 16 ∧ (∀ r ∈ rs, r.fits)
      ∧ bytes = rs.flatMap encodeRecord
  | _, _ => False

/-! ### The STANDING (R185, section 11.3) -/

/-- The 54 bytes of a digest. -/
def Digest.bytes (d : Digest) : List Byte :=
  be 2 d.count ++ be 4 d.sum.toNat
    ++ (List.finRange 8).flatMap fun l => be 2 d.levels[l].count ++ be 4 d.levels[l].sum.toNat

/-- The 57 bytes of a history place. -/
def HistoryRecord.bytes (r : HistoryRecord) : List Byte := be 3 r.generation ++ r.digest.bytes

/-- The 114 bytes of a history, its two places newest first and an unused one 0. -/
def historyBytes : List HistoryRecord → List Byte
  | [] => List.replicate 114 0
  | [top] => top.bytes ++ List.replicate 57 0
  | top :: next :: _ => top.bytes ++ next.bytes

/-- The 18 bytes of a staged notice, 0 when it is empty. -/
def stagedBytes : Option StagedNotice → List Byte
  | none => List.replicate 18 0
  | some n => be 3 n.g ++ be 3 n.b ++ be 2 n.n ++ be 2 n.count ++ be 4 n.sum.toNat ++ be 4 n.e

/-- The 3 bytes of a pending command. Beside none stand the two bytes given (log 42), beside ROLLBACK and
CLEAR 0 (log 43). -/
def pendingBytes (unused : List Byte) : Option LaneCommand → List Byte
  | none => [0] ++ unused
  | some .rollback => [1, 0, 0]
  | some .clear => [2, 0, 0]
  | some (.subscribe stream) => [3] ++ be 2 stream

/-- The 398 bytes of a lane record. In the 128 bytes of the segment map, index i stands in byte i div 8 as the
figure 2^(7 - i mod 8) (R193). Two bytes stand for the stream id of no pending command (log 42). -/
def LaneRec.isSent (r : LaneRec) (unused bytes : List Byte) : Prop :=
  ∃ map : List Byte, map.length = 128
  ∧ (∀ i < 1024, ∀ x, map[i / 8]? = some x → (x.getLsbD (7 - i % 8) = true ↔ i ∈ r.segmentMap))
  ∧ bytes =
    be 1 (match r.state with
      | .idle => 0 | .retiring => 1 | .staging => 2 | .ready => 3 | .discarding => 4)
    ++ be 3 r.active ++ r.activeDigest.bytes ++ be 1 r.history.length
    ++ historyBytes r.history
    ++ be 3 r.floor ++ stagedBytes r.staged ++ r.stagedDigest.bytes ++ map
    ++ be 1 (if r.undoDeferred then 1 else 0)
    ++ pendingBytes unused r.pendingCommand ++ be 3 r.viewNewest ++ be 3 r.viewOldest
    ++ be 1 (if r.hold then 1 else 0)
    ++ be 1 (match r.lastReason with
      | .noReason => 0 | .content => 1 | .digest => 2 | .overtaken => 3 | .revised => 4
      | .storeFull => 5 | .aborted => 6)
    ++ be 2 r.lateness ++ be 2 r.repeats ++ be 2 r.duplicates ++ be 2 r.absentDrops
    ++ be 2 r.discards

/-- The 41 bytes of a lane's part of a validator record. -/
def ValidatorLane.bytes (y : ValidatorLane) : List Byte :=
  let d := y.delivery
  be 3 y.held ++ be 3 y.pending ++ be 1 (if y.ready then 1 else 0)
    ++ be 1 (match d.state with | .idle => 0 | .opening => 1 | .sending => 2 | .closing => 3)
    ++ be 3 d.target ++ be 2 d.capacity ++ be 1 d.cutoff ++ be 1 (if d.truncated then 1 else 0)
    ++ be 2 d.expectCount ++ be 4 d.expectSum.toNat ++ be 4 d.running.toNat ++ be 2 d.cursor
    ++ be 2 d.sent ++ be 2 d.batchNo ++ be 1 d.attempts
    ++ be 3 y.faulty ++ be 3 y.unfit ++ be 3 y.dropOwed

/-- The 90 bytes of a validator record with its roster entry. -/
def Validator.bytes (entry : Option (Fin 8)) (v : Validator) : List Byte :=
  be 1 (match entry with | some c => c.val | none => 255)
    ++ be 1 (match v.presence with
      | .vacant => 0 | .seeking => 1 | .settling => 2 | .present => 3 | .silent => 4)
    ++ be 1 v.goodRun ++ be 1 v.missRun ++ be 2 v.lastCapacity ++ be 2 v.missCounter
    ++ v.lanes.b.bytes ++ v.lanes.p.bytes

/-- The kind byte of a sweep. -/
def SweepKind.byte : SweepKind → Byte
  | .retire _ => 1
  | .undo _ => 2
  | .reclaim => 3
  | .clear => 4

/-- The 21 bytes of the sweeper: the sweep in progress, and eight request places. With no sweep the bytes
given stand for its lane and cursor (log 40). -/
def Sweeper.bytes (w : Sweeper) (unused : List Byte) : List Byte :=
  (match w.sweep with
    | none => [0] ++ unused
    | some x => [x.request.kind.byte] ++ be 1 (laneCode x.request.lane) ++ be 2 x.cursor)
  ++ be 1 w.requests.length
  ++ (List.range 8).flatMap fun i =>
    match w.requests[i]? with
    | none => [0, 0]
    | some x => be 1 (laneCode x.lane) ++ [x.kind.byte]

/-- The fields of a STANDING in the order of section 11.3, the two lane records and the lane and cursor
of no sweep given. -/
def State.isStanding (s : State) (laneB laneP unused bytes : List Byte) : Prop :=
  let c := s.uplink.counters
  bytes =
    -- unit
    [s.settings.addressing.unitId] ++ be 1 (match s.ctl.cause with | .cold => 1 | .warm => 2)
    ++ (match s.ctl.command with
      | .available => [0, 0]
      | .carryingOut h _ => [1, h.code]
      | .placing a => [2, a.head.code])
    ++ be 2 s.ctl.alertNo
    -- settings and flags
    ++ be 1 s.settings.split.val ++ be 2 s.settings.subs.b ++ be 2 s.settings.subs.p
    ++ be 1 s.settings.quiet.val ++ be 1 s.settings.period.val ++ be 2 s.settings.enables.toNat
    ++ be 2 s.ctl.flags.toNat
    -- clock
    ++ be 4 s.clock.value
    ++ be 1 (match s.clock.state with | .unset => 0 | .locked => 1 | .holdover => 2)
    ++ be 2 s.clock.debt ++ be 2 s.clock.timer ++ be 2 s.clock.rejected
    -- uplink
    ++ be 2 c.framesTaken ++ be 2 c.checkFailures ++ be 2 c.foreignFrames ++ be 2 c.ingressDrops
    ++ be 2 c.controlDrops ++ be 2 c.malformed ++ be 2 c.passedOver ++ be 2 c.alertsDropped
    ++ be 1 s.uplink.ingress.length ++ be 1 s.uplink.control.length ++ be 1 s.uplink.egress.length
    -- lanes, store, sweeper
    ++ laneB ++ laneP ++ be 2 s.store.free.b ++ be 2 s.store.free.p
    ++ (match s.store.engine with
      | .empty => [0, 0]
      | .applying seg _ _ | .finishing seg _ => [1] ++ be 1 (laneCode seg.lane)
      | .waiting seg _ => [2] ++ be 1 (laneCode seg.lane))
    ++ s.sweeper.bytes unused
    -- bus and validators
    ++ be 2 s.bus.damaged ++ be 2 s.bus.wrong ++ be 2 s.bus.stray ++ be 2 s.scan.roundNo
    ++ (List.finRange 16).flatMap fun pos => (s.validator pos).bytes s.settings.roster[pos]

/-! ### Replies (R124, R196) -/

/-- The type byte and body of a reply, within the values its type permits (R128, R129, R196). -/
def Reply.isSent (type : Nat) (body : List Byte) : Reply → Prop
  | .status t =>
    type = 0x81 ∧ t.capacity ≤ 61440
    ∧ (∀ l, t.held.get l < 2 ^ 24 ∧ t.staged.get l < 2 ^ 24)
    ∧ body = be 3 t.held.b ++ be 3 t.staged.b ++ be 1 (yesNo t.ready.b) ++ be 3 t.held.p
        ++ be 3 t.staged.p ++ be 1 (yesNo t.ready.p) ++ be 2 t.capacity
  | .accept => type = 0x82 ∧ body = []
  | .ack none => type = 0x83 ∧ body = []
  | .ack (some number) => type = 0x83 ∧ number < 2 ^ 16 ∧ body = be 2 number
  | .confirm count sum => type = 0x84 ∧ count < 2 ^ 16 ∧ body = be 2 count ++ be 4 sum.toNat
  | .refuseCapacity capacity =>
    type = 0x85 ∧ 1 ≤ capacity ∧ capacity ≤ 61440 ∧ body = be 1 1 ++ be 2 capacity
  | .refuseBusy => type = 0x85 ∧ body = be 1 2
  | .refuseGeneration => type = 0x85 ∧ body = be 1 3

/-- The replies allowed for a frame (R124). -/
def BusFrame.allows (frame : BusFrame) (r : Reply) : Prop :=
  (frame = .poll ∧ ∃ t, r = .status t)
  ∨ (∃ l g n k c, frame = .open l g n k c
      ∧ (r = .accept ∨ r = .refuseBusy ∨ l = .b ∧ ∃ capacity, r = .refuseCapacity capacity))
  ∨ (∃ l g number items, frame = .batch l g number items ∧ r = .ack (some number))
  ∨ (∃ l g, frame = .close l g ∧ (r = .refuseGeneration ∨ ∃ count sum, r = .confirm count sum))
  ∨ (∃ l g, frame = .switch l g ∧ ∃ t, r = .status t)
  ∨ ∃ l g, frame = .drop l g ∧ r = .ack none

end Sys2Proof.Machine
end

