-- ==== Sys2Proof/Certificates/Slice0/Obligations.lean ====
section
/-! DEFINITION. The statements for the provers. -/

open Sys2Proof Sys2Proof.Machine

/-! ### The queue of commands -/

/-- One step takes the command at the front of the queue and is `exec` of it on the state with the
queue's rest; with nothing in the queue the part idles (the model's choice, log 2). -/
def Obligations.StepRunsFrontCommand : Prop :=
  (∀ (c : Instr) (rest : List Instr) (s : State),
    step { s with pending := c :: rest } = exec c { s with pending := rest })
  ∧ ∀ s : State, s.pending = [] → step s = .next s

/-- No command stops the part, none touches the queue of commands, and a part held in reset does
nothing until its cold reset ends (log 13). -/
def Obligations.EveryCommandAnswersNext : Prop :=
  ∀ (c : Instr) (s : State),
    (∃ t, exec c s = .next t ∧ t.pending = s.pending)
    ∧ (s.power = .heldInReset → (∀ straps, c ≠ .coldReset straps) → exec c s = .next s)

/-! ### Flags, ALERTs, ANSWERs and the arbiter -/

/-- A rise sets its flag; with the enable on it makes an ALERT, numbered, and placed or dropped and
counted: 19 bytes that hold the number, the flag, its context, and the flags and clock as they stand. The
flags have the numbers of R180. -/
def Obligations.RiseSetsFlagAndMakesAlert : Prop :=
  (∀ (s : State) (f : EventFlag) (c : AlertContext),
    let flagged : State := { s with ctl := { s.ctl with flags := s.ctl.flags ||| f.bit } }
    let made : State :=
      { flagged with ctl := { flagged.ctl with alertNo := (s.ctl.alertNo + 1) % 65536 } }
    let body : List Byte :=
      be 1 s.settings.addressing.unitId.toNat ++ be 2 ((s.ctl.alertNo + 1) % 65536)
        ++ be 1 f.number ++ be 1 c.position ++ be 1 c.lane ++ be 3 c.generation ++ be 1 c.detail
        ++ be 2 c.figure ++ be 2 (s.ctl.flags ||| f.bit).toNat ++ be 4 s.clock.value
        ++ be 1 (match s.clock.state with | .unset => 0 | .locked => 1 | .holdover => 2)
    let message : OutboundMessage :=
      { kind := .alert, body := body, unitMac := s.settings.addressing.unitMac,
        gatewayMac := s.settings.addressing.gatewayMac,
        etherType := s.settings.addressing.etherType, restart := false }
    (s.settings.enables.getLsbD f.number = false → s.rise f c = flagged)
    ∧ (s.settings.enables.getLsbD f.number = true → s.uplink.egress.length < 8 →
        s.rise f c =
          { made with uplink := { s.uplink with egress := s.uplink.egress ++ [message] } })
    ∧ (s.settings.enables.getLsbD f.number = true → 8 ≤ s.uplink.egress.length →
        s.rise f c =
          { made with uplink := { s.uplink with
              counters := { s.uplink.counters with
                alertsDropped := min (s.uplink.counters.alertsDropped + 1) 65535 } } }))
  ∧ (∀ f : EventFlag, f.bit = BitVec.ofNat 16 (2 ^ f.number))
  ∧ [EventFlag.stagedReady .b, .activated .b, .discarded .b, .pressure .b, .stagedReady .p,
      .activated .p, .discarded .p, .pressure .p, .joined, .lost, .deliveryFault, .truncated, .unfit,
      .holdover, .ingressOverflow, .restarted].map EventFlag.number =
    [0, 1, 2, 3, 4, 5, 6, 7, 8, 9, 10, 11, 12, 13, 14, 15]

/-- An ANSWER is placed with the addresses in force, or waits in PLACING while the egress queue is full; when
a frame other than that of the ANSWER of RESTART is sent, the ANSWER that waits is placed, and a
SET-ADDRESSING takes effect with it. That an ANSWER echoes the identifier of its CONTROL, also after the
identifier has changed, is the model's choice (log 37). -/
def Obligations.AnswersArePlacedInTurn : Prop :=
  (∀ (s : State) (h : CommandHead) (r : CommandResult) (body : List Byte),
     let full : List Byte := [h.unitId, h.tag, h.code] ++ be 1 r.code ++ body
     (s.uplink.egress.length < 8 →
       s.answer h r body =
         { s with
           uplink := { s.uplink with egress := s.uplink.egress ++
             [{ kind := .answer, body := full, unitMac := s.settings.addressing.unitMac,
                gatewayMac := s.settings.addressing.gatewayMac,
                etherType := s.settings.addressing.etherType, restart := false }] },
           ctl := { s.ctl with command := .available } })
     ∧ (8 ≤ s.uplink.egress.length →
       s.answer h r body =
         { s with ctl := { s.ctl with
             command := .placing { head := h, body := full, addressing := none, restart := false } } }))
  ∧ (∀ (s : State) (m : OutboundMessage) (rest : List OutboundMessage),
     s.power = .running → s.uplink.egress = m :: rest → m.restart = false → rest.length < 8 →
     let sent : State :=
       { s with uplink := { s.uplink with egress := rest, lastFrame := outboundFrame m } }
     ((∀ a, s.ctl.command ≠ .placing a) → exec .egressFrameSent s = .next sent)
     ∧ (∀ a, s.ctl.command = .placing a →
         exec .egressFrameSent s = .next
           { sent with
             uplink := { sent.uplink with egress := rest ++
               [{ kind := .answer, body := a.body, unitMac := s.settings.addressing.unitMac,
                  gatewayMac := s.settings.addressing.gatewayMac,
                  etherType := s.settings.addressing.etherType, restart := a.restart }] },
             settings := { s.settings with
               addressing := a.addressing.getD s.settings.addressing },
             ctl := { s.ctl with
               command := if a.restart then .carryingOut a.head .restart else .available } }))

/-- The arbiter grants the first waiting requester after the one it granted last, in the cyclic order;
it grants none only when none waits. The engine waits while it applies an item, the sweeper while a sweep is
in progress, the scanner while it asks for a read, the control unit while an INSPECT has slots left (log 6 for
the first and the last). An item granted before its lane left STAGING is finished before any
other operation (R58, R63). -/
def Obligations.ArbiterGrantsInCyclicOrder : Prop :=
  (∀ (s : State) (seg : Segment) (pos : Nat), s.store.engine = .finishing seg pos →
    s.nextGrant = some .apply)
  ∧ (∀ s : State, (∀ seg pos, s.store.engine ≠ .finishing seg pos) →
    (∀ r, s.nextGrant = some r ↔
      s.waits r = true ∧
        ∀ q ∈ s.store.lastGranted.after.takeWhile (fun q => decide (q ≠ r)), s.waits q = false)
    ∧ (s.nextGrant = none ↔ ∀ r, s.waits r = false))
  ∧ (∀ s : State,
    (s.waits .apply = true ↔ ∃ seg pos retry, s.store.engine = .applying seg pos retry)
    ∧ (s.waits .sweeper = true ↔ ∃ w, s.sweeper.sweep = some w)
    ∧ (s.waits .scanner = true ↔ ∃ k, s.scan.read = some k)
    ∧ (s.waits .control = true ↔
      ∃ h left done, s.ctl.command = .carryingOut h (.inspect left done) ∧ 0 < left))
  ∧ Requester.after .control = [.apply, .sweeper, .scanner, .control]
  ∧ Requester.after .apply = [.sweeper, .scanner, .control, .apply]
  ∧ Requester.after .sweeper = [.scanner, .control, .apply, .sweeper]
  ∧ Requester.after .scanner = [.control, .apply, .sweeper, .scanner]

/-- A STANDING takes 2,318 bytes and an ALERT 19, in every state. A STANDING holds the fields of section
11.3 in their order, its lane records 398 bytes each (`isStanding`, `isSent` in Safety). The lane and cursor
of an absent sweep are a free value (log 40). The model's choice are the bytes 0 of a pending command with no
stream (log 43); that in PLACING it shows the command whose ANSWER waits (log 32); and that an item being
finished shows the engine APPLYING (log 39). While an INSPECT is in flight it shows the inspect pointer
(R176), for which the model takes the stream ids of no pending command (log 42). An outbound frame is laid
out as section 11.1 says; and both check sequences give the check values of R1 and R121 over the bytes 31h to
39h. -/
def Obligations.ReportLengthsAndCheckValues : Prop :=
  (∀ (s : State) (f : EventFlag) (c : AlertContext),
     s.standing.length = 2318 ∧ (s.alertBody f c).length = 19
     ∧ ∃ unusedB unusedP noSweep laneB laneP,
       (∀ h left done, s.ctl.command = .carryingOut h (.inspect left done) →
         unusedB = be 2 (laneCode s.ctl.inspectLane) ∧ unusedP = be 2 s.ctl.inspectSlot)
       ∧ ((∀ h left done, s.ctl.command ≠ .carryingOut h (.inspect left done)) →
         unusedB = [0, 0] ∧ unusedP = [0, 0])
       ∧ (s.lane .b).isSent unusedB laneB ∧ (s.lane .p).isSent unusedP laneP
       ∧ laneB.length = 398 ∧ laneP.length = 398 ∧ noSweep.length = 3
       ∧ s.isStanding laneB laneP noSweep s.standing)
  ∧ (∀ m : OutboundMessage,
     let payload : List Byte :=
       be 1 (match m.kind with | .answer => 5 | .standing => 6 | .alert => 7)
         ++ be 2 m.body.length ++ m.body
     let front : List Byte :=
       be 6 m.gatewayMac.toNat ++ be 6 m.unitMac.toNat ++ be 2 m.etherType.toNat ++ payload
         ++ List.replicate (46 - payload.length) 0
     outboundFrame m = front ++ (be 4 (fcs front).toNat).reverse)
  ∧ (let digits : List Byte := [0x31, 0x32, 0x33, 0x34, 0x35, 0x36, 0x37, 0x38, 0x39]
   fcs digits = 3421780262#32 ∧ crc digits = 10673#16)

/-! ### Resets and the settings memory -/

/-- COLD_RESET leaves every block at its cold values, with RESTARTED risen and round 0 begun (log 13 for a
part that was running; logs 22 and 34 for where round 0 stands). The place its record was loaded from is the
one last loaded. -/
def Obligations.ColdResetValues : Prop :=
  ∀ (straps : Byte) (s : State), ∃ t, exec (.coldReset straps) s = .next t
    ∧ t.pending = s.pending ∧ t.power = .running ∧ t.straps = straps
    ∧ t.settings = t.settingsMemory.load straps
    ∧ t.settingsMemory.lastPlace = t.settingsMemory.newest
    ∧ (s.power = .heldInReset → t.settingsMemory.place1 = s.settingsMemory.place1
        ∧ t.settingsMemory.place2 = s.settingsMemory.place2)
    ∧ (∀ l, t.lane l =
        { state := .idle, active := 0, activeDigest := Digest.zero, history := [], floor := 0,
          staged := none, stagedDigest := Digest.zero, segmentMap := [], undoDeferred := false,
          pendingCommand := none, viewNewest := 0, viewOldest := 0, hold := false,
          lastReason := .noReason, lateness := 0, repeats := 0, duplicates := 0,
          absentDrops := 0, discards := 0 })
    ∧ t.store =
        { regions := { b := [], p := [] },
          free := { b := regionSize t.settings.split .b, p := regionSize t.settings.split .p },
          lastGranted := .control, engine := .empty }
    ∧ t.sweeper = { requests := [], sweep := none }
    ∧ t.clock = { value := 0, state := .unset, debt := 0, timer := 0, rejected := 0 }
    ∧ t.bus.link = .idle ∧ t.bus.damaged = 0 ∧ t.bus.wrong = 0 ∧ t.bus.stray = 0
    ∧ t.bus.strayRun = false
    ∧ (∀ pos, t.validator pos = Validator.anew t.settings.roster[pos])
    ∧ t.scan.broadcast = [] ∧ t.scan.roundNo = 0 ∧ t.scan.tally = [] ∧ t.scan.walk = none
    ∧ t.scan.read = none ∧ t.scan.build = none
    ∧ t.scan.nextPos = 0 ∧ t.scan.exchanged = false ∧ t.scan.reported = false
    ∧ t.scan.phase = (if ∃ pos : Fin 16, t.settings.roster[pos] ≠ none then .visiting
        else .paused (250 * 2 ^ t.settings.quiet.val))
    ∧ t.uplink.counters =
        { framesTaken := 0, checkFailures := 0, foreignFrames := 0, ingressDrops := 0,
          controlDrops := 0, malformed := 0, passedOver := 0, alertsDropped := 0 }
    ∧ t.uplink.ingress = [] ∧ t.uplink.control = []
    ∧ t.uplink.checkedHead = none
    ∧ t.ctl.command = .available ∧ t.ctl.flags = 0x8000#16 ∧ t.ctl.cause = .cold
    ∧ t.ctl.reportTimer = 0 ∧ t.ctl.inspectLane = .b ∧ t.ctl.inspectSlot = 0
    ∧ (t.settings.enables.getLsbD 15 = false → t.uplink.egress = [] ∧ t.ctl.alertNo = 0)
    ∧ (t.settings.enables.getLsbD 15 = true → t.ctl.alertNo = 1
        ∧ t.uplink.egress.map OutboundMessage.body =
          [be 1 t.settings.addressing.unitId.toNat ++ be 2 1 ++ be 1 15 ++ be 1 0 ++ be 1 0
            ++ be 3 0 ++ be 1 1 ++ be 2 0 ++ be 2 0x8000 ++ be 4 0 ++ be 1 0])

/-- The record a cold reset loads, and its place: the later save number, 1 later than 65,535; the one
valid place; or the defaults, from no place. -/
def Obligations.ColdResetLoadsLatestRecord : Prop :=
  ∀ (m : SettingsMemory) (straps : Byte),
    let first (a : SavedRecord) : Prop :=
      m.load straps = a.settings ∧ m.newest = some .first
    let second (b : SavedRecord) : Prop :=
      m.load straps = b.settings ∧ m.newest = some .second
    (∀ a, m.place1 = some a → m.place2 = none → first a)
    ∧ (∀ b, m.place1 = none → m.place2 = some b → second b)
    ∧ (∀ a b, m.place1 = some a → m.place2 = some b → a.number = 1 → b.number = 65535 → first a)
    ∧ (∀ a b, m.place1 = some a → m.place2 = some b → a.number = 65535 → b.number = 1 → second b)
    ∧ (∀ a b, m.place1 = some a → m.place2 = some b → b.number < a.number →
        ¬(a.number = 65535 ∧ b.number = 1) → first a)
    ∧ (∀ a b, m.place1 = some a → m.place2 = some b → a.number < b.number →
        ¬(a.number = 1 ∧ b.number = 65535) → second b)
    ∧ (m.place1 = none → m.place2 = none →
        m.newest = none
        ∧ (m.load straps).addressing =
          { unitId := straps, unitMac := 0x0200000000#40 ++ straps,
            groupMac := 0xFFFFFFFFFFFF#48, gatewayMac := 0xFFFFFFFFFFFF#48,
            etherType := 0x88B5#16 }
        ∧ (m.load straps).split = 1 ∧ (m.load straps).subs = { b := 0, p := 0 }
        ∧ (m.load straps).classes[0] =
          { capacity := 8192, takesProducts := true, productCapacity := 1024, batchSize := 16 }
        ∧ (∀ c : Fin 8, c ≠ 0 → (m.load straps).classes[c] =
          { capacity := 0, takesProducts := false, productCapacity := 0, batchSize := 16 })
        ∧ (∀ pos : Fin 16, (m.load straps).roster[pos] = some 0)
        ∧ (m.load straps).quiet = 2 ∧ (m.load straps).period = 0 ∧ (m.load straps).enables = 0)

/-- RESET_ASSERTED ends every operation in hand (log 13): in the three queues with the check of the head, the
engine, the sweeper, the link with a run of stray traffic, the broadcast list, the BATCH being built, the
tally walk, the scanner's read, and the command in flight. A SAVE being written completes or leaves its
place invalid, and the other place stands. -/
def Obligations.ResetAssertedEndsEveryOperation : Prop :=
  ∀ s : State, s.power = .running → ∃ t, exec .resetAsserted s = .next t
    ∧ t.power = .heldInReset ∧ t.settings = s.settings
    ∧ t.uplink.ingress = [] ∧ t.uplink.checkedHead = none ∧ t.uplink.control = []
    ∧ t.uplink.egress = []
    ∧ t.store = { s.store with engine := .empty, lastGranted := .control }
    ∧ t.sweeper = { requests := [], sweep := none }
    ∧ t.bus = { s.bus with link := .idle, strayRun := false }
    ∧ t.scan = { s.scan with broadcast := [], build := none, read := none, walk := none }
    ∧ t.ctl = { s.ctl with command := .available }
    ∧ (∀ place saved, s.savingTo place saved →
        (t.settingsMemory = s.settingsMemory.write place (some saved)
          ∨ t.settingsMemory = s.settingsMemory.write place none))
    ∧ ((∀ place saved, ¬ s.savingTo place saved) → t.settingsMemory = s.settingsMemory)

/-- The warm reset, at the sending of RESTART's ANSWER: what it keeps and what it sets. An item in progress
is finished first, unreported (R58, R63; log 39 for one next to be granted). That the link is in the
post-reset gap whatever the line was doing is log 23, and that the frame last sent is kept is log 29. -/
def Obligations.WarmResetValues : Prop :=
  ∀ (s : State) (m : OutboundMessage) (rest : List OutboundMessage),
    s.power = .running → s.uplink.egress = m :: rest → m.restart = true →
    ∃ t, exec .egressFrameSent s = .next t
    ∧ t.settings = s.settings ∧ t.settingsMemory = s.settingsMemory
    ∧ t.uplink.lastFrame = outboundFrame m ∧ t.uplink.ingress = [] ∧ t.uplink.control = []
    ∧ t.uplink.counters = UplinkCounters.zero
    ∧ (∀ l, (s.lane l).state = .idle → t.lane l =
        { s.lane l with
          repeats := 0, duplicates := 0, absentDrops := 0, discards := 0, undoDeferred := false,
          pendingCommand := none })
    ∧ (∀ l, (s.lane l).state ≠ .idle → t.lane l =
        { s.lane l with
          repeats := 0, duplicates := 0, absentDrops := 0, discards := 0, undoDeferred := false,
          pendingCommand := none, state := .discarding, lastReason := .aborted })
    ∧ (let kept : Store := { s.store with engine := .empty, lastGranted := .control }
      let carried (seg : Segment) (pos : Nat) : Prop :=
        (∀ region change, s.itemOutcome seg pos = some (.applied region change) →
          t.store = { kept with
            regions := s.store.regions.set seg.lane region,
            free := s.store.free.set seg.lane
              (s.store.free.get seg.lane + (s.region seg.lane).length - region.length) })
        ∧ ((∀ region change, s.itemOutcome seg pos ≠ some (.applied region change)) →
          t.store = kept)
      (∀ seg pos, s.store.engine = .finishing seg pos → carried seg pos)
      ∧ (∀ seg pos retry, s.store.engine = .applying seg pos retry →
        (s.nextGrant = some .apply → Config.itemGrantedFirst s.choices = true → carried seg pos)
        ∧ ((s.nextGrant ≠ some .apply ∨ Config.itemGrantedFirst s.choices = false) →
          t.store = kept))
      ∧ ((s.store.engine = .empty ∨ ∃ seg pos, s.store.engine = .waiting seg pos) →
        t.store = kept))
    ∧ ((s.lane .b).state = .idle → (s.lane .p).state = .idle →
        t.sweeper = { requests := [], sweep := none })
    ∧ (∀ l, (s.lane l).state ≠ .idle → (s.lane l.other).state = .idle →
        t.sweeper =
          { requests := [],
            sweep := some
              { request := { lane := l, kind := .undo (s.lane l).stagedGen, waiter := false },
                cursor := 0 } })
    ∧ ((s.lane .b).state ≠ .idle → (s.lane .p).state ≠ .idle →
        t.sweeper =
          { requests :=
              [{ lane := .p, kind := .undo (s.lane .p).stagedGen, waiter := false }],
            sweep := some
              { request := { lane := .b, kind := .undo (s.lane .b).stagedGen, waiter := false },
                cursor := 0 } })
    ∧ t.clock = { s.clock with rejected := 0 }
    ∧ t.bus.link = .postReset ∧ t.bus.damaged = 0 ∧ t.bus.wrong = 0 ∧ t.bus.stray = 0
    ∧ (∀ pos, t.validator pos = Validator.anew s.settings.roster[pos])
    ∧ t.scan.broadcast = [] ∧ t.scan.roundNo = 0 ∧ t.scan.tally = [] ∧ t.scan.walk = none
    ∧ t.scan.read = none ∧ t.scan.build = none ∧ t.scan.phase = .awaitReset
    ∧ t.ctl.command = .available ∧ t.ctl.flags = 0x8000#16 ∧ t.ctl.cause = .warm
    ∧ t.ctl.reportTimer = 0 ∧ t.ctl.inspectLane = .b ∧ t.ctl.inspectSlot = 0
    ∧ (s.settings.enables.getLsbD 15 = false → t.uplink.egress = [] ∧ t.ctl.alertNo = 0)
    ∧ (s.settings.enables.getLsbD 15 = true → t.ctl.alertNo = 1
        ∧ t.uplink.egress.map OutboundMessage.body =
          [be 1 s.settings.addressing.unitId.toNat ++ be 2 1 ++ be 1 15 ++ be 1 0 ++ be 1 0
            ++ be 3 0 ++ be 1 2 ++ be 2 0 ++ be 2 0x8000 ++ be 4 s.clock.value
            ++ be 1 (match s.clock.state with | .unset => 0 | .locked => 1 | .holdover => 2)])

/-- The frame of every command: each part of the state with the commands that may change it; no other
command does. Only a SAVE's completion and the resets write the settings memory, and with no SAVE in flight
no command changes a record place. What RESET_ASSERTED leaves standing is the model's choice (log 13), and
the frames last sent are kept beyond the spec's own state (log 29). -/
def Obligations.CommandsTouchOnlyTheirBlocks : Prop :=
  ∀ (c : Instr) (s t : State), exec c s = .next t →
    ((∀ place saved, ¬ s.savingTo place saved) →
      t.settingsMemory.place1 = s.settingsMemory.place1
        ∧ t.settingsMemory.place2 = s.settingsMemory.place2)
    ∧ (match c with
      | .coldReset _ | .resetAsserted | .saveWriteComplete => True
      | _ => t.settingsMemory = s.settingsMemory)
    ∧ (match c with
      | .coldReset _ | .resetAsserted => True
      | _ => t.power = s.power ∧ t.straps = s.straps)
    ∧ (match c with
      | .coldReset _ | .setSplit | .setClass | .setPosition | .setTiming | .setAddressing
      | .events | .clearSlot | .egressFrameSent => True
      | _ => t.settings = s.settings)
    ∧ (match c with
      | .coldReset _ | .beacon | .localSecond | .holdoverEntry | .egressFrameSent => True
      | _ => t.clock = s.clock)
    ∧ (match c with
      | .coldReset _ | .egressFrameSent | .applyItem | .retireSlot | .undoSlot | .reclaimSlot
      | .clearSlot | .setSplit => True
      | _ => t.store.regions = s.store.regions ∧ t.store.free = s.store.free)
    ∧ (match c with
      | .coldReset _ | .resetAsserted | .egressFrameSent | .segmentMatch | .applyItem
      | .reclaimSlot | .notice | .rollback | .clear | .subscribe => True
      | _ => t.store.engine = s.store.engine)
    ∧ (match c with
      | .coldReset _ | .resetAsserted | .egressFrameSent | .beacon | .notice | .applyItem
      | .retireSlot | .undoSlot | .reclaimSlot | .clearSlot | .localSecond | .holdoverEntry
      | .release | .rollback | .clear | .subscribe => True
      | _ => t.sweeper = s.sweeper)
    ∧ (match c with
      | .coldReset _ | .egressFrameSent | .beacon | .notice | .segmentMatch | .applyItem
      | .retireSlot | .undoSlot | .clearSlot | .localSecond | .holdoverEntry | .hold | .release
      | .rollback | .clear | .subscribe => True
      | _ => t.lanes = s.lanes)
    ∧ (match c with
      | .coldReset _ | .resetAsserted | .egressFrameSent | .frameArrival _ | .beacon | .notice
      | .segmentCheck | .segmentMatch => True
      | _ => t.uplink.ingress = s.uplink.ingress ∧ t.uplink.checkedHead = s.uplink.checkedHead)
    ∧ (match c with
      | .coldReset _ | .resetAsserted | .egressFrameSent | .frameArrival _ | .status
      | .setSplit | .subscribe | .setClass | .setPosition | .setTiming | .setAddressing
      | .events | .acknowledge | .hold | .release | .rollback | .clear | .inspect
      | .inspectNext | .save | .restart => True
      | _ => t.uplink.control = s.uplink.control)
    ∧ (match c with
      | .coldReset _ | .egressFrameSent | .lineIdleGap | .turnaroundGapEnd => True
      | _ => t.bus.damaged = s.bus.damaged ∧ t.bus.wrong = s.bus.wrong ∧ t.bus.stray = s.bus.stray)
    ∧ (match c with
      | .coldReset _ | .egressFrameSent | .beacon | .notice | .applyItem | .undoSlot
      | .localSecond | .holdoverEntry | .scannerVisit | .batchSlotRead | .turnaroundGapEnd
      | .postBroadcastGapEnd | .setClass | .setPosition | .release | .rollback | .clear
      | .subscribe => True
      | _ => t.scan.records = s.scan.records)
    ∧ (match c with
      | .coldReset _ | .egressFrameSent | .frameArrival _ | .beacon | .notice | .applyItem
      | .undoSlot | .localSecond | .holdoverEntry | .scannerVisit | .turnaroundGapEnd
      | .acknowledge | .release | .rollback | .clear | .subscribe => True
      | _ => t.ctl.flags = s.ctl.flags ∧ t.ctl.alertNo = s.ctl.alertNo)
    ∧ (match c with
      | .coldReset _ | .resetAsserted | .egressFrameSent | .status | .setSplit | .subscribe
      | .setClass | .setPosition | .setTiming | .setAddressing | .events | .acknowledge | .hold
      | .release | .rollback | .clear | .inspect | .inspectNext | .save | .restart | .undoSlot
      | .clearSlot | .inspectSlotRead | .saveWriteComplete => True
      | _ => t.ctl.command = s.ctl.command)
    ∧ (match c with
      | .coldReset _ | .resetAsserted | .egressFrameSent | .frameArrival _ | .beacon | .notice
      | .applyItem | .undoSlot | .localSecond | .holdoverEntry | .clearSlot | .scannerVisit
      | .turnaroundGapEnd | .inspectSlotRead | .saveWriteComplete | .periodicStanding | .status
      | .setSplit | .subscribe | .setClass | .setPosition | .setTiming | .setAddressing | .events
      | .acknowledge | .hold | .release | .rollback | .clear | .inspect | .inspectNext | .save
      | .restart => True
      | _ => t.uplink.egress = s.uplink.egress)
    ∧ (match c with
      | .coldReset _ | .egressFrameSent | .frameArrival _ | .beacon | .notice | .segmentCheck
      | .segmentMatch | .applyItem | .undoSlot | .localSecond | .holdoverEntry | .scannerVisit
      | .turnaroundGapEnd | .release | .rollback | .clear | .subscribe => True
      | _ => t.uplink.counters = s.uplink.counters)
    ∧ (match c with
      | .egressFrameSent => True
      | _ => t.uplink.lastFrame = s.uplink.lastFrame)
    ∧ (match c with
      | .coldReset _ | .resetAsserted | .egressFrameSent | .beacon | .notice | .applyItem
      | .undoSlot | .localSecond | .holdoverEntry | .scannerVisit | .batchSlotRead
      | .broadcastSwitch | .busFrameSent | .replyStart | .replyReceived _ | .replyWindowEnd
      | .lineIdleGap | .turnaroundGapEnd | .postBroadcastGapEnd | .postResetGapEnd | .setClass
      | .setPosition | .release | .rollback | .clear | .subscribe => True
      | _ => t.bus.link = s.bus.link)
    ∧ (match c with
      | .coldReset _ | .resetAsserted | .egressFrameSent | .replyStart | .replyReceived _
      | .lineIdleGap => True
      | _ => t.bus.strayRun = s.bus.strayRun)
    ∧ (match c with
      | .scannerVisit | .batchSlotRead | .broadcastSwitch => True
      | _ => t.bus.line = s.bus.line)
    ∧ (match c with
      | .coldReset _ | .egressFrameSent | .beacon | .notice | .applyItem | .undoSlot
      | .localSecond | .holdoverEntry | .scannerVisit | .batchSlotRead | .broadcastSwitch
      | .turnaroundGapEnd | .postBroadcastGapEnd | .postResetGapEnd | .quietIntervalEnd
      | .setClass | .setPosition | .release | .rollback | .clear | .subscribe => True
      | _ => t.scan.phase = s.scan.phase ∧ t.scan.roundNo = s.scan.roundNo
        ∧ t.scan.nextPos = s.scan.nextPos ∧ t.scan.exchanged = s.scan.exchanged
        ∧ t.scan.reported = s.scan.reported)
    ∧ (match c with
      | .coldReset _ | .resetAsserted | .egressFrameSent | .beacon | .applyItem | .undoSlot
      | .localSecond | .holdoverEntry | .postBroadcastGapEnd | .release | .rollback | .clear
      | .subscribe => True
      | _ => t.scan.broadcast = s.scan.broadcast)
    ∧ (match c with
      | .coldReset _ | .egressFrameSent | .notice | .applyItem | .tallySlotRead | .rollback
      | .clear | .subscribe => True
      | _ => t.scan.tally = s.scan.tally)
    ∧ (match c with
      | .coldReset _ | .resetAsserted | .egressFrameSent | .beacon | .notice | .applyItem
      | .undoSlot | .localSecond | .holdoverEntry | .scannerVisit | .tallySlotRead
      | .batchSlotRead | .turnaroundGapEnd | .setClass | .setPosition | .release | .rollback
      | .clear | .subscribe => True
      | _ => t.scan.build = s.scan.build ∧ t.scan.read = s.scan.read ∧ t.scan.walk = s.scan.walk)
    ∧ (match c with
      | .coldReset _ | .egressFrameSent | .localSecond | .holdoverEntry | .periodicStanding
      | .setTiming => True
      | _ => t.ctl.reportTimer = s.ctl.reportTimer)
    ∧ (match c with
      | .coldReset _ | .egressFrameSent | .setSplit | .inspect | .inspectSlotRead => True
      | _ => t.ctl.inspectLane = s.ctl.inspectLane ∧ t.ctl.inspectSlot = s.ctl.inspectSlot)
    ∧ (match c with
      | .coldReset _ | .egressFrameSent => True
      | _ => t.ctl.cause = s.ctl.cause)
    ∧ (match c with
      | .coldReset _ | .resetAsserted | .egressFrameSent | .applyItem | .retireSlot | .undoSlot
      | .reclaimSlot | .clearSlot | .tallySlotRead | .batchSlotRead | .notice | .rollback | .clear
      | .subscribe | .inspectSlotRead => True
      | _ => t.store.lastGranted = s.store.lastGranted)

/-! ### The uplink port -/

/-- A frame that fails a test of the port changes one counter and nothing else: the frame check, the
addresses and the EtherType, the envelope, and for another unit's messages and CONTROLs their kind and
identifier. -/
def Obligations.RefusedFrameIsCountedOnce : Prop :=
  ∀ (frame : List Byte) (s : State), s.power = .running →
    let a := s.settings.addressing
    let payload := (frame.drop 14).take (frame.length - 18)
    let kind := field payload 0 1
    let n := field payload 1 2
    let checked : Prop := 64 ≤ frame.length
      ∧ frame.drop (frame.length - 4) = fcsBytes (frame.take (frame.length - 4))
    let ours : Prop :=
      (field frame 0 6 = a.unitMac.toNat ∨ field frame 0 6 = a.groupMac.toNat)
      ∧ field frame 12 2 = a.etherType.toNat
    let sound : Prop := 1 ≤ kind ∧ kind ≤ 7
      ∧ (payload.length = 3 + n ∨ (3 + n < 46 ∧ payload.length = 46)) ∧ (kind = 4 → 3 ≤ n)
    let c := s.uplink.counters
    let counted (c : UplinkCounters) : State := { s with uplink := { s.uplink with counters := c } }
    let foreign : State := counted { c with foreignFrames := min (c.foreignFrames + 1) 65535 }
    (¬ checked → exec (.frameArrival frame) s =
      .next (counted { c with checkFailures := min (c.checkFailures + 1) 65535 }))
    ∧ (checked → ¬ ours → exec (.frameArrival frame) s = .next foreign)
    ∧ (checked → ours → ¬ sound → exec (.frameArrival frame) s =
      .next (counted { c with malformed := min (c.malformed + 1) 65535 }))
    ∧ (checked → ours → sound →
      (5 ≤ kind ∨ (kind = 4 ∧ field payload 3 1 ≠ a.unitId.toNat)) →
      exec (.frameArrival frame) s = .next foreign)

/-- A NOTICE, SEGMENT or BEACON joins the ingress queue, or is dropped at 16 with INGRESS_OVERFLOW; a
CONTROL for this unit joins the control queue, or is dropped at 4 with no flag and no ANSWER. -/
def Obligations.AcceptedFrameQueuedOrDropped : Prop :=
  ∀ (frame body padding : List Byte) (kind : Nat) (s : State), s.power = .running →
    let a := s.settings.addressing
    64 ≤ frame.length →
    frame.drop (frame.length - 4) = fcsBytes (frame.take (frame.length - 4)) →
    (field frame 0 6 = a.unitMac.toNat ∨ field frame 0 6 = a.groupMac.toNat) →
    field frame 12 2 = a.etherType.toNat →
    (frame.drop 14).take (frame.length - 18) = be 1 kind ++ be 2 body.length ++ body ++ padding →
    body.length < 65536 →
    (padding = [] ∨ (3 + body.length < 46 ∧ 3 + body.length + padding.length = 46)) →
    (∀ k, ((kind = 1 ∧ k = .notice) ∨ (kind = 2 ∧ k = .segment) ∨ (kind = 3 ∧ k = .beacon)) →
      (s.uplink.ingress.length < 16 →
        exec (.frameArrival frame) s = .next
          { s with uplink := { s.uplink with
              ingress := s.uplink.ingress ++ [{ kind := k, body := body }],
              counters := { s.uplink.counters with
                framesTaken := min (s.uplink.counters.framesTaken + 1) 65535 } } })
      ∧ (16 ≤ s.uplink.ingress.length →
        exec (.frameArrival frame) s = .next
          (({ s with uplink := { s.uplink with
              counters := { s.uplink.counters with
                ingressDrops := min (s.uplink.counters.ingressDrops + 1) 65535 } } } : State).rise
            .ingressOverflow {})))
    ∧ (∀ m : ControlMessage, kind = 4 → body = [m.unitId, m.tag, m.code] ++ m.args →
      m.unitId = a.unitId →
      (s.uplink.control.length < 4 →
        exec (.frameArrival frame) s = .next
          { s with uplink := { s.uplink with
              control := s.uplink.control ++ [m],
              counters := { s.uplink.counters with
                framesTaken := min (s.uplink.counters.framesTaken + 1) 65535 } } })
      ∧ (4 ≤ s.uplink.control.length →
        exec (.frameArrival frame) s = .next
          { s with uplink := { s.uplink with
              counters := { s.uplink.counters with
                controlDrops := min (s.uplink.counters.controlDrops + 1) 65535 } } }))

/-! ### The head of the ingress queue -/

/-- A BEACON sets, steps or holds the clock, and the accepted beacon is reported to both lanes. -/
def Obligations.AcceptedBeaconSetsTheClock : Prop :=
  ∀ (s : State) (body : List Byte), s.power = .running → s.headOf .beacon = some body →
    (body.length ≠ 4 → exec .beacon s = .next (s.popIngress.countUplink .bad))
    ∧ (body.length = 4 →
      (s.clock.state = .unset ∨ s.clock.value ≤ beNat body →
        exec .beacon s = .next
          (({ s.popIngress with clock := { s.clock with
              value := beNat body, debt := 0, timer := 0, state := .locked } } : State
            ).reportClock))
      ∧ (s.clock.state ≠ .unset → beNat body < s.clock.value → s.clock.value - beNat body ≤ 600 →
        exec .beacon s = .next
          (({ s.popIngress with clock := { s.clock with
              debt := s.clock.value - beNat body, timer := 0, state := .locked } } : State
            ).reportClock)))

/-- A BEACON more than 600 seconds behind a set clock is counted and changes nothing else (R111). -/
def Obligations.FarBeaconIsRejected : Prop :=
  ∀ (s : State) (body : List Byte), s.power = .running → s.headOf .beacon = some body →
    body.length = 4 → s.clock.state ≠ .unset → beNat body + 600 < s.clock.value →
    exec .beacon s = .next
      { s with
        uplink := { s.uplink with ingress := s.uplink.ingress.tail, checkedHead := none },
        clock := { s.clock with rejected := min (s.clock.rejected + 1) 65535 } }

/-- NOTICE and SEGMENT_CHECK drop a body too short for a stream id, pass over a stream no lane follows,
and drop a malformed message, each with one counter. Stream 0 matches no lane; another matches the lane whose
subscription it is. A NOTICE is malformed by the tests of R10, a SEGMENT by
those of R12 and R195; any other goes to its lane, or waits at the head with the items it carries. -/
def Obligations.HeadIsFilteredAndChecked : Prop :=
  (∀ st : Settings, st.laneOfStream 0 = none
    ∧ ∀ stream, stream ≠ 0 →
      ((∀ l, st.subs.get l ≠ stream) → st.laneOfStream stream = none)
      ∧ ∀ l, st.subs.get l = stream → st.subs.get l.other ≠ stream → st.laneOfStream stream = some l)
  ∧ (∀ s : State,
    let u := s.uplink
    let c := u.counters
    let left (c : UplinkCounters) : State := { s with
      uplink := { u with ingress := u.ingress.tail, checkedHead := none, counters := c } }
    (∀ k body, s.headOf k = some body ↔ u.ingress.head? = some { kind := k, body := body })
    ∧ s.popIngress = left c
    ∧ s.popIngress.countUplink .bad = left { c with malformed := min (c.malformed + 1) 65535 }
    ∧ s.popIngress.countUplink .passed = left { c with passedOver := min (c.passedOver + 1) 65535 })
  ∧ ∀ (s : State) (body : List Byte), s.power = .running → s.uplink.checkedHead = none →
    (s.headOf .notice = some body →
      (body.length < 2 → exec .notice s = .next (s.popIngress.countUplink .bad))
      ∧ (2 ≤ body.length → s.settings.laneOfStream (field body 0 2) = none →
        exec .notice s = .next (s.popIngress.countUplink .passed))
      ∧ (∀ l, 2 ≤ body.length → s.settings.laneOfStream (field body 0 2) = some l →
        let x : Notice :=
          { stream := field body 0 2, kind := l, g := field body 3 3, b := field body 6 3,
            n := field body 9 2, count := field body 11 2, sum := BitVec.ofNat 32 (field body 13 4),
            e := field body 17 4, newest := field body 21 3, oldest := field body 24 3 }
        let malformed : Prop :=
          body.length ≠ 27 ∨ field body 2 1 ≠ laneCode l ∨ x.g = 0 ∨ x.n < 1 ∨ 1024 < x.n
          ∨ (x.b ≠ 0 ∧ x.b + 1 ≠ x.g) ∨ (l = .p ∧ x.b ≠ 0) ∨ x.newest < x.g
          ∨ (x.oldest ≠ 0 ∧ x.newest ≤ x.oldest) ∨ s.size l < x.count
        (malformed → exec .notice s = .next (s.popIngress.countUplink .bad))
        ∧ (¬ malformed → s.noticeAtHead l x)))
    ∧ (s.headOf .segment = some body →
      (body.length < 2 → exec .segmentCheck s = .next (s.popIngress.countUplink .bad))
      ∧ (2 ≤ body.length → s.settings.laneOfStream (field body 0 2) = none →
        exec .segmentCheck s = .next (s.popIngress.countUplink .passed))
      ∧ (∀ l, 2 ≤ body.length → s.settings.laneOfStream (field body 0 2) = some l →
        let g := field body 2 3
        let b := field body 5 3
        let index := field body 8 2
        let headed : Prop :=
          11 ≤ body.length ∧ g ≠ 0 ∧ (b = 0 ∨ b + 1 = g) ∧ index ≤ 1023
        let sent (items : SegmentItems) : Prop :=
          items.areSent l (field body 10 1) (body.drop 11)
        (∀ items, headed → sent items →
          exec .segmentCheck s = .next
            { s with uplink := { s.uplink with
                checkedHead := some
                  { stream := field body 0 2, g := g, b := b, index := index, items := items } } })
        ∧ (¬(headed ∧ ∃ items, sent items) →
          exec .segmentCheck s = .next (s.popIngress.countUplink .bad))))

/-- What an IDLE lane does with a NOTICE: a usable delta of ACTIVE starts a delta staging; a usable image that
passes the image test makes it RETIRING and requests a RETIRE, lane P whatever the oldest base; any other
leaves it IDLE with its view refreshed. When a round begins at the report to the scanner is the model's
reading in part (log 22). -/
def Obligations.IdleLaneJudgesNotices : Prop :=
  (∀ (s : State) (l : Lane) (x : Notice), s.noticeAtHead l x → (s.lane l).state = .idle →
     max (s.lane l).active (s.lane l).floor < x.g →
     x.b ≠ 0 → x.b = (s.lane l).active → (s.lane l).active ≠ 0 →
     x.oldest ≠ 0 → x.oldest ≤ (s.lane l).active →
     ∃ t, exec .notice s = .next t
     ∧ t.lane l = { s.lane l with
         viewNewest := x.newest, viewOldest := x.oldest,
         staged := some
           { g := x.g, b := x.b, n := x.n, count := x.count, sum := x.sum, e := x.e },
         stagedDigest := (s.lane l).activeDigest, segmentMap := [], state := .staging }
     ∧ t.lane l.other = s.lane l.other ∧ t.store = s.store ∧ t.sweeper = s.sweeper
     ∧ t.clock = s.clock ∧ t.settings = s.settings ∧ t.bus = s.bus ∧ t.ctl = s.ctl
     ∧ t.uplink = { s.uplink with ingress := s.uplink.ingress.tail, checkedHead := none }
     ∧ t.scan.records = s.scan.records ∧ t.scan.tally = s.scan.tally
     ∧ t.scan.broadcast = s.scan.broadcast ∧ t.scan.build = s.scan.build
     ∧ s.keepsWalk t ∧ s.hearsReport t)
  ∧ (∀ (s : State) (l : Lane) (x : Notice), s.noticeAtHead l x → (s.lane l).state = .idle →
     max (s.lane l).active (s.lane l).floor < x.g → x.b = 0 → x.g = x.newest →
     (l = .p ∨ (s.lane l).active = 0 ∨ x.oldest = 0 ∨ (s.lane l).active < x.oldest) →
     ∃ t, exec .notice s = .next t
     ∧ t.lane l = { s.lane l with
         viewNewest := x.newest, viewOldest := x.oldest,
         staged := some
           { g := x.g, b := x.b, n := x.n, count := x.count, sum := x.sum, e := x.e },
         segmentMap := [], state := .retiring }
     ∧ t.lane l.other = s.lane l.other ∧ t.store = s.store
     ∧ t.sweeper = (s.requestSweep l (.retire x.g) false).sweeper
     ∧ t.clock = s.clock ∧ t.settings = s.settings ∧ t.bus = s.bus ∧ t.ctl = s.ctl
     ∧ t.uplink = { s.uplink with ingress := s.uplink.ingress.tail, checkedHead := none }
     ∧ t.scan.records = s.scan.records ∧ t.scan.tally = s.scan.tally
     ∧ t.scan.broadcast = s.scan.broadcast ∧ t.scan.build = s.scan.build
     ∧ s.keepsWalk t ∧ s.hearsReport t)
  ∧ (∀ (s : State) (l : Lane) (x : Notice), s.noticeAtHead l x → (s.lane l).state = .idle →
     let viewed : State := s.popIngress.setLane l
       { s.lane l with viewNewest := x.newest, viewOldest := x.oldest }
     (x.g ≤ max (s.lane l).active (s.lane l).floor →
       exec .notice s = .next (viewed.countUplink .passed))
     ∧ (max (s.lane l).active (s.lane l).floor < x.g →
       ¬(x.b ≠ 0 ∧ x.b = (s.lane l).active ∧ (s.lane l).active ≠ 0 ∧ x.oldest ≠ 0
           ∧ x.oldest ≤ (s.lane l).active) →
       ¬(x.b = 0 ∧ x.g = x.newest ∧ (l = .p ∨ (s.lane l).active = 0 ∨ x.oldest = 0
           ∨ (s.lane l).active < x.oldest)) →
       exec .notice s = .next viewed))

/-- The NOTICE leaves the queue, counted if stale. An overtaken or revised staging is discarded with its
reason, the floor unchanged; a NOTICE that does neither refreshes the view and changes nothing else. At a
discard the engine gives up
the lane's segment; the removing sweep is an UNDO of S, deferred while the RETIRE walks or an item is being
finished (log 39 for which); and the validator records learn that S is gone (log 27 for a confirmation, log 22
for the round that a report begins). -/
def Obligations.OvertakenOrRevisedIsDiscarded : Prop :=
  ∀ (s : State) (l : Lane) (x : Notice) (n : StagedNotice),
    s.noticeAtHead l x → ((s.lane l).state = .retiring ∨ (s.lane l).state = .staging) →
    (s.lane l).staged = some n →
    let stale : Prop := x.g ≤ max (s.lane l).active (s.lane l).floor
    let overtaken : Prop :=
      if n.b = 0 then n.g < x.newest else x.oldest = 0 ∨ (s.lane l).active < x.oldest
    let revised : Prop := x.g = n.g
      ∧ ((x.b = n.b ∧ x.n ≠ n.n) ∨ x.count ≠ n.count ∨ x.sum ≠ n.sum ∨ x.e ≠ n.e)
    let viewed : State := s.popIngress.setLane l
      { s.lane l with viewNewest := x.newest, viewOldest := x.oldest }
    (∀ reason code, ((overtaken ∧ reason = .overtaken ∧ code = 3)
        ∨ (¬ overtaken ∧ revised ∧ reason = .revised ∧ code = 4)) →
      ∃ t, exec .notice s = .next t
      ∧ t.lane l = { s.lane l with
          viewNewest := x.newest, viewOldest := x.oldest, state := .discarding,
          lastReason := reason, discards := min ((s.lane l).discards + 1) 65535,
          undoDeferred := if (s.lane l).state = .retiring then true else (s.lane l).undoDeferred }
      ∧ t.lane l.other = s.lane l.other
      ∧ t.uplink.ingress = s.uplink.ingress.tail ∧ t.uplink.checkedHead = none
      ∧ t.store.regions = s.store.regions ∧ t.store.free = s.store.free
      ∧ s.givesUpSegment t l (.undo n.g) ∧ s.reportsGone t l n.g ∧ s.hearsReport t
      ∧ t.scan.broadcast = s.scan.broadcast
      ∧ t.ctl.flags = s.ctl.flags ||| (EventFlag.discarded l).bit
      ∧ (let rises := [(EventFlag.discarded l,
          ({ lane := laneCode l, generation := n.g, detail := code } : AlertContext))]
        (stale → (s.countUplink .passed).raises t rises) ∧ (¬ stale → s.raises t rises))
      ∧ t.clock = s.clock ∧ t.settings = s.settings)
    ∧ (¬ overtaken → ¬ revised →
      (stale → exec .notice s = .next (viewed.countUplink .passed))
      ∧ (¬ stale → exec .notice s = .next viewed))

/-- In READY and in DISCARDING a NOTICE refreshes the stream view, is counted if stale, and has no other
effect (R28). -/
def Obligations.ReadyOrDiscardingTakesOnlyTheView : Prop :=
  ∀ (s : State) (l : Lane) (x : Notice), s.noticeAtHead l x →
    ((s.lane l).state = .ready ∨ (s.lane l).state = .discarding) →
    let viewed : State := s.popIngress.setLane l
      { s.lane l with viewNewest := x.newest, viewOldest := x.oldest }
    (x.g ≤ max (s.lane l).active (s.lane l).floor →
      exec .notice s = .next (viewed.countUplink .passed))
    ∧ (max (s.lane l).active (s.lane l).floor < x.g → exec .notice s = .next viewed)

/-- The five outcomes of the matching test, made once the engine is EMPTY. -/
def Obligations.SegmentMatchTable : Prop :=
  ∀ (s : State) (seg : Segment), s.power = .running → s.uplink.checkedHead = some seg →
    s.store.engine = .empty → s.settings.laneOfStream seg.stream = some seg.lane →
    ((s.lane seg.lane).state ≠ .staging →
      exec .segmentMatch s = .next (s.popIngress.countUplink .passed))
    ∧ (∀ n, (s.lane seg.lane).state = .staging → (s.lane seg.lane).staged = some n →
      (seg.g ≠ n.g ∨ seg.b ≠ n.b →
        exec .segmentMatch s = .next (s.popIngress.countUplink .passed))
      ∧ (seg.g = n.g → seg.b = n.b → n.n ≤ seg.index →
        exec .segmentMatch s = .next (s.popIngress.countUplink .bad))
      ∧ (seg.g = n.g → seg.b = n.b → seg.index < n.n →
        seg.index ∈ (s.lane seg.lane).segmentMap →
        exec .segmentMatch s = .next ((s.popIngress.countUplink .passed).setLane seg.lane
          { s.lane seg.lane with repeats := min ((s.lane seg.lane).repeats + 1) 65535 }))
      ∧ (seg.g = n.g → seg.b = n.b → seg.index < n.n →
        seg.index ∉ (s.lane seg.lane).segmentMap →
        exec .segmentMatch s = .next (s.popIngress.setEngine (.applying seg 0 false))))

/-! ### The apply engine and the entry store -/

/-- The outcome of one blocklist item: the content tests first, then the lookup in S, then the change;
with what the lookup and the allocation find. The engine's item of a blocklist segment has that outcome
against S, on the lane's region and free count, an image by the segment's base 0. -/
def Obligations.BlocklistItemOutcomes : Prop :=
  (∀ (s : State) (seg : Segment) (items : List BlockItem) (pos : Nat) (n : StagedNotice),
    seg.items = .block items → (s.lane seg.lane).staged = some n →
    (∀ i, items[pos]? = some i → s.itemOutcome seg pos =
      some (applyBlockItem n.g (decide (seg.b = 0)) (s.store.free.get seg.lane)
        (s.region seg.lane) i))
    ∧ (items.length ≤ pos → s.itemOutcome seg pos = none))
  ∧ ∀ (g free : Nat) (image : Bool) (m : Memory) (i : BlockItem),
    ((i.token = 0 ∨ 7 < i.priority ∨ (i.op = .drop ∧ image = true)) →
      applyBlockItem g image free m i = .contentError)
    ∧ (i.token ≠ 0 → ∀ hp : i.priority < 8,
      let p : Fin 8 := ⟨i.priority, hp⟩
      let new : Entry := .block { token := i.token, priority := p, added := g, removed := none }
      (i.op = .add → m.findToken g i.token = none →
        applyBlockItem g image free m i =
          if free = 0 then .noSlot
          else .applied (m.write (m.lowestFree 0) new) (.blockIn i.token p))
      ∧ (∀ a e, i.op = .add → m.findToken g i.token = some (a, e) →
        (e.priority = p → applyBlockItem g image free m i = .duplicate)
        ∧ (e.priority ≠ p → e.added = g → applyBlockItem g image free m i =
            .applied (m.write a (.block { e with priority := p })) (.relevel i.token e.priority p))
        ∧ (e.priority ≠ p → e.added ≠ g → applyBlockItem g image free m i =
            if free = 0 then .noSlot
            else
              let closed := m.write a (.block { e with removed := some g })
              .applied (closed.write (closed.lowestFree 0) new) (.relevel i.token e.priority p)))
      ∧ (i.op = .drop → image = false → m.findToken g i.token = none →
        applyBlockItem g image free m i = .absentDrop)
      ∧ (∀ a e, i.op = .drop → image = false → m.findToken g i.token = some (a, e) →
        (e.added = g → applyBlockItem g image free m i =
          .applied (m.erase a) (.blockOut i.token e.priority))
        ∧ (e.added ≠ g → applyBlockItem g image free m i =
          .applied (m.write a (.block { e with removed := some g }))
            (.blockOut i.token e.priority))))
    ∧ (m.wf = true →
      (∀ a e, m.findToken g i.token = some (a, e) →
        m.read a = some (.block e) ∧ e.token = i.token
          ∧ stampsVisible e.added e.removed g = true)
      ∧ (m.findToken g i.token = none → ∀ a e, m.read a = some (.block e) → e.token = i.token →
        stampsVisible e.added e.removed g = false)
      ∧ m.read (m.lowestFree 0) = none ∧ ∀ a < m.lowestFree 0, m.read a ≠ none)

/-- The outcome of one product record: the content tests, then the slots it needs, then its head and
tail at the lowest free slots, reading back whole. A code is repeated where a head visible in S has it. The
engine's record of a product segment has that outcome against S, on the lane's region and free count. -/
def Obligations.ProductRecordOutcomes : Prop :=
  (∀ (s : State) (seg : Segment) (records : List ProductRecord) (pos : Nat) (n : StagedNotice),
    seg.items = .product records → (s.lane seg.lane).staged = some n →
    (∀ r, records[pos]? = some r → s.itemOutcome seg pos =
      some (applyRecord n.g (s.store.free.get seg.lane) (s.region seg.lane) r))
    ∧ (records.length ≤ pos → s.itemOutcome seg pos = none))
  ∧ (∀ (g code : Nat) (m : Memory), m.wf = true →
    (m.hasCode g code = true ↔ ∃ a h, m.read a = some (.head h) ∧ h.code = code
      ∧ h.added ≤ g ∧ ∀ r, h.removed = some r → g < r)
    ∧ ∀ n, n ≤ m.lowestFree n ∧ m.read (m.lowestFree n) = none
      ∧ ∀ a, n ≤ a → a < m.lowestFree n → m.read a ≠ none)
  ∧ (∀ (m : Memory) (h : ProductHead),
    let whole (zones : List Nat) : ProductRecord :=
      { code := h.code, fare := h.fare, concession := h.concession, firstDay := h.firstDay,
        lastDay := h.lastDay, transfer := h.transfer, zones := zones }
    (h.tail = none → m.recordAt h = whole h.zones)
    ∧ ∀ t x, h.tail = some t → m.read t = some (.tail x) → m.recordAt h = whole (h.zones ++ x.zones))
  ∧ ∀ (g free : Nat) (m : Memory) (r : ProductRecord),
    ((r.code = 0 ∨ ¬ r.zones.Pairwise (· < ·) ∨ (∃ d, r.lastDay = some d ∧ d < r.firstDay)
        ∨ m.hasCode g r.code = true) → applyRecord g free m r = .contentError)
    ∧ (r.code ≠ 0 → r.zones.Pairwise (· < ·) → (∀ d, r.lastDay = some d → r.firstDay ≤ d) →
      m.hasCode g r.code = false →
      (free < (if r.zones.length ≤ 4 then 1 else 2) → applyRecord g free m r = .noSlot)
      ∧ ((if r.zones.length ≤ 4 then 1 else 2) ≤ free → m.wf = true →
        ∃ m' h, applyRecord g free m r = .applied m' (.recordIn (productWeight r))
        ∧ m'.read (m.lowestFree 0) = some (.head h) ∧ m'.recordAt h = r ∧ h.added = g
        ∧ h.removed = none
        ∧ (r.zones.length ≤ 4 → h.tail = none ∧ m'.length = m.length + 1
          ∧ ∀ b, b ≠ m.lowestFree 0 → m'.read b = m.read b)
        ∧ (4 < r.zones.length → h.tail = some (m.lowestFree (m.lowestFree 0 + 1))
          ∧ m'.read (m.lowestFree (m.lowestFree 0 + 1)) =
            some (.tail { zones := r.zones.drop 4, head := m.lowestFree 0 })
          ∧ m'.length = m.length + 2
          ∧ ∀ b, b ≠ m.lowestFree 0 → b ≠ m.lowestFree (m.lowestFree 0 + 1) →
            m'.read b = m.read b)))

/-- An item that is applied, a duplicate or an absent drop, with more of the segment to come: what it
changes, and that the next item is requested. An item granted before its lane left STAGING changes the
region alone, and the removing sweep is requested at its end (log 39 for a CLEAR taken meanwhile). -/
def Obligations.AppliedItemGoesOn : Prop :=
  (∀ (s : State) (seg : Segment) (pos : Nat) (retry : Bool),
    s.applies seg pos retry → pos + 1 < seg.size →
    let l := seg.lane
    let r := s.lane l
    let next : Engine := .applying seg (pos + 1) false
    (∀ m change, s.itemOutcome seg pos = some (.applied m change) →
      exec .applyItem s = .next
        { s with
          store :=
            { regions := s.store.regions.set l m,
              free := s.store.free.set l (s.store.free.get l + (s.region l).length - m.length),
              lastGranted := .apply, engine := next },
          lanes := s.lanes.set l { r with stagedDigest := r.stagedDigest.change change } })
    ∧ (s.itemOutcome seg pos = some .duplicate →
      exec .applyItem s = .next
        { s with
          store := { s.store with lastGranted := .apply, engine := next },
          lanes := s.lanes.set l { r with duplicates := min (r.duplicates + 1) 65535 } })
    ∧ (s.itemOutcome seg pos = some .absentDrop →
      exec .applyItem s = .next
        { s with
          store := { s.store with lastGranted := .apply, engine := next },
          lanes := s.lanes.set l { r with absentDrops := min (r.absentDrops + 1) 65535 } }))
  ∧ ∀ (s : State) (seg : Segment) (pos : Nat), s.power = .running →
    s.store.engine = .finishing seg pos →
    let l := seg.lane
    let r := s.lane l
    let removing : SweepKind :=
      if r.pendingCommand = none ∨ r.pendingCommand = some .rollback then .undo r.stagedGen
      else .clear
    let emptied : Store := { s.store with engine := .empty }
    (∀ m change, s.itemOutcome seg pos = some (.applied m change) →
      exec .applyItem s = .next
        { s with
          store := { emptied with
            regions := s.store.regions.set l m,
            free := s.store.free.set l (s.store.free.get l + (s.region l).length - m.length) },
          sweeper := (s.requestSweep l removing false).sweeper })
    ∧ ((∀ m change, s.itemOutcome seg pos ≠ some (.applied m change)) →
      exec .applyItem s = .next
        { s with
          store := emptied,
          sweeper := (s.requestSweep l removing false).sweeper })

/-- The last item of a segment applied, a duplicate or an absent drop: the index joins the map; a full map
is verified, and the lane is READY, at once activated where its hold is clear and its time has come, or
discards with reason DIGEST and raises its floor. The scanner hears of READY first and of the activation next.
The model's readings here: a SWITCH on the line stays at the head of the list (log 21), the round that a
report begins (log 22), and a confirmation as the target of an IDLE sub-record (log 27). -/
def Obligations.LastItemIsVerified : Prop :=
  ∀ (s : State) (seg : Segment) (pos : Nat) (retry : Bool) (n : StagedNotice),
    s.applies seg pos retry → pos + 1 = seg.size →
    (s.lane seg.lane).state = .staging → (s.lane seg.lane).staged = some n →
    let l := seg.lane
    let r := s.lane l
    let due : Prop := r.hold = false
      ∧ (n.e = 0 ∨ (s.clock.state ≠ .unset ∧ n.e ≤ s.clock.value))
    let readyRise : EventFlag × AlertContext :=
      (.stagedReady l, { lane := laneCode l, generation := n.g })
    let done (counted : LaneRec) (store : Store) : Prop :=
      let x : LaneRec := { counted with segmentMap := insertIndex r.segmentMap seg.index }
      let full : Prop := ∀ i < n.n, i ∈ x.segmentMap
      let agrees : Prop := x.stagedDigest.count = n.count ∧ x.stagedDigest.sum = n.sum
      ∃ t, exec .applyItem s = .next t
      ∧ t.store = { store with lastGranted := .apply, engine := .empty }
      ∧ t.lane l.other = s.lane l.other ∧ t.clock = s.clock ∧ t.settings = s.settings
      ∧ (¬ full → t.lane l = x ∧ t.sweeper = s.sweeper ∧ t.ctl = s.ctl ∧ t.uplink = s.uplink
        ∧ t.bus = s.bus ∧ t.scan = s.scan)
      ∧ (full → agrees → ¬ due → t.lane l = { x with state := .ready } ∧ t.sweeper = s.sweeper
        ∧ t.ctl.flags = s.ctl.flags ||| (EventFlag.stagedReady l).bit ∧ s.raises t [readyRise]
        ∧ t.bus = s.bus ∧ t.scan.records = s.scan.records ∧ t.scan.tally = s.scan.tally
        ∧ t.scan.broadcast = s.scan.broadcast ∧ t.scan.build = s.scan.build
        ∧ s.keepsWalk t ∧ s.hearsReport t)
      ∧ (full → agrees → due →
        t.lane l = { x with
          history :=
            if r.active = 0 then r.history
            else ({ generation := r.active, digest := r.activeDigest } :: r.history).take 2,
          active := n.g, activeDigest := x.stagedDigest, staged := none, segmentMap := [],
          stagedDigest := Digest.zero, state := .idle,
          lateness := if n.e = 0 then 0 else min (s.clock.value - n.e) 65535 }
        ∧ t.sweeper = (s.requestSweep l .reclaim false).sweeper
        ∧ t.ctl.flags =
          s.ctl.flags ||| (EventFlag.stagedReady l).bit ||| (EventFlag.activated l).bit
        ∧ s.raises t [readyRise, (.activated l,
          { lane := laneCode l, generation := n.g, detail := 1 })]
        ∧ s.reportsMoved t l n.g r.active
        ∧ s.hearsTwoReports t (fun u => u.lane l = { x with state := .ready }
          ∧ u.lane l.other = s.lane l.other ∧ s.reportsStaging u)
        ∧ s.joinsSwitch t { lane := l, generation := n.g })
      ∧ (full → ¬ agrees →
        t.lane l = { x with
          state := .discarding, lastReason := .digest, discards := min (r.discards + 1) 65535,
          floor := max r.floor n.g }
        ∧ t.sweeper = (s.requestSweep l (.undo n.g) false).sweeper
        ∧ t.ctl.flags = s.ctl.flags ||| (EventFlag.discarded l).bit
        ∧ s.raises t [(.discarded l, { lane := laneCode l, generation := n.g, detail := 2 })]
        ∧ s.reportsGone t l n.g ∧ s.hearsReport t ∧ t.scan.broadcast = s.scan.broadcast)
    (∀ i, i ∈ insertIndex r.segmentMap seg.index ↔ i = seg.index ∨ i ∈ r.segmentMap)
    ∧ (∀ m change, s.itemOutcome seg pos = some (.applied m change) →
      done { r with stagedDigest := r.stagedDigest.change change }
        { s.store with
          regions := s.store.regions.set l m,
          free := s.store.free.set l
            (s.store.free.get l + (s.region l).length - m.length) })
    ∧ (s.itemOutcome seg pos = some .duplicate →
      done { r with duplicates := min (r.duplicates + 1) 65535 } s.store)
    ∧ (s.itemOutcome seg pos = some .absentDrop →
      done { r with absentDrops := min (r.absentDrops + 1) 65535 } s.store)

/-- An item that is not applied: a content error discards with reason CONTENT; no slot waits for a
RECLAIM, then gives up the bottom history record, then discards with reason STORE_FULL. Logs 22 and 27 are
the model's readings of the report that S is gone. -/
def Obligations.FailedItemDiscardsOrWaits : Prop :=
  ∀ (s : State) (seg : Segment) (pos : Nat) (retry : Bool) (n : StagedNotice),
    s.applies seg pos retry → (s.lane seg.lane).state = .staging →
    (s.lane seg.lane).staged = some n →
    let l := seg.lane
    let gone (reason : DiscardReason) (code floor : Nat) (t : State) : Prop :=
      t.lane l = { s.lane l with
        state := .discarding, lastReason := reason,
        discards := min ((s.lane l).discards + 1) 65535, floor := floor }
      ∧ t.store = { s.store with lastGranted := .apply, engine := .empty }
      ∧ t.sweeper = (s.requestSweep l (.undo n.g) false).sweeper
      ∧ t.ctl.flags = s.ctl.flags ||| (EventFlag.discarded l).bit
      ∧ s.raises t [(.discarded l, { lane := laneCode l, generation := n.g, detail := code })]
      ∧ t.lane l.other = s.lane l.other ∧ t.clock = s.clock ∧ t.settings = s.settings
      ∧ s.reportsGone t l n.g ∧ s.hearsReport t
    (s.itemOutcome seg pos = some .contentError →
      ∃ t, exec .applyItem s = .next t ∧ gone .content 1 (max (s.lane l).floor n.g) t)
    ∧ (s.itemOutcome seg pos = some .noSlot → retry = false →
      exec .applyItem s = .next
        { s with
          store := { s.store with lastGranted := .apply, engine := .waiting seg pos },
          sweeper := (s.requestSweep l .reclaim true).sweeper })
    ∧ (s.itemOutcome seg pos = some .noSlot → retry = true → (s.lane l).history = [] →
      ∃ t, exec .applyItem s = .next t ∧ gone .storeFull 5 (s.lane l).floor t)
    ∧ (∀ kept bottom, s.itemOutcome seg pos = some .noSlot → retry = true →
      (s.lane l).history = kept ++ [bottom] →
      ∃ t, exec .applyItem s = .next t
      ∧ t.lane l = { s.lane l with history := kept } ∧ t.lane l.other = s.lane l.other
      ∧ t.store = { s.store with lastGranted := .apply, engine := .waiting seg pos }
      ∧ t.sweeper = (s.requestSweep l .reclaim true).sweeper
      ∧ t.ctl.flags = s.ctl.flags ||| (EventFlag.pressure l).bit
      ∧ s.raises t [(.pressure l, { lane := laneCode l, generation := bottom.generation })]
      ∧ t.scan = s.scan ∧ t.bus = s.bus
      ∧ t.clock = s.clock ∧ t.settings = s.settings)

/-- At every granted item lane B's staged digest, histogram included, stays the digest of the entries
visible in S. -/
def Obligations.StagedDigestFollowsBlocklist : Prop :=
  ∀ (s t : State) (seg : Segment) (pos : Nat) (retry : Bool),
    s.applies seg pos retry → seg.lane = .b → (s.region .b).wf = true →
    (s.lane .b).stagedDigest =
      digestOfBlocks ((s.region .b).visibleBlocks (s.lane .b).stagedGen) →
    exec .applyItem s = .next t → (t.lane .b).state.holdsStaging = true →
    (t.lane .b).stagedDigest =
      digestOfBlocks ((t.region .b).visibleBlocks (t.lane .b).stagedGen)

/-- At every granted item lane P's staged digest stays the digest of the records visible in S. -/
def Obligations.StagedDigestFollowsProducts : Prop :=
  ∀ (s t : State) (seg : Segment) (pos : Nat) (retry : Bool),
    s.applies seg pos retry → seg.lane = .p → (s.region .p).wf = true → LinksOk (s.region .p) →
    (s.lane .p).stagedDigest = digestOfRecords
      (((s.region .p).visibleHeads (s.lane .p).stagedGen).map (s.region .p).recordAt) →
    exec .applyItem s = .next t → (t.lane .p).state.holdsStaging = true →
    (t.lane .p).stagedDigest = digestOfRecords
      (((t.region .p).visibleHeads (t.lane .p).stagedGen).map (t.region .p).recordAt)

/-- No item of S and no RETIRE or UNDO of S alters a generation below S, and no RECLAIM alters a
retained generation: the entries visible in it, and their order, stay. -/
def Obligations.KeptGenerationsAreUntouched : Prop :=
  ∀ (m : Memory) (g v : Nat), m.wf = true → LinksOk m →
    let contents (m : Memory) : List (Nat × Fin 8) × List ProductRecord :=
      ((m.visibleBlocks v).map fun e => (e.token, e.priority),
       (m.visibleHeads v).map m.recordAt)
    (v < g →
      (∀ free image i m' change, applyBlockItem g image free m i = .applied m' change →
        contents m' = contents m)
      ∧ (∀ free r m' change, applyRecord g free m r = .applied m' change →
        contents m' = contents m)
      ∧ ∀ a kept, contents (sweepSlot (.retire g) kept m a) = contents m
        ∧ contents (sweepSlot (.undo g) kept m a) = contents m)
    ∧ ∀ a kept, v ∈ kept → contents (sweepSlot .reclaim kept m a) = contents m

/-! ### The sweeper -/

/-- A granted sweep step before the last slot: the change its kind makes at the cursor's slot, and the
cursor moved on. The sweeper's list: a request merges with the waiting one of its lane and kind, which
keeps its place and generation and waits for both, or joins the tail, whatever sweep is in progress; and
with none in progress the head starts at slot 0. The retained generations are ACTIVE, the history and an
S. -/
def Obligations.SweepStepChangesItsSlot : Prop :=
  (∀ (s : State) (w : Sweep), s.sweeps w → w.cursor + 1 < s.size w.request.lane →
    let l := w.request.lane
    let m := sweepSlot w.request.kind (s.lane l).retained (s.region l) w.cursor
    exec (commandOfSweep w.request.kind) s = .next
      { s with
        store := { s.store with
          regions := s.store.regions.set l m,
          free := s.store.free.set l (s.store.free.get l + (s.region l).length - m.length),
          lastGranted := .sweeper },
        sweeper := { s.sweeper with sweep := some { w with cursor := w.cursor + 1 } } })
  ∧ (∀ (s : State) (l : Lane) (k : SweepKind) (waiter : Bool),
    s.requestSweep l k waiter = { s with sweeper := Sweeper.start { s.sweeper with
      requests := joinRequests s.sweeper.requests { lane := l, kind := k, waiter := waiter } } })
  ∧ (∀ (new : SweepRequest) (waiting : List SweepRequest),
    let same (x : SweepRequest) : Prop := x.lane = new.lane
      ∧ ((∃ g h, x.kind = .retire g ∧ new.kind = .retire h)
        ∨ (∃ g h, x.kind = .undo g ∧ new.kind = .undo h)
        ∨ (x.kind = .reclaim ∧ new.kind = .reclaim) ∨ (x.kind = .clear ∧ new.kind = .clear))
    ((∀ x ∈ waiting, ¬ same x) → joinRequests waiting new = waiting ++ [new])
    ∧ ∀ before x after, waiting = before ++ x :: after → (∀ y ∈ before, ¬ same y) → same x →
      joinRequests waiting new = before ++ { x with waiter := x.waiter || new.waiter } :: after)
  ∧ (∀ w : Sweeper,
    (∀ x, w.sweep = some x → w.start = w) ∧ (w.requests = [] → w.start = w)
    ∧ ∀ x rest, w.sweep = none → w.requests = x :: rest →
      w.start = { requests := rest, sweep := some { request := x, cursor := 0 } })
  ∧ (∀ (r : LaneRec) (v : Nat), v ∈ r.retained ↔
    (r.active ≠ 0 ∧ v = r.active) ∨ (∃ h ∈ r.history, v = h.generation)
    ∨ ((r.state = .retiring ∨ r.state = .staging ∨ r.state = .ready)
      ∧ ∃ n, r.staged = some n ∧ v = n.g))
  ∧ (∀ (m : Memory) (a b : Nat) (x : Entry), m.wf = true →
    (m.write a x).read b = (if b = a then some x else m.read b)
    ∧ (m.erase a).read b = (if b = a then none else m.read b))
  ∧ ∀ (m : Memory) (kept : List Nat) (a g : Nat),
    (∀ k, m.read a = none → sweepSlot k kept m a = m)
    ∧ (∀ k x, m.read a = some (.tail x) → sweepSlot k kept m a = m)
    ∧ (∀ x added removed, m.read a = some x → x.stamps = some (added, removed) →
      (sweepSlot (.retire g) kept m a =
        if removed = none then m.write a (x.setRemoved (some g)) else m)
      ∧ (added = g → sweepSlot (.undo g) kept m a = m.freeEntry a)
      ∧ (added ≠ g → sweepSlot (.undo g) kept m a =
        if removed = some g then m.write a (x.setRemoved none) else m)
      ∧ ((∃ v ∈ kept, added ≤ v ∧ ∀ r, removed = some r → v < r) →
        sweepSlot .reclaim kept m a = m)
      ∧ ((∀ v ∈ kept, v < added ∨ ∃ r, removed = some r ∧ r ≤ v) →
        sweepSlot .reclaim kept m a = m.freeEntry a)
      ∧ sweepSlot .clear kept m a = m.freeEntry a)
    ∧ (∀ h t, m.read a = some (.head h) → h.tail = some t →
      m.freeEntry a = (m.erase a).erase t)
    ∧ (∀ h, m.read a = some (.head h) → h.tail = none → m.freeEntry a = m.erase a)
    ∧ (∀ e, m.read a = some (.block e) → m.freeEntry a = m.erase a)

/-- The last slot of a sweep: what the completion does to the lane, the engine and, for a rollback, the
validator records; that the command that waits for it is answered DONE; and that the next request
starts. That a rollback's ALERT comes before its ANSWER (log 14), that a SWITCH on the line stays at the head
of the list (log 21), which round the rollback report begins (log 22), and that a sub-record has a confirmed
generation only while it is IDLE (log 27), are the model's choice. -/
def Obligations.SweepCompletionIsReported : Prop :=
  ∀ (s : State) (w : Sweep), s.sweeps w → w.cursor + 1 = s.size w.request.lane →
    let l := w.request.lane
    let r := s.lane l
    let swept := sweepSlot w.request.kind r.retained (s.region l) w.cursor
    let rest : Sweeper := { requests := s.sweeper.requests, sweep := none }
    let idle : LaneRec :=
      { r with staged := none, segmentMap := [], stagedDigest := Digest.zero, state := .idle }
    let completes : Prop := r.state = .discarding
      ∧ ((w.request.kind.code = 2 ∧ r.pendingCommand = some .rollback)
        ∨ (w.request.kind = .clear ∧ r.clearPending = true))
    let rolls : Prop := completes ∧ r.pendingCommand = some .rollback ∧ r.history ≠ []
    ∃ t, (∀ h, completes → s.ctl.command = .carryingOut h (.lane l) →
        exec (commandOfSweep w.request.kind) s = .next (t.answer h .done []))
    ∧ ((¬ completes ∨ ∀ h, s.ctl.command ≠ .carryingOut h (.lane l)) →
        exec (commandOfSweep w.request.kind) s = .next t)
    ∧ t.ctl.command = s.ctl.command
    ∧ t.region l = swept ∧ t.region l.other = s.region l.other ∧ t.lane l.other = s.lane l.other
    ∧ t.store.free =
      s.store.free.set l (s.store.free.get l + (s.region l).length - swept.length)
    ∧ t.store.lastGranted = .sweeper ∧ t.clock = s.clock
    ∧ t.uplink.ingress = s.uplink.ingress ∧ t.uplink.control = s.uplink.control
    ∧ (¬ rolls → t.scan = s.scan ∧ t.bus = s.bus ∧ t.ctl = s.ctl ∧ t.uplink = s.uplink)
    ∧ (∀ g, w.request.kind = .retire g →
        (r.state = .retiring →
          t.lane l = { r with stagedDigest := Digest.zero, state := .staging }
          ∧ t.sweeper = rest.start)
        ∧ (r.state = .discarding → r.undoDeferred = true →
          t.lane l = { r with undoDeferred := false }
          ∧ t.sweeper = Sweeper.start { rest with
              requests := joinRequests rest.requests
                { lane := l, kind := if r.clearPending then .clear else .undo r.stagedGen,
                  waiter := false } }))
    ∧ (∀ g, w.request.kind = .undo g → r.state = .discarding →
        (r.pendingCommand = none → t.lane l = idle ∧ t.sweeper = rest.start)
        ∧ (r.clearPending = true → t.lane l = r ∧ t.sweeper = rest.start)
        ∧ (∀ top below, r.pendingCommand = some .rollback → r.history = top :: below →
          t.lane l = { idle with
            pendingCommand := none, floor := max r.floor r.active, active := top.generation,
            activeDigest := top.digest, history := below }
          ∧ t.ctl.flags = s.ctl.flags ||| (EventFlag.activated l).bit
          ∧ s.raises t [(.activated l,
            { lane := laneCode l, generation := top.generation, detail := 2 })]
          ∧ t.sweeper = Sweeper.start { rest with
              requests := joinRequests rest.requests
                { lane := l, kind := .reclaim, waiter := false } }
          ∧ s.reportsMoved t l top.generation r.active ∧ s.dropsSwitch t l
          ∧ s.hearsReport t))
    ∧ (w.request.kind = .reclaim → t.lane l = r ∧ t.sweeper = rest.start
        ∧ (w.request.waiter = false → t.store.engine = s.store.engine)
        ∧ (∀ seg pos, w.request.waiter = true → s.store.engine = .waiting seg pos →
          t.store.engine = .applying seg pos true))
    ∧ (w.request.kind = .clear → r.state = .discarding → r.clearPending = true →
        t.lane l = { idle with
          undoDeferred := false, viewNewest := 0, viewOldest := 0, pendingCommand := none }
        ∧ t.sweeper = rest.start
        ∧ (∀ stream, r.pendingCommand = some (.subscribe stream) →
          t.settings = { s.settings with subs := s.settings.subs.set l stream })
        ∧ (r.pendingCommand = some .clear → t.settings = s.settings))

/-! ### The fleet clock -/

/-- A local second on the clock, on both lanes and on the report timer; the second that takes a LOCKED
clock to HOLDOVER raises the flag before the lanes are told, and is the same second by either of its two
commands (log 8). The report timer stands at the interval until its STANDING is made (log 9). -/
def Obligations.LocalSecondAdvancesTheClock : Prop :=
  ∀ s : State, s.power = .running →
    let c := s.clock
    let enters : Prop := c.state = .locked ∧ 300 ≤ c.timer + 1
    let ticked : State := { s with clock := if c.state = .unset then c else { c with
      value := if 0 < c.debt then c.value else min (c.value + 1) 4294967295,
      debt := c.debt - 1,
      timer := min (c.timer + 1) 300,
      state := if enters then .holdover else c.state } }
    let told (u : State) : Prop :=
      (s.settings.period = 0 → exec .localSecond s = .next u.reportClock)
      ∧ (s.settings.period ≠ 0 → exec .localSecond s = .next
        { u.reportClock with ctl := { u.reportClock.ctl with reportTimer := s.ctl.reportTimer + 1 } })
    (s.standingDue = false →
      (enters → told (ticked.rise .holdover {})) ∧ (¬ enters → told ticked))
    ∧ (∃ t, exec .localSecond s = .next t
      ∧ (c.state = .unset → t.clock = c)
      ∧ (c.state ≠ .unset → t.clock = { c with
          value := if 0 < c.debt then c.value else min (c.value + 1) 4294967295,
          debt := c.debt - 1,
          timer := min (c.timer + 1) 300,
          state := if enters then .holdover else c.state })
      ∧ (enters → t.ctl.flags.getLsbD 13 = true)
      ∧ (∀ l n, (s.lane l).state = .ready → (s.lane l).staged = some n → (s.lane l).hold = false →
          (n.e = 0 ∨ (t.clock.state ≠ .unset ∧ n.e ≤ t.clock.value)) →
          (t.lane l).state = .idle ∧ (t.lane l).active = n.g
          ∧ (t.lane l).lateness = if n.e = 0 then 0 else min (t.clock.value - n.e) 65535)
      ∧ (∀ l, ((s.lane l).state ≠ .ready ∨ (s.lane l).hold = true
            ∨ ∃ n, (s.lane l).staged = some n ∧ n.e ≠ 0
              ∧ (t.clock.state = .unset ∨ t.clock.value < n.e)) → t.lane l = s.lane l)
      ∧ t.store = s.store ∧ t.settings = s.settings
      ∧ t.uplink.ingress = s.uplink.ingress ∧ t.uplink.control = s.uplink.control
      ∧ (s.settings.period = 0 → t.ctl.reportTimer = s.ctl.reportTimer)
      ∧ (s.settings.period ≠ 0 → s.standingDue = false →
        t.ctl.reportTimer = s.ctl.reportTimer + 1))
    ∧ (enters → ∃ t, exec .holdoverEntry s = .next t ∧ exec .localSecond s = .next t
      ∧ t.clock.state = .holdover ∧ t.clock.timer = 300 ∧ t.ctl.flags.getLsbD 13 = true)

/-- With the report timer at the report interval, a STANDING is made and the timer returns to 0; a full
egress queue loses the STANDING. A local second or a SET-TIMING that comes first makes it too (log 9). Each
STANDING takes a fresh free value for the bytes left open (choices, log 40). -/
def Obligations.PeriodicStandingIsMade : Prop :=
  (∀ s : State, s.standingDue = true ↔
    s.settings.period ≠ 0 ∧ 2 ^ (s.settings.period.val - 1) ≤ s.ctl.reportTimer)
  ∧ ∀ s : State, s.power = .running → s.settings.period ≠ 0 →
    2 ^ (s.settings.period.val - 1) ≤ s.ctl.reportTimer →
    (s.uplink.egress.length < 8 →
      exec .periodicStanding s = .next
        { s with
          choices := s.choices + 1,
          uplink := { s.uplink with egress := s.uplink.egress ++
            [{ kind := .standing, body := s.standing,
               unitMac := s.settings.addressing.unitMac,
               gatewayMac := s.settings.addressing.gatewayMac,
               etherType := s.settings.addressing.etherType, restart := false }] },
          ctl := { s.ctl with reportTimer := 0 } })
    ∧ (8 ≤ s.uplink.egress.length →
      exec .periodicStanding s = .next
        { s with choices := s.choices + 1, ctl := { s.ctl with reportTimer := 0 } })
    ∧ (∀ t : State, exec .periodicStanding s = .next t → exec .localSecond s = exec .localSecond t)
    ∧ (∀ (m : ControlMessage) (quiet : Fin 4) (period : Fin 13), s.takes m 6 →
      m.args = be 1 quiet.val ++ be 1 period.val →
      ∃ t, exec .periodicStanding s.popControl = .next t
      ∧ exec .setTiming s = .next
        (({ t with
            settings := { t.settings with quiet := quiet, period := period },
            ctl := { t.ctl with reportTimer := 0 } } : State).answer m.head .done []))

/-- The activation test: a READY lane whose hold is clear and whose time has come takes S into service
with every change of R38, and the validator records those of R163 (log 21 for a SWITCH on the line, log 22 for
the round that the report begins, log 27 for a confirmed generation); any other lane is left as it stands. A
report of the clock tests both lanes, in an order left open where both activate (log 10). -/
def Obligations.ActivationMakesItsChanges : Prop :=
  (∀ s : State,
    let due (l : Lane) : Prop := (s.lane l).state = .ready ∧ (s.lane l).hold = false
      ∧ ∃ n, (s.lane l).staged = some n
        ∧ (n.e = 0 ∨ (s.clock.state ≠ .unset ∧ n.e ≤ s.clock.value))
    (¬(due .b ∧ due .p) → s.reportClock = (s.testActivation .b).testActivation .p)
    ∧ (due .b → due .p → ∃ first : Lane, s.reportClock =
      (({ s with choices := s.choices + 1 } : State).testActivation first).testActivation first.other))
  ∧ ∀ (s : State) (l : Lane),
    (∀ n, (s.lane l).state = .ready → (s.lane l).staged = some n → (s.lane l).hold = false →
      (n.e = 0 ∨ (s.clock.state ≠ .unset ∧ n.e ≤ s.clock.value)) →
      let r := s.lane l
      let t := s.testActivation l
      t.lane l = { r with
        history :=
          if r.active = 0 then r.history
          else ({ generation := r.active, digest := r.activeDigest } :: r.history).take 2,
        active := n.g, activeDigest := r.stagedDigest, staged := none, segmentMap := [],
        stagedDigest := Digest.zero, state := .idle,
        lateness := if n.e = 0 then 0 else min (s.clock.value - n.e) 65535 }
      ∧ t.lane l.other = s.lane l.other ∧ t.store = s.store ∧ t.clock = s.clock
      ∧ t.settings = s.settings
      ∧ t.sweeper = (s.requestSweep l .reclaim false).sweeper
      ∧ t.ctl.flags = s.ctl.flags ||| (EventFlag.activated l).bit
      ∧ s.raises t [(.activated l, { lane := laneCode l, generation := n.g, detail := 1 })]
      ∧ s.reportsMoved t l n.g r.active ∧ s.hearsReport t
      ∧ s.joinsSwitch t { lane := l, generation := n.g })
    ∧ (((s.lane l).state ≠ .ready ∨ (s.lane l).hold = true
        ∨ ∃ n, (s.lane l).staged = some n ∧ n.e ≠ 0
          ∧ (s.clock.state = .unset ∨ s.clock.value < n.e)) → s.testActivation l = s)

/-- While the part runs the fleet clock never decreases, and it becomes UNSET only at a cold reset
(R113). That RESET_ASSERTED keeps the clock record is the model's choice (log 13). -/
def Obligations.ClockNeverDecreases : Prop :=
  ∀ s t : State, ClockOk s.clock → step s = .next t →
    (∀ straps, s.pending.head? ≠ some (.coldReset straps)) →
    s.clock.value ≤ t.clock.value ∧ (t.clock.state = .unset → s.clock.state = .unset)

/-! ### Weights, capacity and fit -/

/-- The weights of a blocklist entry (R90) and of a product record (R91), what an applied item does to a
digest and its level (R92 to R94), and the effective capacity of a validator (R96). -/
def Obligations.WeightAndEffectiveCapacity : Prop :=
  (∀ (token priority : Nat), token < 2 ^ 56 → priority < 8 →
    let upper := token / 2 ^ 28
    let lower := token % 2 ^ 28
    upper ≤ 268435455 ∧ lower ≤ 268435455
    ∧ (lower + 1) * (upper + 40503) < 2 ^ 28 * (2 ^ 28 + 40503)
    ∧ (lower + 1) * (upper + 40503) < 2 ^ 57
    ∧ (blockWeight token priority).toNat =
      ((lower + 1) * (upper + 40503) + 977 * priority) % 2 ^ 32)
  ∧ (∀ (r : ProductRecord) (last concession transfer : Nat),
    (r.lastDay = some last ∨ (r.lastDay = none ∧ last = 65536)) →
    (r.concession = some concession ∨ (r.concession = none ∧ concession = 65536)) →
    (r.transfer = some transfer ∨ (r.transfer = none ∧ transfer = 0)) →
    let weight :=
      (r.code + 1) * (r.fare + 40503)
        + 977 * (r.firstDay + last + r.zones.sum + concession + transfer)
    (productWeight r).toNat = weight % 2 ^ 32
    ∧ (r.fits → r.zones.Pairwise (· < ·) →
      weight ≤ 628631546 ∧ (productWeight r).toNat = weight))
  ∧ (∀ token p r, (BatchItem.block token p).weight = blockWeight token p.val
    ∧ (BatchItem.product r).weight = productWeight r)
  ∧ (Digest.zero.count = 0 ∧ Digest.zero.sum = 0
    ∧ ∀ l : Fin 8, Digest.zero.levels[l] = { count := 0, sum := 0 })
  ∧ (∀ (d : Digest) (token : Nat) (p q : Fin 8),
    let w := blockWeight token p.val
    let x := d.change (.blockIn token p)
    let y := d.change (.blockOut token p)
    let z := d.change (.relevel token q p)
    (x.count = d.count + 1 ∧ x.sum = d.sum + w
      ∧ x.levels[p] = { count := d.levels[p].count + 1, sum := d.levels[p].sum + w }
      ∧ ∀ l : Fin 8, l ≠ p → x.levels[l] = d.levels[l])
    ∧ (y.count = d.count - 1 ∧ y.sum = d.sum - w
      ∧ y.levels[p] = { count := d.levels[p].count - 1, sum := d.levels[p].sum - w }
      ∧ ∀ l : Fin 8, l ≠ p → y.levels[l] = d.levels[l])
    ∧ (q ≠ p → z.count = d.count ∧ z.sum = d.sum - blockWeight token q.val + w
      ∧ z.levels[p] = { count := d.levels[p].count + 1, sum := d.levels[p].sum + w }
      ∧ z.levels[q] =
        { count := d.levels[q].count - 1, sum := d.levels[q].sum - blockWeight token q.val }
      ∧ ∀ l : Fin 8, l ≠ p → l ≠ q → z.levels[l] = d.levels[l]))
  ∧ (∀ (d : Digest) (w : Sum), d.change (.recordIn w) = { d with count := d.count + 1, sum := d.sum + w })
  ∧ ∀ classCapacity reported : Nat,
    (classCapacity = 0 → effectiveCapacity classCapacity reported = 0)
    ∧ (reported = 0 → effectiveCapacity classCapacity reported = classCapacity)
    ∧ (reported ≠ 0 → effectiveCapacity classCapacity reported = min classCapacity reported)

/-- The figures of a lane-B delivery: the lowest level whose suffix count fits, or a truncation at level
7; the expected count never exceeds the effective capacity. -/
def Obligations.FitFiguresNeverExceedCapacity : Prop :=
  ∀ (capacity : Nat) (d : Digest),
    let f := fitBlock capacity d
    f.capacity = capacity ∧ f.expectCount ≤ capacity ∧ f.cutoff ≤ 7
    ∧ (∀ l : Fin 7, d.suffixCount l.val = d.levels[l.val].count + d.suffixCount (l.val + 1))
    ∧ d.suffixCount 7 = d.levels[7].count
    ∧ (∀ l : Fin 7, d.suffixSum l.val = d.levels[l.val].sum + d.suffixSum (l.val + 1))
    ∧ d.suffixSum 7 = d.levels[7].sum
    ∧ (f.truncated = true ↔ capacity < d.levels[7].count)
    ∧ (f.truncated = true → f.cutoff = 7 ∧ f.expectCount = capacity)
    ∧ (f.truncated = false → d.suffixCount f.cutoff ≤ capacity
        ∧ (∀ l < f.cutoff, capacity < d.suffixCount l)
        ∧ f.expectCount = d.suffixCount f.cutoff ∧ f.expectSum = d.suffixSum f.cutoff)

/-- A product record is written in the layout of section 11.1; written so it reads back whole, with what
follows it; and a STATUS a validator sends is read with every figure as sent. -/
def Obligations.RecordsReadBack : Prop :=
  (∀ r : ProductRecord,
     let optional (n : Nat) (v : Option Nat) : List Byte := match v with | some x => be n x | none => []
     encodeRecord r =
       be 2 r.code
         ++ be 1 ((if r.concession.isSome then 1 else 0) + (if r.lastDay.isSome then 2 else 0)
           + (if r.transfer.isSome then 4 else 0))
         ++ be 2 r.fare ++ be 2 r.firstDay ++ optional 2 r.concession ++ optional 2 r.lastDay
         ++ optional 1 r.transfer ++ be 1 r.zones.length ++ r.zones.map (BitVec.ofNat 8)) ∧
  (∀ (r : ProductRecord) (rest : List Byte),
     r.code ≤ 4095 → r.fare < 65536 → r.firstDay < 65536 →
     (∀ v, r.concession = some v → v < 65536) → (∀ v, r.lastDay = some v → v < 65536) →
     (∀ v, r.transfer = some v → 1 ≤ v ∧ v < 256) →
     1 ≤ r.zones.length → r.zones.length ≤ 8 → (∀ z ∈ r.zones, 1 ≤ z ∧ z < 256) →
     parseProductRecord (encodeRecord r ++ rest) = some (r, rest))
  ∧ (∀ (heldB stagedB heldP stagedP capacity : Nat) (readyB readyP : Bool),
     heldB < 2 ^ 24 → stagedB < 2 ^ 24 → heldP < 2 ^ 24 → stagedP < 2 ^ 24 → capacity < 65536 →
     parseReply 0x81
       (be 3 heldB ++ be 3 stagedB ++ be 1 (yesNo readyB) ++ be 3 heldP ++ be 3 stagedP
         ++ be 1 (yesNo readyP) ++ be 2 capacity) =
       if capacity ≤ 61440 then some (.status
         { held := { b := heldB, p := heldP }, staged := { b := stagedB, p := stagedP },
           ready := { b := readyB, p := readyP }, capacity := capacity })
       else none)

/-! ### The scanner's visits and reads -/

/-- A visit to a position that is not PRESENT is a POLL; at a PRESENT one a drop owed goes first, then
the delivery in progress, its figures fixed afresh after a failed attempt, then an addressed SWITCH,
with lane B before lane P. A delivery whose cursor stands at the region's end sends CLOSE before any
capacity check (log 38); that its figures are to be fixed afresh is a mark of the model's (log 24), and
a tally walk begins at any such visit (log 17). A frame sent is on the line and in flight, counts as an
exchange of its round, and the round goes on after its position (the frame handed over is kept, log 29).
A visit is made while the round is on, the bus IDLE, no BATCH being built and no broadcast waiting. -/
def Obligations.VisitChoosesTheFirstFrame : Prop :=
  (∀ (s : State) (pos : Fin 16) (frame : BusFrame) (next : Nat), s.sendTo pos frame next = { s with
    bus := { s.bus with
      link := .sending (.addressed
        { pos := pos, frame := frame, nextCursor := next, recordGone := false,
          deliveryGone := false }),
      line := busBytes (pos.val + 1) frame },
    scan := { s.scan with exchanged := true, nextPos := pos.val + 1 } })
  ∧ (∀ (s : State) (pos : Fin 16) (l : Lane) (d : Delivery),
    let v := s.validator pos
    s.setDelivery pos l d = { s with scan := { s.scan with
      records := s.scan.records.set pos
        { v with lanes := v.lanes.set l { v.lane l with delivery := d } } } })
  ∧ (∀ (s : State) (pos : Fin 16) (l : Lane) (cursor : Nat),
    s.startBuild pos l cursor = { s with scan := { s.scan with
      build := some { pos := pos, lane := l, cursor := cursor, items := [] },
      read := some (s.scan.read.getD .batch) } })
  ∧ (∀ s : State, s.visitDue = true ↔
    s.scan.phase = .visiting ∧ s.bus.link = .idle ∧ s.scan.build = none ∧ s.scan.broadcast = [])
  ∧ ∀ (s : State) (pos : Fin 16), s.visits pos →
    let v := s.validator pos
    let u := s.beginWalk pos
    let busy (l : Lane) : Prop := (v.lane l).delivery.state ≠ .idle
    ((v.presence = .seeking ∨ v.presence = .settling ∨ v.presence = .silent) →
      exec .scannerVisit s = .next (s.sendTo pos .poll 0))
    ∧ (v.presence = .present →
      ((v.lane .b).dropOwed ≠ 0 →
        exec .scannerVisit s = .next (u.sendTo pos (.drop .b (v.lane .b).dropOwed) 0))
      ∧ ((v.lane .b).dropOwed = 0 → (v.lane .p).dropOwed ≠ 0 →
        exec .scannerVisit s = .next (u.sendTo pos (.drop .p (v.lane .p).dropOwed) 0))
      ∧ ((v.lane .b).dropOwed = 0 → (v.lane .p).dropOwed = 0 →
        (∀ l, busy l → (l = .p → ¬ busy .b) →
          let d := (v.lane l).delivery
          (d.state = .opening → d.refix = false → exec .scannerVisit s = .next
            (u.sendTo pos (.open l d.target d.expectCount d.cutoff d.truncated) 0))
          ∧ (∀ f, d.state = .opening → d.refix = true → f = s.figures pos l d.target →
            ∃ t, exec .scannerVisit s = .next t
            ∧ ((t.validator pos).lane l).delivery =
                { state := .opening, target := d.target, capacity := f.capacity, cutoff := f.cutoff,
                  truncated := f.truncated, expectCount := f.expectCount, expectSum := f.expectSum,
                  running := 0, cursor := 0, sent := 0, batchNo := 1, attempts := d.attempts,
                  refix := false }
            ∧ t.bus = (s.sendTo pos (.open l d.target f.expectCount f.cutoff f.truncated) 0).bus
            ∧ t.scan.exchanged = true ∧ t.scan.nextPos = pos.val + 1
            ∧ (t.ctl.flags = if f.truncated then s.ctl.flags ||| EventFlag.truncated.bit
                else s.ctl.flags)
            ∧ (f.truncated = true → s.raises t [(.truncated,
              { position := pos.val + 1, lane := 1, generation := d.target, figure := f.capacity })])
            ∧ (f.truncated = false → s.raises t []))
          ∧ (d.state = .closing →
            exec .scannerVisit s = .next (u.sendTo pos (.close l d.target) 0))
          ∧ (d.state = .sending → (d.sent = d.expectCount ∨ s.size l ≤ d.cursor) →
            exec .scannerVisit s = .next
              ((u.setDelivery pos l { d with
                state := .closing,
                expectSum := if d.truncated then d.running else d.expectSum }).sendTo pos
                (.close l d.target) 0))
          ∧ (d.state = .sending → d.sent ≠ d.expectCount → d.cursor < s.size l →
            (l = .b → s.scan.roundNo % 8 = 0 →
              exec .scannerVisit s = .next (u.sendTo pos .poll 0))
            ∧ ((l = .p ∨ s.scan.roundNo % 8 ≠ 0) →
              exec .scannerVisit s = .next (u.startBuild pos l d.cursor))))
        ∧ (¬ busy .b → ¬ busy .p →
          (switchDue (s.lane .b) (v.lane .b) = true → exec .scannerVisit s = .next
            (u.sendTo pos (.switch .b (s.lane .b).active) 0))
          ∧ (switchDue (s.lane .b) (v.lane .b) = false →
            switchDue (s.lane .p) (v.lane .p) = true → exec .scannerVisit s = .next
              (u.sendTo pos (.switch .p (s.lane .p).active) 0)))))

/-- The target of a lane is ACTIVE for a validator that lags, or S of a READY lane for one that is current
(R150); an addressed SWITCH is due for a confirmed ACTIVE that is pending (R168). With no drop, delivery or
SWITCH in hand, a visit to a PRESENT validator starts the delivery of its first ready target, with figures
fixed from the digest of the target and the effective capacity (R96 to R99, R102; for lane P the class's
product capacity stands as that figure, log 41), marks a lane-P target that does not fit, or polls; a lane-P
target of unknown tally has its walk begun (R153, logs 17 and 27). -/
def Obligations.VisitStartsDelivery : Prop :=
  (∀ (s : State) (pos : Fin 16) (l : Lane) (g : Nat),
    let r := s.lane l
    let y := (s.validator pos).lane l
    let served : Prop := ∃ k, s.settings.roster[pos] = some k
      ∧ (l = .b → 1 ≤ s.settings.classes[k].capacity)
      ∧ (l = .p → s.settings.classes[k].takesProducts = true)
    let lags : Prop := r.active ≠ 0 ∧ y.held ≠ r.active ∧ y.pending ≠ r.active
      ∧ y.faulty ≠ r.active ∧ y.unfit ≠ r.active
    let current : Prop := r.state = .ready ∧ r.active ≠ 0 ∧ y.held = r.active
      ∧ y.pending ≠ r.stagedGen ∧ y.faulty ≠ r.stagedGen ∧ y.unfit ≠ r.stagedGen
    (s.target pos l = some g ↔
      served ∧ ((lags ∧ g = r.active) ∨ (¬ lags ∧ current ∧ g = r.stagedGen)))
    ∧ (switchDue r y = true ↔ r.active ≠ 0 ∧ y.pending = r.active ∧ y.held ≠ r.active
        ∧ y.delivery.state = .idle ∧ y.delivery.target = r.active ∧ y.faulty ≠ r.active))
  ∧ (∀ (s : State) (pos : Fin 16) (g : Nat) (k : Fin 8), s.settings.roster[pos] = some k →
    let digest (l : Lane) : Digest :=
      if g = (s.lane l).active then (s.lane l).activeDigest else (s.lane l).stagedDigest
    s.figures pos .b g =
      fitBlock (effectiveCapacity s.settings.classes[k].capacity (s.validator pos).lastCapacity)
        (digest .b)
    ∧ s.figures pos .p g =
      { capacity := s.settings.classes[k].productCapacity, cutoff := 0, truncated := false,
        expectCount := (digest .p).count, expectSum := (digest .p).sum }
    ∧ s.productCapacity pos = s.settings.classes[k].productCapacity)
  ∧ (∀ (t : Scanner) (g : Nat),
    (t.tallyOf g = none ↔ ∀ x ∈ t.tally, x.generation ≠ g)
    ∧ ∀ older x newer, t.tally = older ++ x :: newer → (∀ y ∈ older, y.generation ≠ g) →
      x.generation = g → t.tallyOf g = some x.tally)
  ∧ ∀ (s : State) (pos : Fin 16), s.visits pos →
    let v := s.validator pos
    let u := s.beginWalk pos
    v.presence = .present →
    (∀ g, s.target pos .p = some g → s.scan.walk = none → s.scan.tallyOf g = none →
      u = { s with scan := { s.scan with
        walk := some { generation := g, cursor := 0, tally := 0 },
        read := some (s.scan.read.getD .tally) } })
    ∧ ((s.target pos .p = none ∨ s.scan.walk ≠ none
        ∨ ∃ g tally, s.target pos .p = some g ∧ s.scan.tallyOf g = some tally) → u = s)
    ∧ ((∀ l, (v.lane l).dropOwed = 0 ∧ (v.lane l).delivery.state = .idle
      ∧ switchDue (s.lane l) (v.lane l) = false) →
    (∀ g f, s.target pos .b = some g → (v.lane .b).ready = true → f = s.figures pos .b g →
      ∃ t, exec .scannerVisit s = .next t
      ∧ (t.validator pos).lane .b = { v.lane .b with
          delivery :=
            { state := .opening, target := g, capacity := f.capacity, cutoff := f.cutoff,
              truncated := f.truncated, expectCount := f.expectCount, expectSum := f.expectSum,
              running := 0, cursor := 0, sent := 0, batchNo := 1, attempts := 0,
              refix := false } }
      ∧ t.bus = (s.sendTo pos (.open .b g f.expectCount f.cutoff f.truncated) 0).bus
      ∧ t.scan.exchanged = true ∧ t.scan.nextPos = pos.val + 1
      ∧ t.lanes = s.lanes ∧ t.store = s.store
      ∧ (t.ctl.flags = if f.truncated then s.ctl.flags ||| EventFlag.truncated.bit
          else s.ctl.flags)
      ∧ (f.truncated = true → s.raises t [(.truncated,
        { position := pos.val + 1, lane := 1, generation := g, figure := f.capacity })])
      ∧ (f.truncated = false → s.raises t []))
    ∧ ((s.target pos .b = none ∨ (v.lane .b).ready = false) →
      (∀ g tally, s.target pos .p = some g → (v.lane .p).ready = true →
        s.scan.tallyOf g = some tally →
        (tally ≤ s.productCapacity pos →
          ∃ t, exec .scannerVisit s = .next t
          ∧ ((t.validator pos).lane .p).delivery =
            (let f := s.figures pos .p g
            { state := .opening, target := g, capacity := f.capacity, cutoff := f.cutoff,
              truncated := f.truncated, expectCount := f.expectCount, expectSum := f.expectSum,
              running := 0, cursor := 0, sent := 0, batchNo := 1, attempts := 0, refix := false })
          ∧ t.bus = (s.sendTo pos (.open .p g (s.figures pos .p g).expectCount 0 false) 0).bus
          ∧ t.scan.exchanged = true ∧ t.scan.nextPos = pos.val + 1 ∧ s.raises t [])
        ∧ (s.productCapacity pos < tally →
          ∃ t, exec .scannerVisit s = .next t
          ∧ (t.validator pos).lane .p = { v.lane .p with unfit := g }
          ∧ t.ctl.flags = s.ctl.flags ||| EventFlag.unfit.bit
          ∧ s.raises t [(.unfit, { position := pos.val + 1, generation := g, figure := tally })]
          ∧ t.bus = (s.sendTo pos .poll 0).bus
          ∧ t.scan.exchanged = true ∧ t.scan.nextPos = pos.val + 1))
      ∧ ((s.target pos .p = none ∨ (v.lane .p).ready = false
          ∨ ∃ g, s.target pos .p = some g ∧ s.scan.tallyOf g = none) →
        exec .scannerVisit s = .next (u.sendTo pos .poll 0))))

/-- A granted read of the scanner: of the BATCH being built, which is sent when it is done, or CLOSE if
it is empty; of the tally walk, after which a BATCH that waits is read first, and whose tally enters the
table of four at the last slot. A slot qualifies for a BATCH, and counts in a tally, by the visibility of its
entry. -/
def Obligations.ScannerReadsOneSlot : Prop :=
  (∀ (s : State) (pos : Fin 16) (l : Lane),
    let d := ((s.validator pos).lane l).delivery
    (∀ k, s.settings.roster[pos] = some k → s.batchSize pos = s.settings.classes[k].batchSize)
    ∧ s.sendClose pos l =
      (s.setDelivery pos l { d with
        state := .closing, expectSum := if d.truncated then d.running else d.expectSum }).sendTo pos
        (.close l d.target) 0)
  ∧ (∀ s : State, s.power = .running → s.nextGrant = some .scanner →
    let read : State := { s with store := { s.store with lastGranted := .scanner } }
    (∀ b, s.scan.read = some .batch → s.scan.build = some b →
      let d := ((s.validator b.pos).lane b.lane).delivery
      let items := match (s.region b.lane).batchItem b.cursor d.target d.cutoff with
        | some i => b.items ++ [(b.cursor, i)]
        | none => b.items
      let done : Prop := s.batchSize b.pos ≤ items.length
        ∨ (d.truncated = true ∧ d.expectCount ≤ d.sent + items.length)
        ∨ s.size b.lane ≤ b.cursor + 1
      let built : State := { read with scan := { s.scan with
        build := none, read := s.scan.walk.map fun _ => .tally } }
      (¬ done → exec .batchSlotRead s = .next
        { read with scan := { s.scan with
            build := some { b with cursor := b.cursor + 1, items := items } } })
      ∧ (done → items = [] → exec .batchSlotRead s = .next (built.sendClose b.pos b.lane))
      ∧ (∀ before last i, done → items = before ++ [(last, i)] →
        exec .batchSlotRead s = .next
          (built.sendTo b.pos (.batch b.lane d.target d.batchNo (items.map Prod.snd)) (last + 1))))
    ∧ (∀ w, s.scan.read = some .tally → s.scan.walk = some w →
      let tally := w.tally + (s.region .p).tallyAt w.cursor w.generation
      let p := s.lane .p
      let kept (x : TallyEntry) : Prop := x.generation = p.active
        ∨ (p.state.holdsStaging = true ∧ x.generation = p.stagedGen)
      let entered (table : List TallyEntry) : State :=
        { read with scan := { s.scan with
            walk := none, read := s.scan.build.map fun _ => .batch,
            tally := table ++ [{ generation := w.generation, tally := tally }] } }
      (w.cursor + 1 < s.size .p → exec .tallySlotRead s = .next
        { read with scan := { s.scan with
            walk := some { w with cursor := w.cursor + 1, tally := tally },
            read := if s.scan.build = none then some .tally else some .batch } })
      ∧ (s.size .p ≤ w.cursor + 1 → s.scan.tally.length < 4 →
        exec .tallySlotRead s = .next (entered s.scan.tally))
      ∧ (∀ older x newer, s.size .p ≤ w.cursor + 1 → 4 ≤ s.scan.tally.length →
        s.scan.tally = older ++ x :: newer → (∀ y ∈ older, kept y) → ¬ kept x →
        exec .tallySlotRead s = .next (entered (older ++ newer)))))
  ∧ ∀ (m : Memory) (a g cutoff : Nat),
    let seen (added : Nat) (removed : Option Nat) : Prop :=
      added ≤ g ∧ ∀ r, removed = some r → g < r
    (∀ e, m.read a = some (.block e) → m.tallyAt a g = 0
      ∧ ((seen e.added e.removed ∧ cutoff ≤ e.priority.val) →
        m.batchItem a g cutoff = some (.block e.token e.priority))
      ∧ (¬(seen e.added e.removed ∧ cutoff ≤ e.priority.val) → m.batchItem a g cutoff = none))
    ∧ (∀ h, m.read a = some (.head h) →
      (¬ seen h.added h.removed → m.batchItem a g cutoff = none ∧ m.tallyAt a g = 0)
      ∧ (seen h.added h.removed →
        let carried (zones : List Nat) : Prop := m.batchItem a g cutoff = some (.product
          { code := h.code, fare := h.fare, concession := h.concession, firstDay := h.firstDay,
            lastDay := h.lastDay, transfer := h.transfer, zones := zones })
        (h.tail = none → m.tallyAt a g = 1 ∧ carried h.zones)
        ∧ (∀ t x, h.tail = some t → m.tallyAt a g = 2
          ∧ (m.read t = some (.tail x) → carried (h.zones ++ x.zones)))))
    ∧ ((m.read a = none ∨ ∃ x, m.read a = some (.tail x)) →
      m.batchItem a g cutoff = none ∧ m.tallyAt a g = 0)

/-! ### The validator bus -/

/-- The link's own steps: a broadcast handed over, a frame sent, the first start bit, the end of the
reply window, the idle gap. The model's readings: a broadcast counts as an exchange of its round (log 22), a
run of stray traffic is a state of the bus (log 19), and the frame handed over is kept (log 29). The part's
frames have the layouts of section 11.4; those of a delivery are OPEN, BATCH and CLOSE. -/
def Obligations.LinkGoesThroughItsStates : Prop :=
  (∀ (destination : Nat) (frame : BusFrame),
    let item (i : BatchItem) : List Byte := match i with
      | .block token priority => be 7 token ++ be 1 priority.val
      | .product r => encodeRecord r
    let named (l : Lane) (g : Nat) : List Byte := be 1 (laneCode l) ++ be 3 g
    let sent (type : Nat) (body : List Byte) : Prop :=
      let front : List Byte :=
        be 1 destination ++ be 1 0 ++ be 1 type ++ be 2 body.length ++ body
      busBytes destination frame = front ++ be 2 (crc front).toNat
    (frame = .poll → sent 1 [])
    ∧ (∀ l g count cutoff truncated, frame = .open l g count cutoff truncated →
      sent 2 (named l g ++ be 2 count ++ be 1 cutoff ++ be 1 (if truncated then 1 else 0)))
    ∧ (∀ l g number items, frame = .batch l g number items →
      sent 3 (named l g ++ be 2 number ++ be 1 items.length ++ items.flatMap item))
    ∧ (∀ l g, (frame = .close l g → sent 4 (named l g)) ∧ (frame = .switch l g → sent 5 (named l g))
      ∧ (frame = .drop l g → sent 6 (named l g)))
    ∧ ∀ l, frame.deliveryLane = some l ↔
      (∃ g n k c, frame = .open l g n k c) ∨ (∃ g n items, frame = .batch l g n items)
      ∨ ∃ g, frame = .close l g)
  ∧ (∀ (k : Link) (w : Switch), k.broadcastOnLine = some w ↔
    k = .sending (.broadcast w) ∨ k = .postBroadcast w)
  ∧ ∀ s : State, s.power = .running →
    (∀ w ws, s.scan.broadcast = w :: ws → s.bus.link = .idle → s.scan.build = none →
      exec .broadcastSwitch s = .next
        { s with
          bus := { s.bus with
            link := .sending (.broadcast w), line := busBytes 0 (.switch w.lane w.generation) },
          scan := { s.scan with
            exchanged := if s.scan.phase = .visiting then true else s.scan.exchanged } })
    ∧ (∀ x, s.bus.link = .sending (.addressed x) →
      exec .busFrameSent s = .next { s with bus := { s.bus with link := .waiting x } })
    ∧ (∀ w, s.bus.link = .sending (.broadcast w) →
      exec .busFrameSent s = .next { s with bus := { s.bus with link := .postBroadcast w } })
    ∧ (∀ x, s.bus.link = .waiting x →
      exec .replyStart s = .next { s with bus := { s.bus with link := .receiving x [] } }
      ∧ exec .replyWindowEnd s = .next
        { s with bus := { s.bus with link := .turnaround x (.miss .silent) } })
    ∧ (∀ x chars, s.bus.link = .receiving x chars → s.bus.strayRun = false →
      exec .lineIdleGap s = .next
        { s with bus := { s.bus with link := .turnaround x (.miss .damaged) } })
    ∧ ((s.bus.link = .idle ∨ (∃ x o, s.bus.link = .turnaround x o)
        ∨ (∃ w, s.bus.link = .postBroadcast w) ∨ s.bus.link = .postReset) →
      exec .replyStart s = .next { s with bus := { s.bus with strayRun := true } }
      ∧ (s.bus.strayRun = true → exec .lineIdleGap s = .next
        { s with bus := { s.bus with stray := min (s.bus.stray + 1) 65535, strayRun := false } }))

/-- A reply whose bytes have all arrived is judged: damaged by a framing error or its CRC, wrong by its
addresses, its contents or the frame it answers, and good otherwise. One that declares an overlong body takes
no further bytes, and like one cut short ends damaged at the line's idle gap. Its characters may come in
several commands: those taken in before count with those that come. A reply that no REPLY_START announced
carries its own start bit (log 19). -/
def Obligations.CompleteReplyIsJudged : Prop :=
  ∀ (s : State) (x : Addressed) (kept new : List RxChar), s.power = .running →
    (s.bus.link = .receiving x kept ∨ (s.bus.link = .waiting x ∧ kept = [])) →
    let unfinished (taken : List RxChar) : Prop := taken.length < 5
      ∨ (field (taken.map RxChar.byte) 3 2 ≤ 16
        ∧ taken.length < field (taken.map RxChar.byte) 3 2 + 7)
    let chars := kept ++ new
    let bytes := chars.map RxChar.byte
    let n := field bytes 3 2
    let linked (k : Link) : State := { s with bus := { s.bus with link := k } }
    (unfinished kept → n ≤ 16 → chars.length = n + 7 →
      let front := bytes.take (n + 5)
      ∃ o, exec (.replyReceived new) s = .next (linked (.turnaround x o))
      ∧ (chars.any RxChar.framingError = true → o = .miss .damaged)
      ∧ (bytes.drop (n + 5) ≠ be 2 (crc front).toNat → o = .miss .damaged)
      ∧ (chars.any RxChar.framingError = false →
        bytes.drop (n + 5) = be 2 (crc front).toNat →
        ((field bytes 0 1 ≠ 0 ∨ field bytes 1 1 ≠ x.pos.val + 1) → o = .miss .wrong)
        ∧ (field bytes 0 1 = 0 → field bytes 1 1 = x.pos.val + 1 →
          let sent (r : Reply) : Prop := r.isSent (field bytes 2 1) (front.drop 5)
          ((∀ r, ¬ sent r) → o = .miss .wrong)
          ∧ (∀ r, sent r → (x.frame.allows r → o = .good r)
            ∧ (¬ x.frame.allows r → o = .miss .wrong)))))
    ∧ (new ≠ [] → unfinished chars →
      exec (.replyReceived new) s = .next (linked (.receiving x chars)))
    ∧ (kept.length ≤ 5 → 5 ≤ chars.length → 16 < n →
      exec (.replyReceived new) s = .next (linked (.receiving x (chars.take 5))))
    ∧ ∀ taken, ∃ t, exec .lineIdleGap (linked (.receiving x taken)) = .next t
      ∧ t.bus.link = .turnaround x (.miss .damaged)

/-! ### Outcomes applied -/

/-- A miss at the end of its turnaround gap: the counters, the runs and presence; at the fourth in a row
the position is lost, LOST rises and its deliveries are abandoned. That the bus counters advance here is the
model's reading (log 18). -/
def Obligations.MissIsAppliedToPresence : Prop :=
  ∀ (s : State) (x : Addressed) (k : MissKind), s.ends x (.miss k) →
    let v := s.validator x.pos
    let missed : Validator := { v with missCounter := min (v.missCounter + 1) 65535 }
    let dropped (y : ValidatorLane) : ValidatorLane :=
      { y with delivery := if y.delivery.state = .idle then y.delivery else Delivery.idleWith 0 }
    ∃ t, exec .turnaroundGapEnd s = .next t
    ∧ t.bus.link = .idle
    ∧ t.bus.damaged = (if k = .damaged then min (s.bus.damaged + 1) 65535 else s.bus.damaged)
    ∧ t.bus.wrong = (if k = .wrong then min (s.bus.wrong + 1) 65535 else s.bus.wrong)
    ∧ t.bus.stray = s.bus.stray
    ∧ (∀ q, q ≠ x.pos → t.validator q = s.validator q)
    ∧ t.lanes = s.lanes ∧ t.store = s.store
    ∧ (¬(v.presence = .present ∧ 3 ≤ v.missRun) → s.raises t [])
    ∧ Delivery.idleWith 0 =
      { state := .idle, target := 0, capacity := 0, cutoff := 0, truncated := false,
        expectCount := 0, expectSum := 0, running := 0, cursor := 0, sent := 0, batchNo := 0,
        attempts := 0, refix := false }
    ∧ ((v.presence = .seeking ∨ v.presence = .silent) → t.validator x.pos = missed)
    ∧ (v.presence = .settling →
        t.validator x.pos = { missed with presence := .seeking, goodRun := 0 })
    ∧ (v.presence = .present → v.missRun < 3 →
        t.validator x.pos = { missed with missRun := v.missRun + 1 } ∧ t.ctl = s.ctl)
    ∧ (v.presence = .present → 3 ≤ v.missRun →
        t.validator x.pos = { missed with
          presence := .silent, missRun := 0,
          lanes := { b := dropped v.lanes.b, p := dropped v.lanes.p } }
        ∧ t.ctl.flags = s.ctl.flags ||| EventFlag.lost.bit
        ∧ s.raises t [(.lost, { position := x.pos.val + 1 })])

/-- A good STATUS in answer to a POLL or an addressed SWITCH: presence and its runs, the figures written
whatever they were, the stale test on both lanes, a lane-B delivery too large for the capacity reported
abandoned (R103, R157), and a switch not made marked faulty (R168, log 26). A confirmed generation is the
target of an IDLE sub-record (log 27). -/
def Obligations.GoodStatusIsWritten : Prop :=
  ∀ (s : State) (x : Addressed) (r : StatusReport), s.ends x (.good (.status r)) →
    (x.frame = .poll ∨ ∃ l g, x.frame = .switch l g) →
    (s.validator x.pos).presence ≠ .vacant →
    let v := s.validator x.pos
    let stale (l : Lane) : Prop := r.staged.get l ≠ 0
      ∧ ¬((r.staged.get l = (s.lane l).active
            ∨ ((s.lane l).state = .ready ∧ r.staged.get l = (s.lane l).stagedGen))
          ∧ (v.lane l).delivery.state = .idle ∧ r.staged.get l = (v.lane l).delivery.target)
    let short (l : Lane) : Prop := l = .b ∧ (v.lane l).delivery.state ≠ .idle
      ∧ r.capacity ≠ 0 ∧ r.capacity < (v.lane l).delivery.capacity
    let failed (l : Lane) : Prop := x.frame = .switch l (s.lane l).active
      ∧ r.staged.get l = (s.lane l).active ∧ r.held.get l ≠ (s.lane l).active
    let joins : Prop := v.presence = .settling ∧ 2 ≤ v.goodRun
    let joined : BitVec 16 := s.ctl.flags ||| EventFlag.joined.bit
    let joinedRise : EventFlag × AlertContext := (.joined, { position := x.pos.val + 1 })
    ∃ t, exec .turnaroundGapEnd s = .next t
    ∧ t.bus.link = .idle ∧ t.lanes = s.lanes ∧ t.store = s.store
    ∧ (∀ q, q ≠ x.pos → t.validator q = s.validator q)
    ∧ (t.validator x.pos).lastCapacity = r.capacity
    ∧ (t.validator x.pos).missCounter = v.missCounter
    ∧ (∀ l, let z := (t.validator x.pos).lane l
        z.held = r.held.get l ∧ z.pending = r.staged.get l ∧ z.ready = r.ready.get l
        ∧ z.unfit = (v.lane l).unfit
        ∧ (failed l → z.faulty = (s.lane l).active)
        ∧ (¬ failed l → z.faulty = (v.lane l).faulty)
        ∧ (short l → z.delivery = Delivery.idleWith 0)
        ∧ (¬ short l → z.delivery = (v.lane l).delivery)
        ∧ (stale l → z.dropOwed = r.staged.get l)
        ∧ (¬ stale l → z.dropOwed = (v.lane l).dropOwed))
    ∧ ((v.presence = .seeking ∨ v.presence = .silent) →
        (t.validator x.pos).presence = .settling ∧ (t.validator x.pos).goodRun = 0)
    ∧ (v.presence = .settling → v.goodRun < 2 →
        (t.validator x.pos).presence = .settling
        ∧ (t.validator x.pos).goodRun = v.goodRun + 1)
    ∧ (joins →
        (t.validator x.pos).presence = .present ∧ (t.validator x.pos).missRun = 0)
    ∧ (v.presence = .present →
        (t.validator x.pos).presence = .present ∧ (t.validator x.pos).missRun = 0)
    ∧ (¬ joins → (∀ l, ¬ failed l) → t.ctl = s.ctl ∧ s.raises t [])
    ∧ (joins → (∀ l, ¬ failed l) → t.ctl.flags = joined ∧ s.raises t [joinedRise])
    ∧ (∀ l, failed l →
        let faultRise : EventFlag × AlertContext := (.deliveryFault,
          { position := x.pos.val + 1, lane := laneCode l, generation := (s.lane l).active })
        (¬ joins → t.ctl.flags = s.ctl.flags ||| EventFlag.deliveryFault.bit
          ∧ s.raises t [faultRise])
        ∧ (joins → t.ctl.flags = joined ||| EventFlag.deliveryFault.bit
          ∧ s.raises t [joinedRise, faultRise]))

/-- The good replies to a PRESENT validator's delivery and DROP frames, each with its effect on the
sub-record and the marks of its lane. A reply for a delivery abandoned meanwhile acts on presence and the
reported capacity alone (R161); the outcome for a record set up anew meanwhile on the bus counters alone
(R143). The model's readings: the bus counters advance here (log 18), a mark says that figures are to be fixed
afresh (log 24), and a confirmed generation is the target of an IDLE sub-record (log 27). -/
def Obligations.DeliveryRepliesAct : Prop :=
  (∀ (s : State) (x : Addressed) (r : Reply), s.ends x (.good r) →
    (s.validator x.pos).presence = .present → x.deliveryGone = false →
    ∀ l, let v := s.validator x.pos
    let y := v.lane l
    let d := y.delivery
    let left (capacity : Nat) (z : ValidatorLane) (t : State) : Prop := t.validator x.pos =
      { v with missRun := 0, lastCapacity := capacity, lanes := v.lanes.set l z }
    let failed (owed : Bool) (capacity : Nat) (t : State) : Prop :=
      let z : ValidatorLane := { y with dropOwed := if owed then d.target else y.dropOwed }
      (d.attempts + 1 < 3 → left capacity
          { z with delivery :=
            { d with state := .opening, attempts := d.attempts + 1, refix := true } } t
        ∧ s.raises t [])
      ∧ (3 ≤ d.attempts + 1 → left capacity
          { z with delivery := Delivery.idleWith 0, faulty := d.target } t
        ∧ t.ctl.flags = s.ctl.flags ||| EventFlag.deliveryFault.bit
        ∧ s.raises t [(.deliveryFault,
          { position := x.pos.val + 1, lane := laneCode l, generation := d.target })])
    ∃ t, exec .turnaroundGapEnd s = .next t ∧ t.bus.link = .idle
    ∧ t.lanes = s.lanes ∧ t.store = s.store
    ∧ (∀ q, q ≠ x.pos → t.validator q = s.validator q)
    ∧ (∀ g n k c, x.frame = .open l g n k c →
      (r = .accept → left v.lastCapacity { y with
        pending := 0,
        delivery := { d with state := .sending, cursor := 0, sent := 0, batchNo := 1,
                             running := 0 } } t ∧ s.raises t [])
      ∧ (r = .refuseBusy → left v.lastCapacity y t ∧ s.raises t [])
      ∧ (∀ cap, r = .refuseCapacity cap →
        (cap < d.expectCount → left cap { y with delivery := { d with refix := true } } t
          ∧ s.raises t [])
        ∧ (d.expectCount ≤ cap → failed true cap t)))
    ∧ (∀ g n items, x.frame = .batch l g n items → r = .ack (some n) →
      left v.lastCapacity { y with delivery := { d with
        sent := d.sent + items.length, cursor := x.nextCursor, batchNo := d.batchNo + 1,
        running := if d.truncated then (items.map BatchItem.weight).foldl (· + ·) d.running
          else d.running } } t ∧ s.raises t [])
    ∧ (∀ g, x.frame = .close l g →
      (∀ count sum, r = .confirm count sum → count = d.expectCount → sum = d.expectSum →
        left v.lastCapacity { y with pending := d.target, delivery := Delivery.idleWith d.target } t
        ∧ s.raises t [])
      ∧ (∀ count sum, r = .confirm count sum → (count ≠ d.expectCount ∨ sum ≠ d.expectSum) →
        failed true v.lastCapacity t)
      ∧ (r = .refuseGeneration → failed false v.lastCapacity t))
    ∧ (∀ g, x.frame = .drop l g → r = .ack none → left v.lastCapacity { y with
        pending := if y.pending = g then 0 else y.pending,
        dropOwed := if y.dropOwed = g then 0 else y.dropOwed } t ∧ s.raises t []))
  ∧ (∀ (s : State) (x : Addressed) (r : Reply), s.ends x (.good r) →
    (s.validator x.pos).presence = .present → x.deliveryGone = true →
    x.frame.deliveryLane ≠ none → (∀ report, r ≠ .status report) →
    let v := s.validator x.pos
    ∃ t, exec .turnaroundGapEnd s = .next t ∧ t.bus.link = .idle
    ∧ t.lanes = s.lanes ∧ t.store = s.store ∧ t.ctl = s.ctl
    ∧ (∀ q, q ≠ x.pos → t.validator q = s.validator q)
    ∧ (∀ cap, r = .refuseCapacity cap →
      t.validator x.pos = { v with missRun := 0, lastCapacity := cap })
    ∧ ((∀ cap, r ≠ .refuseCapacity cap) → t.validator x.pos = { v with missRun := 0 }))
  ∧ ∀ (s : State) (x : Addressed) (o : ExchangeOutcome), s.power = .running →
    s.bus.link = .turnaround x o → x.recordGone = true →
    ∃ t, exec .turnaroundGapEnd s = .next t
    ∧ t.bus = { s.bus with
        link := .idle,
        damaged := if o = .miss .damaged then min (s.bus.damaged + 1) 65535 else s.bus.damaged,
        wrong := if o = .miss .wrong then min (s.bus.wrong + 1) 65535 else s.bus.wrong }
    ∧ t.scan.records = s.scan.records ∧ t.lanes = s.lanes ∧ t.store = s.store ∧ t.ctl = s.ctl

/-- The outcome sent for a broadcast SWITCH switches every PRESENT validator that has its generation
pending, and no other (R167). -/
def Obligations.BroadcastSwitchesThePending : Prop :=
  ∀ (s : State) (w : Switch), s.power = .running → s.bus.link = .postBroadcast w →
    ∃ t, exec .postBroadcastGapEnd s = .next t
    ∧ t.bus = { s.bus with link := .idle } ∧ t.scan.broadcast = s.scan.broadcast.tail
    ∧ t.lanes = s.lanes ∧ t.store = s.store ∧ t.ctl = s.ctl ∧ t.uplink = s.uplink
    ∧ ∀ pos, let v := s.validator pos
      let y := v.lane w.lane
      (v.presence = .present → y.pending = w.generation → t.validator pos =
        { v with lanes := v.lanes.set w.lane { y with held := w.generation, pending := 0 } })
      ∧ (¬(v.presence = .present ∧ y.pending = w.generation) → t.validator pos = v)

/-- A round visits, in rising order, the occupied positions that are not SILENT, and those too when its
number is a multiple of 8. It ends when none is left: in a pause if it was quiet or empty, and otherwise
in the next round, behind a waiting broadcast; once the last waiting SWITCH has been sent, a round due
begins. A pause ends with its quiet interval or at a report, and every lane report reaches the scanner so;
the post-reset gap is followed by round 0. When the end is looked for, and that a round which finds nobody
to visit pauses again, are the model's reading (log 22); so are the test of both roster and presence
(log 31), and the advance of the bus counters at the end of the gap (log 18). -/
def Obligations.RoundsBeginAfterPauseAndReset : Prop :=
  ∀ s : State,
    let began (number : Nat) (t : State) : Prop :=
      t.beginsRound number ∧ t.scan.records = s.scan.records
      ∧ t.scan.broadcast = s.scan.broadcast ∧ t.lanes = s.lanes ∧ t.settings = s.settings
    let paused : State := { s with scan := { s.scan with
      phase := .paused (250 * 2 ^ s.settings.quiet.val) } }
    let next (t : State) : Prop :=
      t.bus = s.bus
      ∧ (s.scan.broadcast = [] → began ((s.scan.roundNo + 1) % 65536) t)
      ∧ (s.scan.broadcast ≠ [] → t = { s with scan := { s.scan with phase := .roundDue } })
    let visited (pos : Fin 16) : Prop :=
      s.scan.nextPos ≤ pos.val ∧ s.settings.roster[pos] ≠ none
      ∧ ((s.validator pos).presence = .seeking ∨ (s.validator pos).presence = .settling
        ∨ (s.validator pos).presence = .present
        ∨ ((s.validator pos).presence = .silent ∧ s.scan.roundNo % 8 = 0))
    let works (pos : Fin 16) (l : Lane) : Prop :=
      let y := (s.validator pos).lane l
      (∃ g, s.target pos l = some g) ∨ y.delivery.state ≠ .idle
      ∨ switchDue (s.lane l) y = true ∨ y.dropOwed ≠ 0
    let quiet : Prop :=
      (∀ l, (s.lane l).state = .idle)
      ∧ (∀ pos, (s.validator pos).presence = .present → ∀ l, ¬ works pos l)
      ∧ s.scan.broadcast = [] ∧ s.scan.reported = false
    let woken (t : State) : Prop := s.hearsReport t
      ∧ ∃ u : State, t = u.wakeScan ∧ u.scan.phase = s.scan.phase
        ∧ u.scan.roundNo = s.scan.roundNo ∧ u.settings = s.settings ∧ u.lanes = s.lanes
    (∀ pos, s.nextVisit = some pos ↔ visited pos ∧ ∀ q < pos, ¬ visited q)
    ∧ (s.nextVisit = none ↔ ∀ q, ¬ visited q)
    ∧ (∀ pos, s.scan.phase = .visiting → s.nextVisit = some pos → s.settleScan = s)
    ∧ (s.scan.phase = .visiting → s.nextVisit = none →
      ((quiet ∨ s.scan.exchanged = false) → s.settleScan = paused)
      ∧ (¬ quiet → s.scan.exchanged = true → next s.settleScan)
      ∧ (s.power = .running → s.bus.link = .idle → s.scan.build = none → s.scan.broadcast = [] →
        exec .scannerVisit s = .next s.settleScan))
    ∧ (s.scan.phase = .roundDue → next s.settleScan ∧ next s.wakeScan)
    ∧ (∀ ms, s.scan.phase = .paused ms → s.settleScan = s ∧ next s.wakeScan)
    ∧ ((s.scan.phase = .visiting ∨ s.scan.phase = .awaitReset) →
      s.wakeScan = { s with scan := { s.scan with reported := true } })
    ∧ (s.scan.phase = .awaitReset → s.settleScan = s)
    ∧ woken s.reportStaging
    ∧ (∀ l g, woken (s.reportGone l g) ∧ woken (s.reportActivated l g)
      ∧ woken (s.reportRollback l g) ∧ woken (s.reportCleared l))
    ∧ (∀ x o, s.power = .running → s.bus.link = .turnaround x o →
      let counted : State := { s with bus := { s.bus.countOutcome o with link := .idle } }
      (x.recordGone = false →
        exec .turnaroundGapEnd s = .next (counted.applyOutcome x o).settleScan)
      ∧ (x.recordGone = true → exec .turnaroundGapEnd s = .next counted.settleScan))
    ∧ (s.power = .running →
      (∀ ms, s.scan.phase = .paused ms → ∃ t, exec .quietIntervalEnd s = .next t ∧ next t)
      ∧ (s.bus.link = .postReset →
        ∃ t, exec .postResetGapEnd s = .next t ∧ t.bus = { s.bus with link := .idle }
        ∧ began 0 t)
      ∧ ∀ w, s.bus.link = .postBroadcast w →
        ∃ u t : State, exec .postBroadcastGapEnd s = .next t ∧ t = u.settleScan
        ∧ u = { s with
            bus := { s.bus with link := .idle },
            scan := { s.scan with broadcast := s.scan.broadcast.tail, records := u.scan.records } }
        ∧ (s.scan.phase = .roundDue → s.scan.broadcast.length ≤ 1 →
          t.beginsRound ((s.scan.roundNo + 1) % 65536)))

/-! ### Commands of the control unit -/

/-- What a command does when it is not carried out: unknown codes and arguments that cannot be read are
answered and change nothing else, and no command is taken while one is in flight but a STATUS, which is
answered ARGUMENT out of turn too where it has arguments, and waits without room or behind a RESTART.
The arguments read are exactly those of the layouts and ranges of section 11.1 and of each command's
rule. The model's choices: that an unknown code is taken by any command's step (log 7), and that the ANSWER
echoes the identifier of its CONTROL, also after the identifier has changed (log 37). -/
def Obligations.RefusedCommandOnlyAnswers : Prop :=
  (∀ (s : State) (args : List Byte),
    (∀ l, argLane args = some l ↔ args = be 1 (laneCode l))
    ∧ (∀ k, argSplit args = some k ↔ args = be 1 k.val)
    ∧ (∀ l stream, argSubscribe args = some (l, stream) ↔
      stream ≤ 65535 ∧ args = be 1 (laneCode l) ++ be 2 stream)
    ∧ (∀ (c : Fin 8) (f : ClassRec), argSetClass args = some (c, f) ↔
      f.capacity ≤ 61440 ∧ f.productCapacity ≤ 16384 ∧ 1 ≤ f.batchSize ∧ f.batchSize ≤ 32
      ∧ args = be 1 c.val ++ be 2 f.capacity ++ be 1 (if f.takesProducts then 1 else 0)
          ++ be 2 f.productCapacity ++ be 1 f.batchSize)
    ∧ (∀ (pos : Fin 16) (entry : Option (Fin 8)), argSetPosition args = some (pos, entry) ↔
      args = be 1 (pos.val + 1) ++ be 1 (match entry with | some c => c.val | none => 255))
    ∧ (∀ (quiet : Fin 4) (period : Fin 13), argSetTiming args = some (quiet, period) ↔
      args = be 1 quiet.val ++ be 1 period.val)
    ∧ (∀ a, argSetAddressing args = some a ↔
      a.unitMac.toNat / 2 ^ 40 % 2 = 0 ∧ 1536 ≤ a.etherType.toNat
      ∧ args = be 1 a.unitId.toNat ++ be 6 a.unitMac.toNat ++ be 6 a.groupMac.toNat
          ++ be 6 a.gatewayMac.toNat ++ be 2 a.etherType.toNat)
    ∧ (∀ mask value, argEvents args = some (mask, value) ↔
      args = be 2 mask.toNat ++ be 2 value.toNat)
    ∧ (∀ mask, argMask args = some mask ↔ args = be 2 mask.toNat)
    ∧ (∀ l slot count, argInspect s.size args = some (l, slot, count) ↔
      slot < s.size l ∧ 1 ≤ count ∧ count ≤ 16
      ∧ args = be 1 (laneCode l) ++ be 2 slot ++ be 1 count)
    ∧ ∀ count, argInspectNext args = some count ↔ 1 ≤ count ∧ count ≤ 16 ∧ args = be 1 count)
  ∧ ∀ (c : Instr) (code : Nat) (s : State), commandCode c = some code → s.power = .running →
    (∀ m, s.ctl.command = .available → s.uplink.control.head? = some m →
      ¬(1 ≤ m.code.toNat ∧ m.code.toNat ≤ 17) →
      exec c s = .next (s.popControl.answer m.head .unknown []))
    ∧ (∀ m, s.takes m code →
      (match c with
        | .status | .save | .restart => m.args ≠ []
        | .setSplit => argSplit m.args = none
        | .subscribe => argSubscribe m.args = none
        | .setClass => argSetClass m.args = none
        | .setPosition => argSetPosition m.args = none
        | .setTiming => argSetTiming m.args = none
        | .setAddressing => argSetAddressing m.args = none
        | .events => argEvents m.args = none
        | .acknowledge => argMask m.args = none
        | .hold | .release | .rollback | .clear => argLane m.args = none
        | .inspect => argInspect s.size m.args = none
        | .inspectNext => argInspectNext m.args = none
        | _ => False) →
      exec c s = .next (s.popControl.answer m.head .argument []))
    ∧ (s.ctl.command ≠ .available → c ≠ .status → exec c s = .next s)
    ∧ (∀ a, s.ctl.command = .placing a → exec c s = .next s)
    ∧ (∀ h w m, s.ctl.command = .carryingOut h w → s.uplink.control.head? = some m →
      m.code.toNat = 1 → m.args ≠ [] →
      (w ≠ .restart → s.uplink.egress.length < 8 →
        exec .status s = .next { s with uplink := { s.uplink with
          control := s.uplink.control.tail,
          egress := s.uplink.egress ++
            [{ kind := .answer, body := [m.unitId, m.tag, m.code, 2],
               unitMac := s.settings.addressing.unitMac,
               gatewayMac := s.settings.addressing.gatewayMac,
               etherType := s.settings.addressing.etherType, restart := false }] } })
      ∧ ((w = .restart ∨ 8 ≤ s.uplink.egress.length) → exec .status s = .next s))

/-- HOLD, RELEASE, EVENTS and ACKNOWLEDGE, each answered DONE at once; SET-ADDRESSING takes effect once its
ANSWER is placed, and the ANSWER leaves with the addresses in force before. RELEASE's ALERT comes before its
ANSWER (log 14). That the ANSWER of a SET-ADDRESSING queued under an identifier since replaced echoes that
identifier is the model's choice (log 37). -/
def Obligations.HoldEventsAndAddressing : Prop :=
  (∀ (s : State) (m : ControlMessage),
     let h := m.head
     let u := s.popControl
     (∀ l, argLane m.args = some l →
       (s.takes m 10 → exec .hold s = .next
         ((u.setLane l { s.lane l with hold := true }).answer h .done []))
       ∧ (s.takes m 11 → exec .release s = .next
         (((u.setLane l { s.lane l with hold := false }).testActivation l).answer h .done [])))
     ∧ (∀ mask value, argEvents m.args = some (mask, value) → s.takes m 8 →
       let enables := (s.settings.enables &&& ~~~mask) ||| (value &&& mask)
       exec .events s = .next
         (({ u with settings := { s.settings with enables := enables } } : State).answer h .done
           (be 2 s.ctl.flags.toNat ++ be 2 enables.toNat)))
     ∧ (∀ mask, argMask m.args = some mask → s.takes m 9 →
       let flags := s.ctl.flags &&& ~~~mask
       exec .acknowledge s = .next
         (({ u with ctl := { s.ctl with flags := flags } } : State).answer h .done
           (be 2 flags.toNat ++ be 2 s.settings.enables.toNat))))
  ∧ (∀ (s : State) (m : ControlMessage) (a : Addressing), s.takes m 7 →
     argSetAddressing m.args = some a →
     let body : List Byte := [m.unitId, m.tag, m.code, 0]
     a.unitMac.toNat / 2 ^ 40 % 2 = 0 ∧ 1536 ≤ a.etherType.toNat
     ∧ (s.uplink.egress.length < 8 →
       exec .setAddressing s = .next
         { s with
           uplink := { s.uplink with
             control := s.uplink.control.tail,
             egress := s.uplink.egress ++
               [{ kind := .answer, body := body, unitMac := s.settings.addressing.unitMac,
                  gatewayMac := s.settings.addressing.gatewayMac,
                  etherType := s.settings.addressing.etherType, restart := false }] },
           settings := { s.settings with addressing := a } })
     ∧ (8 ≤ s.uplink.egress.length →
       exec .setAddressing s = .next
         { s.popControl with ctl := { s.ctl with
             command := .placing
               { head := m.head, body := body, addressing := some a, restart := false } } }))

/-- SET-TIMING stores both settings; a changed report period restarts the report timer (R178). -/
def Obligations.SetTimingStoresBothSettings : Prop :=
  (∀ (s : State) (m : ControlMessage), s.takes m 6 →
    ((m.args.length ≠ 2 ∨ 3 < field m.args 0 1 ∨ 12 < field m.args 1 1) →
      exec .setTiming s = .next (s.popControl.answer m.head .argument []))
    ∧ (∀ (quiet : Fin 4) (period : Fin 13), m.args = be 1 quiet.val ++ be 1 period.val →
      s.standingDue = false →
      exec .setTiming s = .next
        (({ s.popControl with
            settings := { s.settings with quiet := quiet, period := period },
            ctl := { s.ctl with
              reportTimer := if period = s.settings.period then s.ctl.reportTimer else 0 } } : State
          ).answer m.head .done [])))
  ∧ ∀ s : State, s.pause.scan.phase = .paused (250 * 2 ^ s.settings.quiet.val)

/-- SET-SPLIT, SET-CLASS and SET-POSITION: refused, without effect on the settings, or carried out whole,
and answered. A SET-SPLIT is tested for its state first (log 15). A SET-CLASS or SET-POSITION reaches the
scanner with or without a change (log 16); one with a change ends a pause (log 22 for the round that begins),
gives up the BATCH being built for a delivery it abandons, and marks the exchange on the line of one. The
regions have the sizes of R49, and a record set up anew the values of R139. -/
def Obligations.SplitClassAndPositionCommands : Prop :=
  (∀ s : State, s.size .b = 61440 - 4096 * s.settings.split.val
    ∧ s.size .p = 4096 + 4096 * s.settings.split.val)
  ∧ (let bare : ValidatorLane :=
      { held := 0, pending := 0, ready := false, delivery := Delivery.idleWith 0, faulty := 0,
        unfit := 0, dropOwed := 0 }
    let anew (presence : Presence) : Validator :=
      { presence := presence, goodRun := 0, missRun := 0, lastCapacity := 0, missCounter := 0,
        lanes := { b := bare, p := bare } }
    Validator.anew none = anew .vacant ∧ ∀ c, Validator.anew (some c) = anew .seeking)
  ∧ ∀ (s : State) (m : ControlMessage),
    let h := m.head
    let u := s.popControl
    let kept (drop : Bool) (y : ValidatorLane) : ValidatorLane :=
      if drop then
        { y with
          delivery := if y.delivery.state = .idle then y.delivery else Delivery.idleWith 0,
          faulty := 0, unfit := 0 }
      else y
    let heard : State := { u with scan := { s.scan with reported := true } }
    let delivers (x : Addressed) : Prop := ∃ l, x.frame.deliveryLane = some l
      ∧ ((s.validator x.pos).lane l).delivery.state ≠ .idle
    let rebuilds (t : State) (ended : Fin 16 → Prop) : Prop :=
      let kept : Prop := t.scan.build = s.scan.build ∧ t.scan.read = s.scan.read
      t.scan.walk = s.scan.walk ∧ (s.scan.build = none → kept)
      ∧ ∀ b, s.scan.build = some b →
        let ends : Prop := ended b.pos ∧ ((s.validator b.pos).lane b.lane).delivery.state ≠ .idle
        (ends → t.scan.build = none ∧ (s.scan.phase = .visiting → t.scan.nextPos = b.pos.val)
          ∧ t.scan.read = if s.scan.read = some .batch then s.scan.walk.map fun _ => .tally
              else s.scan.read)
        ∧ (¬ ends → kept)
    let changed (t : State) : Prop :=
      t.lanes = s.lanes ∧ t.store = s.store ∧ t.clock = s.clock ∧ t.ctl = s.ctl
      ∧ t.uplink = u.uplink ∧ t.sweeper = s.sweeper ∧ t.scan.broadcast = s.scan.broadcast
      ∧ t.bus = { s.bus with link := t.bus.link } ∧ s.hearsReport t
    (∀ k, argSplit m.args = some k → s.takes m 2 →
      let bare : Prop := ∀ l, (s.lane l).state = .idle ∧ (s.lane l).active = 0
        ∧ (s.lane l).history = []
      (¬ bare → exec .setSplit s = .next (u.answer h .state []))
      ∧ (bare → k = s.settings.split → exec .setSplit s = .next (u.answer h .done []))
      ∧ (bare → k ≠ s.settings.split → exec .setSplit s = .next
        (({ u with
            settings := { s.settings with split := k },
            store := { s.store with
              regions := { b := [], p := [] },
              free := { b := 61440 - 4096 * k.val, p := 4096 + 4096 * k.val } },
            ctl := { s.ctl with inspectLane := .b, inspectSlot := 0 } } : State
          ).answer h .done [])))
    ∧ (∀ c f, argSetClass m.args = some (c, f) → s.takes m 4 →
      (s.settings.classes[c] = f → exec .setClass s = .next (heard.answer h .done []))
      ∧ (s.settings.classes[c] ≠ f → ∃ t, exec .setClass s = .next (t.answer h .done [])
        ∧ t.settings = { s.settings with classes := s.settings.classes.set c f } ∧ changed t
        ∧ rebuilds t (fun pos => s.settings.roster[pos] = some c)
        ∧ (s.bus.link.addressed = none → t.bus.link = s.bus.link)
        ∧ (∀ x, s.bus.link.addressed = some x →
          ((s.settings.roster[x.pos] = some c ∧ delivers x) →
            t.bus.link.addressed = some { x with deliveryGone := true })
          ∧ (¬(s.settings.roster[x.pos] = some c ∧ delivers x) → t.bus.link = s.bus.link))
        ∧ ∀ pos, let names : Bool := decide (s.settings.roster[pos] = some c)
          t.validator pos = { s.validator pos with lanes :=
            { b := kept names (s.validator pos).lanes.b,
              p := kept names (s.validator pos).lanes.p } }))
    ∧ (∀ pos entry, argSetPosition m.args = some (pos, entry) → s.takes m 5 →
      (s.settings.roster[pos] = entry → exec .setPosition s = .next (heard.answer h .done []))
      ∧ (s.settings.roster[pos] ≠ entry → ∃ t, exec .setPosition s = .next (t.answer h .done [])
        ∧ t.settings = { s.settings with roster := s.settings.roster.set pos entry } ∧ changed t
        ∧ rebuilds t (fun q => q = pos)
        ∧ (s.bus.link.addressed = none → t.bus.link = s.bus.link)
        ∧ (∀ x, s.bus.link.addressed = some x →
          (x.pos = pos → ∃ x', t.bus.link.addressed = some x' ∧ x'.recordGone = true
            ∧ (delivers x → x' = { x with recordGone := true, deliveryGone := true })
            ∧ (¬ delivers x → x' = { x with recordGone := true }))
          ∧ (x.pos ≠ pos → t.bus.link = s.bus.link))
        ∧ t.validator pos = Validator.anew entry
        ∧ ∀ q, q ≠ pos → t.validator q = s.validator q))

/-- CLEAR, and SUBSCRIBE to another stream, empty the lane record at once, abandon its deliveries and
request a CLEAR, at once or with the sweep already deferred (log 39 for an item being finished); SUBSCRIBE to
the stream followed is answered, and to the other lane's is refused. Logs 21, 22 and 27 are the model's
readings of a SWITCH on the line, of the round a report begins, and of a confirmation. -/
def Obligations.ClearAndSubscribeEmptyTheLane : Prop :=
  ∀ (s : State) (m : ControlMessage) (l : Lane),
    let r := s.lane l
    let accepted (cmd : LaneCommand) (t : State) : Prop :=
      let staged : Bool := r.state.holdsStaging
      t.lane l = { r with
        active := 0, activeDigest := Digest.zero, history := [], floor := 0,
        state := .discarding, pendingCommand := some cmd,
        lastReason := if staged then .aborted else r.lastReason,
        discards := if staged then min (r.discards + 1) 65535 else r.discards,
        undoDeferred := if r.state = .retiring then true else r.undoDeferred }
      ∧ t.lane l.other = s.lane l.other ∧ t.settings = s.settings ∧ t.clock = s.clock
      ∧ t.store.regions = s.store.regions ∧ t.store.free = s.store.free
      ∧ t.ctl.command = .carryingOut m.head (.lane l)
      ∧ t.ctl.flags = (if staged then s.ctl.flags ||| (EventFlag.discarded l).bit
          else s.ctl.flags)
      ∧ (staged = true → s.raises t [(.discarded l,
          { lane := laneCode l, generation := r.stagedGen, detail := 6 })])
      ∧ (staged = false → s.raises t [])
      ∧ s.givesUpBuild t l (fun _ => True)
      ∧ ((∀ w, s.scan.walk = some w → w.generation ≠ 0) → s.keepsWalk t)
      ∧ (staged = true → s.givesUpSegment t l .clear
        ∧ s.changesLaneRecords t l (fun x y => ∃ z : ValidatorLane,
          z.isWhenGone y r.active r.stagedGen ∧ x.isWhenMoved z 0 (fun _ => True)))
      ∧ (staged = false → t.store = s.store
        ∧ t.sweeper = (if r.state = .discarding
            ∧ (r.undoDeferred = true ∨ s.store.engine.finishes l = true)
          then s.sweeper else (s.requestSweep l .clear false).sweeper)
        ∧ s.changesLaneRecords t l (fun x y => x.isWhenMoved y 0 (fun _ => True)))
      ∧ t.uplink.control = s.uplink.control.tail ∧ t.uplink.ingress = s.uplink.ingress
      ∧ t.uplink.checkedHead = s.uplink.checkedHead
      ∧ (staged = true →
        s.hearsTwoReports t (fun u => (u.lane l).state = .discarding ∧ (u.lane l).active = r.active
          ∧ u.lane l.other = s.lane l.other ∧ s.reportsGone u l r.stagedGen))
      ∧ (staged = false → s.hearsReport t)
      ∧ s.marksExchange t l (fun _ => True) ∧ s.dropsSwitch t l
      ∧ t.scan.tally = (if l = .p then [] else s.scan.tally)
    (r.state.holdsStaging = true ↔
      r.state = .retiring ∨ r.state = .staging ∨ r.state = .ready)
    ∧ (r.stagedGen = match r.staged with | some n => n.g | none => 0)
    ∧ (s.store.engine.finishes l = true ↔
      ∃ seg pos, s.store.engine = .finishing seg pos ∧ seg.lane = l)
    ∧ (argLane m.args = some l → s.takes m 13 →
      ∃ t, exec .clear s = .next t ∧ accepted .clear t)
    ∧ (∀ stream, argSubscribe m.args = some (l, stream) → s.takes m 3 →
      (stream = s.settings.subs.get l →
        exec .subscribe s = .next (s.popControl.answer m.head .done []))
      ∧ (stream ≠ s.settings.subs.get l → stream ≠ 0 → stream = s.settings.subs.get l.other →
        exec .subscribe s = .next (s.popControl.answer m.head .argument []))
      ∧ (stream ≠ s.settings.subs.get l → (stream = 0 ∨ stream ≠ s.settings.subs.get l.other) →
        ∃ t, exec .subscribe s = .next t ∧ accepted (.subscribe stream) t))

/-- ROLLBACK: refused with an empty history or in DISCARDING; complete and answered DONE at once in IDLE;
and otherwise a discard with the rollback pending, which the completion of the UNDO answers. The model's: the
ALERT before the ANSWER (log 14), a SWITCH on the line (log 21), the round a report begins (log 22), a
confirmation (log 27), an item next to be granted (log 39). -/
def Obligations.RollbackCommand : Prop :=
  ∀ (s : State) (m : ControlMessage) (l : Lane), argLane m.args = some l → s.takes m 12 →
    let r := s.lane l
    ((r.history = [] ∨ r.state = .discarding) →
      exec .rollback s = .next (s.popControl.answer m.head .state []))
    ∧ (∀ top below, r.history = top :: below → r.state = .idle →
      ∃ t, exec .rollback s = .next (t.answer m.head .done [])
      ∧ t.lane l = { r with
          floor := max r.floor r.active, active := top.generation, activeDigest := top.digest,
          history := below }
      ∧ t.lane l.other = s.lane l.other ∧ t.store = s.store ∧ t.clock = s.clock
      ∧ t.settings = s.settings
      ∧ t.sweeper = (s.requestSweep l .reclaim false).sweeper
      ∧ t.ctl.flags = s.ctl.flags ||| (EventFlag.activated l).bit
      ∧ s.raises t [(.activated l,
        { lane := laneCode l, generation := top.generation, detail := 2 })]
      ∧ t.ctl.command = .available
      ∧ t.uplink.control = s.uplink.control.tail ∧ t.uplink.ingress = s.uplink.ingress
      ∧ s.reportsMoved t l top.generation r.active ∧ s.dropsSwitch t l ∧ s.hearsReport t)
    ∧ (r.history ≠ [] → r.state.holdsStaging = true →
      ∃ t, exec .rollback s = .next t
      ∧ t.lane l = { r with
          state := .discarding, lastReason := .aborted, discards := min (r.discards + 1) 65535,
          undoDeferred := if r.state = .retiring then true else r.undoDeferred,
          pendingCommand := some .rollback }
      ∧ t.lane l.other = s.lane l.other ∧ t.settings = s.settings ∧ t.clock = s.clock
      ∧ t.store.regions = s.store.regions ∧ t.store.free = s.store.free
      ∧ t.ctl.command = .carryingOut m.head (.lane l)
      ∧ t.uplink.control = s.uplink.control.tail ∧ t.uplink.ingress = s.uplink.ingress
      ∧ t.ctl.flags = s.ctl.flags ||| (EventFlag.discarded l).bit
      ∧ s.raises t [(.discarded l,
        { lane := laneCode l, generation := r.stagedGen, detail := 6 })]
      ∧ s.givesUpSegment t l (.undo r.stagedGen) ∧ s.reportsGone t l r.stagedGen
      ∧ s.hearsReport t
      ∧ t.scan.broadcast = s.scan.broadcast)

/-- INSPECT sets the pointer, INSPECT-NEXT leaves it; each granted read returns one slot and moves the
pointer on, and the last is answered. A slot is reported in 28 bytes, by its number and its record (section
11.1), an OPEN removed stamp and an absent tail slot as 0. -/
def Obligations.InspectReadsSlotsInOrder : Prop :=
  (∀ slot : Nat,
    let report (e : Option Entry) (record : List Byte) : Prop :=
      encodeSlotReport { slot := slot, entry := e } =
        be 2 slot ++ record ++ List.replicate (26 - record.length) 0
    let stamps (added : Nat) (removed : Option Nat) : List Byte :=
      be 3 added ++ be 3 (match removed with | some g => g | none => 0)
    let zones (zs : List Nat) : List Byte :=
      zs.map (BitVec.ofNat 8) ++ List.replicate (4 - zs.length) 0
    let figure (n : Nat) (v : Option Nat) : List Byte := be n (match v with | some x => x | none => 0)
    report none [0]
    ∧ (∀ e : BlockEntry, report (some (.block e))
      ([1] ++ be 7 e.token ++ be 1 e.priority.val ++ stamps e.added e.removed))
    ∧ (∀ h : ProductHead, report (some (.head h))
      ([2] ++ be 2 h.code
        ++ be 1 ((if h.concession.isSome then 1 else 0) + (if h.lastDay.isSome then 2 else 0)
          + (if h.transfer.isSome then 4 else 0))
        ++ be 2 h.fare ++ figure 2 h.concession ++ be 2 h.firstDay ++ figure 2 h.lastDay
        ++ figure 1 h.transfer ++ be 1 h.zoneCount ++ zones h.zones ++ stamps h.added h.removed
        ++ figure 2 h.tail))
    ∧ ∀ t : ProductTail, report (some (.tail t)) ([3] ++ zones t.zones ++ be 2 t.head)) ∧
  ∀ (s : State) (m : ControlMessage),
    (∀ l slot count, argInspect s.size m.args = some (l, slot, count) → s.takes m 14 →
      exec .inspect s = .next
        { s.popControl with ctl := { s.ctl with
            inspectLane := l, inspectSlot := slot,
            command := .carryingOut m.head (.inspect count []) } })
    ∧ (∀ count, argInspectNext m.args = some count → s.takes m 15 →
      exec .inspectNext s = .next
        { s.popControl with ctl := { s.ctl with
            command := .carryingOut m.head (.inspect count []) } })
    ∧ (∀ h left done, s.power = .running → s.nextGrant = some .control →
      s.ctl.command = .carryingOut h (.inspect left done) →
      let l := s.ctl.inspectLane
      let slot := s.ctl.inspectSlot
      let next := if slot + 1 < s.size l then slot + 1 else 0
      let reports := done ++ [{ slot := slot, entry := (s.region l).read slot }]
      let read : State :=
        { s with
          store := { s.store with lastGranted := .control },
          ctl := { s.ctl with inspectSlot := next } }
      (1 < left → exec .inspectSlotRead s = .next
        { read with ctl := { read.ctl with
            command := .carryingOut h (.inspect (left - 1) reports) } })
      ∧ (left ≤ 1 → exec .inspectSlotRead s = .next
        (read.answer h .done
          (be 1 (laneCode l) ++ be 1 reports.length ++ reports.flatMap encodeSlotReport
            ++ be 1 (laneCode l) ++ be 2 next))))

/-- SAVE writes the settings to the place not last loaded or saved, numbered one after it, and is
answered when the record is valid. -/
def Obligations.SaveWritesTheOtherPlace : Prop :=
  ∀ (s : State) (m : ControlMessage),
    (s.takes m 16 → m.args = [] → ∃ place number,
      exec .save s = .next (s.popControl.carryOut m.head
        (.save place { settings := s.settings, number := number }))
      ∧ (s.settingsMemory.lastPlace = none → place = .first ∧ number = 1)
      ∧ (∀ r, s.settingsMemory.lastPlace = some .first → s.settingsMemory.place1 = some r →
        place = .second ∧ number = if r.number = 65535 then 1 else r.number + 1)
      ∧ (∀ r, s.settingsMemory.lastPlace = some .second → s.settingsMemory.place2 = some r →
        place = .first ∧ number = if r.number = 65535 then 1 else r.number + 1))
    ∧ (∀ h saved, s.power = .running →
      (s.ctl.command = .carryingOut h (.save .first saved) →
        exec .saveWriteComplete s = .next
          (({ s with settingsMemory := { s.settingsMemory with
                place1 := some saved, lastPlace := some .first } } : State).answer h .done []))
      ∧ (s.ctl.command = .carryingOut h (.save .second saved) →
        exec .saveWriteComplete s = .next
          (({ s with settingsMemory := { s.settingsMemory with
                place2 := some saved, lastPlace := some .second } } : State).answer h .done [])))

/-- STATUS is answered with a STANDING, out of turn too, without touching the command in flight; RESTART
is answered and stays in flight until its frame is sent. Taken during an INSPECT its STANDING shows the
inspect pointer, where ReportLengthsAndCheckValues says (log 42). With a full egress queue either ANSWER
waits in PLACING, its STANDING composed as the STATUS is taken (the model's reading, log 30), and no STATUS
is taken out of turn. Each STANDING takes a fresh free value for the bytes left open (choices, log 40). That
an ANSWER echoes the identifier of its CONTROL, also after the identifier has
changed, is the model's choice (log 37). -/
def Obligations.StatusAndRestartAnswers : Prop :=
  ∀ (s : State) (m : ControlMessage), s.power = .running →
    s.uplink.control.head? = some m → m.args = [] →
    let full (body : List Byte) : List Byte := [m.unitId, m.tag, m.code, 0] ++ body
    let answered (body : List Byte) (restart : Bool) : State :=
      { s with uplink := { s.uplink with
          control := s.uplink.control.tail,
          egress := s.uplink.egress ++
            [{ kind := .answer, body := full body,
               unitMac := s.settings.addressing.unitMac,
               gatewayMac := s.settings.addressing.gatewayMac,
               etherType := s.settings.addressing.etherType, restart := restart }] } }
    let waits (body : List Byte) (restart : Bool) : State :=
      { s.popControl with ctl := { s.ctl with
          command := .placing
            { head := m.head, body := full body, addressing := none, restart := restart } } }
    let busy : Prop := ∃ h w, s.ctl.command = .carryingOut h w ∧ w ≠ .restart
    (m.code = 1 →
      (s.uplink.egress.length < 8 →
        (s.ctl.command = .available ∨ busy) →
        exec .status s = .next
          { answered s.popControl.standing false with choices := s.choices + 1 })
      ∧ (8 ≤ s.uplink.egress.length →
        (s.ctl.command = .available →
          exec .status s = .next
            { waits s.popControl.standing false with choices := s.choices + 1 })
        ∧ (busy → exec .status s = .next s))
      ∧ (∀ h, s.ctl.command = .carryingOut h .restart → exec .status s = .next s))
    ∧ (m.code = 17 → s.ctl.command = .available →
      (s.uplink.egress.length < 8 → exec .restart s = .next
        { answered [] true with ctl := { s.ctl with command := .carryingOut m.head .restart } })
      ∧ (8 ≤ s.uplink.egress.length → exec .restart s = .next (waits [] true)))

/-! ### Invariants -/

/-- Both regions keep their canonical form, their bounds, their free counts and their head and tail
links at every step. -/
def Obligations.EntryStoreKeepsItsForm : Prop :=
  ∀ s t : State, StoreInv s → LinkInv s → step s = .next t → StoreInv t ∧ LinkInv t

/-- Lane records keep S above ACTIVE and the floor, the history short and descending, and the apply
engine holds a segment of a STAGING lane, or finishes an item of a DISCARDING one, at every step. -/
def Obligations.LaneRecordsKeepTheirForm : Prop :=
  ∀ s t : State, LaneInv s → step s = .next t → LaneInv t

/-- The clock record, the queues and every counter stay in their ranges at every step. -/
def Obligations.RangesAreKept : Prop :=
  ∀ s t : State, ClockOk s.clock → QueueInv s → CounterInv s → step s = .next t →
    ClockOk t.clock ∧ QueueInv t ∧ CounterInv t

/-- The state after reset meets every invariant. -/
def Obligations.ResetMeetsTheInvariants : Prop :=
  StoreInv State.reset ∧ LinkInv State.reset ∧ LaneInv State.reset ∧ ClockOk State.reset.clock
    ∧ QueueInv State.reset ∧ CounterInv State.reset
end

