-- ==== Sys2Proof/Laws/Layouts.lean ====
section
/-! SUPPORT. Fields written are fields read: the length of a field and its value read back. -/

namespace Sys2Proof.Machine

@[simp] theorem be_length (n v : Nat) : (be n v).length = n := by
  induction n with
  | zero => rfl
  | succ n ih => simp [be, ih]

theorem beNat_foldl (bs : List Byte) (acc : Nat) :
    bs.foldl (fun acc b => acc * 256 + b.toNat) acc = acc * 256 ^ bs.length + beNat bs := by
  induction bs generalizing acc with
  | nil => simp [beNat]
  | cons b bs ih =>
    simp only [beNat, List.foldl_cons, List.length_cons]
    rw [ih, ih (0 * 256 + b.toNat), Nat.pow_succ, Nat.add_mul, Nat.zero_mul, Nat.zero_add,
      Nat.mul_assoc, Nat.mul_comm 256, Nat.add_assoc]

@[simp] theorem beNat_nil : beNat [] = 0 := rfl

theorem beNat_cons (b : Byte) (bs : List Byte) :
    beNat (b :: bs) = b.toNat * 256 ^ bs.length + beNat bs := by
  simp only [beNat, List.foldl_cons, Nat.zero_mul, Nat.zero_add]
  exact beNat_foldl bs b.toNat

/-- A field read back is the figure written, modulo what its bytes hold. -/
theorem beNat_be (n v : Nat) : beNat (be n v) = v % 256 ^ n := by
  induction n with
  | zero => simp [be, Nat.mod_one]
  | succ n ih =>
    rw [be, beNat_cons, ih, be_length, BitVec.toNat_ofNat, show (2 : Nat) ^ 8 = 256 from rfl,
      Nat.pow_succ 256 n, Nat.mod_mul (x := v) (a := 256 ^ n) (b := 256),
      Nat.mul_comm, Nat.add_comm]

/-- The first field of a body. -/
theorem field_be_head (n v : Nat) (rest : List Byte) (h : v < 256 ^ n) :
    field (be n v ++ rest) 0 n = v := by
  have hl : (be n v ++ rest).take n = be n v := by
    rw [List.take_append_of_le_length (by simp), List.take_of_length_le (by simp)]
  simp only [field, List.drop_zero, hl, beNat_be, Nat.mod_eq_of_lt h]

/-- A later field of a body. -/
theorem field_be_skip (n v : Nat) (rest : List Byte) (off k : Nat) (h : n ≤ off) :
    field (be n v ++ rest) off k = field rest (off - n) k := by
  simp only [field, List.drop_append, be_length]
  rw [List.drop_of_length_le (by simpa using h), List.nil_append]

/-- A body beyond its first field. -/
theorem drop_be (n v : Nat) (rest : List Byte) (off : Nat) (h : n ≤ off) :
    (be n v ++ rest).drop off = rest.drop (off - n) := by
  simp only [List.drop_append, be_length]
  rw [List.drop_of_length_le (by simpa using h), List.nil_append]

/-- Bytes are the field of their value. -/
theorem be_beNat (bs : List Byte) : be bs.length (beNat bs) = bs := by
  induction bs with
  | nil => rfl
  | cons b bs ih =>
    have hlt : beNat bs < 256 ^ bs.length := by
      have := congrArg beNat ih
      rw [beNat_be] at this
      rw [← this]
      exact Nat.mod_lt _ (Nat.pow_pos (by decide))
    have hb : ∀ (n v w : Nat), be n (v * 256 ^ n + w) = be n w := by
      intro n
      induction n with
      | zero => intros; rfl
      | succ n ihn =>
        intro v w
        have hp : v * 256 ^ (n + 1) = (v * 256) * 256 ^ n := by
          rw [Nat.pow_succ, Nat.mul_assoc, Nat.mul_comm 256]
        simp only [be]
        rw [hp, ihn, Nat.add_comm, Nat.add_mul_div_right _ _ (Nat.pow_pos (by decide))]
        congr 1
        apply BitVec.eq_of_toNat_eq
        simp only [BitVec.toNat_ofNat, show (2 : Nat) ^ 8 = 256 from rfl, Nat.add_mul_mod_self_right]
    simp only [List.length_cons, be, beNat_cons]
    rw [hb, ih, Nat.add_comm, Nat.add_mul_div_right _ _ (Nat.pow_pos (by decide)),
      Nat.div_eq_of_lt hlt, Nat.zero_add]
    congr 1
    apply BitVec.eq_of_toNat_eq
    simp

/-- A body is its first field and what follows it. -/
theorem field_cut (n : Nat) (bs : List Byte) (h : n ≤ bs.length) :
    bs = be n (field bs 0 n) ++ bs.drop n := by
  have hl : (bs.take n).length = n := by simp [h]
  have := be_beNat (bs.take n)
  rw [hl] at this
  simp only [field, List.drop_zero, this, List.take_append_drop]

/-- A field of what follows. -/
theorem field_drop (bs : List Byte) (k off n : Nat) : field (bs.drop k) off n = field bs (k + off) n := by
  simp [field, List.drop_drop]

theorem beNat_lt (bs : List Byte) : beNat bs < 256 ^ bs.length := by
  have := congrArg beNat (be_beNat bs)
  rw [beNat_be] at this
  rw [← this]
  exact Nat.mod_lt _ (Nat.pow_pos (by decide))

theorem field_lt (bs : List Byte) (off n : Nat) : field bs off n < 256 ^ n := by
  exact Nat.lt_of_lt_of_le (beNat_lt _)
    (Nat.pow_le_pow_right (by decide) (List.length_take_le _ _))

/-- The first byte of a field. -/
theorem field_top {bs : List Byte} {off n : Nat} (h : off + n < bs.length) :
    field bs off (n + 1) / 256 ^ n = field bs off 1 := by
  have hn : bs.drop off ≠ [] := by simp; omega
  obtain ⟨b, rest, hb⟩ := List.exists_cons_of_ne_nil hn
  have hl : rest.length + 1 + off = bs.length := by
    have := congrArg List.length hb
    simp at this; omega
  have hr : (rest.take n).length = n := by simp; omega
  have hlt := beNat_lt (rest.take n)
  rw [hr] at hlt
  simp only [field, hb, List.take_succ_cons, beNat_cons, hr, List.take_zero, List.length_nil]
  rw [Nat.add_comm, Nat.add_mul_div_right _ _ (Nat.pow_pos (by decide)), Nat.div_eq_of_lt hlt]
  simp

/-- The fields of given lengths that follow one another from an offset, written again. -/
def fieldsOf : List Nat → Nat → List Byte → List Byte
  | [], _, _ => []
  | n :: ns, off, bs => be n (field bs off n) ++ fieldsOf ns (off + n) bs

/-- Bytes that their fields fill exactly are those fields, in order. -/
theorem drop_eq_fieldsOf (ns : List Nat) (off : Nat) (bs : List Byte)
    (h : bs.length = off + ns.sum) : bs.drop off = fieldsOf ns off bs := by
  induction ns generalizing off with
  | nil =>
    simp only [List.sum_nil, Nat.add_zero] at h
    simp [fieldsOf, h]
  | cons n ns ih =>
    simp only [List.sum_cons] at h
    rw [fieldsOf, ← ih (off + n) (by omega), ← List.drop_drop]
    have hc := field_cut n (bs.drop off) (by simp; omega)
    rwa [field_drop, Nat.add_zero] at hc

theorem eq_fieldsOf (ns : List Nat) {bs : List Byte} (h : bs.length = ns.sum) :
    bs = fieldsOf ns 0 bs := by
  simpa using drop_eq_fieldsOf ns 0 bs (by simpa using h)

/-- The last field of a body. -/
theorem field_be_last (n v : Nat) (h : v < 256 ^ n) : field (be n v) 0 n = v := by
  simpa using field_be_head n v [] h

/-- Fields of one byte each are the bytes themselves. -/
theorem flatMap_be_one (xs : List Nat) : xs.flatMap (be 1) = xs.map (BitVec.ofNat 8) := by
  induction xs with
  | nil => rfl
  | cons x xs ih => simp only [List.flatMap_cons, List.map_cons, ih]; simp [be]

end Sys2Proof.Machine
end

