-- ==== Sys2Proof/Laws/Operands.lean ====
section
/-! SUPPORT. What is read is what was sent: the arguments of every command, the replies, which reply is
allowed for which frame, and the tests of an uplink frame. -/

namespace Sys2Proof.Machine

@[simp] theorem laneOf_laneCode (l : Lane) : laneOf (laneCode l) = some l := by cases l <;> rfl

@[simp] theorem yesNoOf_yesNo (x : Bool) : yesNoOf (yesNo x) = some x := by cases x <;> rfl

theorem laneOf_eq_some {v : Nat} {l : Lane} : laneOf v = some l ↔ v = laneCode l := by
  cases l <;> simp only [laneOf, laneCode] <;> repeat' split
  all_goals simp_all

theorem yesNoOf_eq_some {v : Nat} {x : Bool} : yesNoOf v = some x ↔ v = yesNo x := by
  cases x <;> simp only [yesNoOf, yesNo] <;> repeat' split
  all_goals simp_all

theorem yesNo_lt (x : Bool) : yesNo x < 256 := by cases x <;> decide

theorem laneCode_lt (l : Lane) : laneCode l < 256 := by cases l <;> decide

/-! ### CONTROL arguments (section 11.1) -/

/-- An argument list of one lane is read exactly where the layout and the ranges of section 11.1 hold. -/
theorem argLane_iff (args : List Byte) (l : Lane) : argLane args = some l ↔ args = be 1 (laneCode l) := by
  constructor
  · intro h
    simp only [argLane] at h
    split at h
    · next hl =>
      rw [laneOf_eq_some] at h
      have := eq_fieldsOf [1] (bs := args) (by simpa using hl)
      simpa [fieldsOf, h] using this
    · cases h
  · rintro rfl
    have := field_be_head 1 (laneCode l) [] (laneCode_lt l)
    simp only [List.append_nil] at this
    simp [argLane, this]

/-- The arguments of SET-SPLIT are read exactly where the layout and the ranges of section 11.1 hold. -/
theorem argSplit_iff (args : List Byte) (k : Fin 4) : argSplit args = some k ↔ args = be 1 k.val := by
  constructor
  · intro h
    simp only [argSplit] at h
    split at h
    · next hl =>
      split at h
      · have := eq_fieldsOf [1] (bs := args) (by simpa using hl)
        cases h
        simpa [fieldsOf] using this
      · cases h
    · cases h
  · rintro rfl
    have := field_be_head 1 k.val [] (by omega)
    simp only [List.append_nil] at this
    simp [argSplit, this]

/-- The arguments of SUBSCRIBE are read exactly where the layout and the ranges of section 11.1 hold. -/
theorem argSubscribe_iff (args : List Byte) (l : Lane) (stream : Nat) :
    argSubscribe args = some (l, stream) ↔
      stream ≤ 65535 ∧ args = be 1 (laneCode l) ++ be 2 stream := by
  constructor
  · intro h
    simp only [argSubscribe] at h
    split at h
    · next hl =>
      simp only [Option.map_eq_some_iff, Prod.mk.injEq, laneOf_eq_some] at h
      obtain ⟨_, h1, rfl, rfl⟩ := h
      have := eq_fieldsOf [1, 2] (bs := args) (by simpa using hl)
      have hlt := field_lt args 1 2
      refine ⟨by omega, ?_⟩
      rw [← h1]
      simpa [fieldsOf] using this
    · cases h
  · rintro ⟨hs, rfl⟩
    have h2 := field_be_head 2 stream [] (by omega)
    simp only [List.append_nil] at h2
    simp [argSubscribe, field_be_head 1 _ _ (laneCode_lt l), field_be_skip, h2]

/-- The arguments of SET-CLASS are read exactly where the layout and the ranges of section 11.1 hold. -/
theorem argSetClass_iff (args : List Byte) (c : Fin 8) (f : ClassRec) :
    argSetClass args = some (c, f) ↔
      f.capacity ≤ 61440 ∧ f.productCapacity ≤ 16384 ∧ 1 ≤ f.batchSize ∧ f.batchSize ≤ 32
      ∧ args = be 1 c.val ++ be 2 f.capacity ++ be 1 (yesNo f.takesProducts)
          ++ be 2 f.productCapacity ++ be 1 f.batchSize := by
  constructor
  · intro h
    simp only [argSetClass] at h
    split at h
    · next hl =>
      split at h
      · simp only [Option.bind_eq_some_iff, yesNoOf_eq_some] at h
        obtain ⟨takes, ht, h⟩ := h
        split at h
        · next hr =>
          cases h
          have := eq_fieldsOf [1, 2, 1, 2, 1] (bs := args) (by simpa using hl)
          refine ⟨hr.1, hr.2.1, hr.2.2.1, hr.2.2.2, ?_⟩
          rw [← ht]
          simpa [fieldsOf] using this
        · cases h
      · cases h
    · cases h
  · rintro ⟨h1, h2, h3, h4, rfl⟩
    have hy := yesNo_lt f.takesProducts
    have hc : c.val < 256 := by omega
    have e1 : f.capacity < 65536 := by omega
    have e2 : f.productCapacity < 65536 := by omega
    have e3 : f.batchSize < 256 := by omega
    simp [argSetClass, List.append_assoc, field_be_head, field_be_skip, field_be_last, hy, hc, e1, e2,
      e3, h1, h2, h3, h4, yesNoOf_eq_some.2 rfl]

/-- The arguments of SET-POSITION are read exactly where the layout and the ranges of section 11.1 hold. -/
theorem argSetPosition_iff (args : List Byte) (pos : Fin 16) (entry : Option (Fin 8)) :
    argSetPosition args = some (pos, entry) ↔
      args = be 1 (pos.val + 1)
        ++ be 1 (match entry with | some c => c.val | none => 255) := by
  constructor
  · intro h
    simp only [argSetPosition] at h
    split at h
    · next hl =>
      have := eq_fieldsOf [1, 1] (bs := args) (by simpa using hl)
      simp only [fieldsOf] at this
      split at h
      · split at h
        · cases h
        · next h0 =>
          split at h
          · next h2 =>
            cases h
            simp only [Nat.sub_add_cancel (Nat.pos_of_ne_zero h0)]
            simpa [h2] using this
          · split at h
            · cases h
              simp only [Nat.sub_add_cancel (Nat.pos_of_ne_zero h0)]
              simpa using this
            · cases h
      · cases h
    · cases h
  · rintro rfl
    have hp : pos.val + 1 < 256 := by omega
    cases entry with
    | none => simp [argSetPosition, field_be_head, field_be_skip, field_be_last, hp]
    | some c =>
      have hc : c.val < 256 := by omega
      have hn : c.val ≠ 255 := by omega
      simp [argSetPosition, field_be_head, field_be_skip, field_be_last, hp, hc, hn]

/-- The arguments of SET-TIMING are read exactly where the layout and the ranges of section 11.1 hold. -/
theorem argSetTiming_iff (args : List Byte) (quiet : Fin 4) (period : Fin 13) :
    argSetTiming args = some (quiet, period) ↔ args = be 1 quiet.val ++ be 1 period.val := by
  constructor
  · intro h
    simp only [argSetTiming] at h
    split at h
    · next hl =>
      have := eq_fieldsOf [1, 1] (bs := args) (by simpa using hl)
      split at h
      · split at h
        · cases h
          simpa [fieldsOf] using this
        · cases h
      · cases h
    · cases h
  · rintro rfl
    have h1 : quiet.val < 256 := by omega
    have h2 : period.val < 256 := by omega
    simp [argSetTiming, field_be_head, field_be_skip, field_be_last, h1, h2]

/-- The arguments of SET-ADDRESSING are read exactly where the layout and the ranges of section 11.1 hold. -/
theorem argSetAddressing_iff (args : List Byte) (a : Addressing) :
    argSetAddressing args = some a ↔
      a.unitMac.toNat / 2 ^ 40 % 2 = 0 ∧ 1536 ≤ a.etherType.toNat
      ∧ args = be 1 a.unitId.toNat ++ be 6 a.unitMac.toNat ++ be 6 a.groupMac.toNat
          ++ be 6 a.gatewayMac.toNat ++ be 2 a.etherType.toNat := by
  constructor
  · intro h
    simp only [argSetAddressing] at h
    split at h
    · next hl =>
      have := eq_fieldsOf [1, 6, 6, 6, 2] (bs := args) (by simpa using hl)
      split at h
      · next hr =>
        cases h
        have l1 := field_lt args 0 1
        have l2 := field_lt args 1 6
        have l3 := field_lt args 7 6
        have l4 := field_lt args 13 6
        have l5 := field_lt args 19 2
        have ht := field_top (bs := args) (off := 1) (n := 5) (by omega)
        simp only [BitVec.toNat_ofNat, Nat.mod_eq_of_lt (show field args 0 1 < 2 ^ 8 from l1),
          Nat.mod_eq_of_lt (show field args 1 6 < 2 ^ 48 from l2),
          Nat.mod_eq_of_lt (show field args 7 6 < 2 ^ 48 from l3),
          Nat.mod_eq_of_lt (show field args 13 6 < 2 ^ 48 from l4),
          Nat.mod_eq_of_lt (show field args 19 2 < 2 ^ 16 from l5)]
        refine ⟨by rw [show (2 : Nat) ^ 40 = 256 ^ 5 from rfl, ht]; exact hr.1, hr.2, ?_⟩
        simpa [fieldsOf] using this
      · cases h
    · cases h
  · rintro ⟨h1, h2, rfl⟩
    have h1 : a.unitMac.toNat / 1099511627776 % 2 = 0 := h1
    have e1 : a.unitId.toNat < 256 := a.unitId.isLt
    have e2 : a.unitMac.toNat < 281474976710656 := a.unitMac.isLt
    have e3 : a.groupMac.toNat < 281474976710656 := a.groupMac.isLt
    have e4 : a.gatewayMac.toNat < 281474976710656 := a.gatewayMac.isLt
    have e5 : a.etherType.toNat < 65536 := a.etherType.isLt
    have ht := field_top (bs := be 1 a.unitId.toNat ++ be 6 a.unitMac.toNat ++ be 6 a.groupMac.toNat
      ++ be 6 a.gatewayMac.toNat ++ be 2 a.etherType.toNat) (off := 1) (n := 5) (by simp)
    simp only [List.append_assoc, Nat.le_refl, field_be_skip, field_be_head 6 _ _ e2, Nat.sub_self] at ht
    simp [argSetAddressing, field_be_head, field_be_skip, field_be_last, e1, e2, e3, e4, e5, ← ht, h1, h2]

/-- The arguments of EVENTS are read exactly where the layout and the ranges of section 11.1 hold. -/
theorem argEvents_iff (args : List Byte) (mask value : BitVec 16) :
    argEvents args = some (mask, value) ↔ args = be 2 mask.toNat ++ be 2 value.toNat := by
  constructor
  · intro h
    simp only [argEvents] at h
    split at h
    · next hl =>
      have := eq_fieldsOf [2, 2] (bs := args) (by simpa using hl)
      cases h
      have l1 := field_lt args 0 2
      have l2 := field_lt args 2 2
      simp only [BitVec.toNat_ofNat]
      rw [Nat.mod_eq_of_lt (by omega), Nat.mod_eq_of_lt (by omega)]
      simpa [fieldsOf] using this
    · cases h
  · rintro rfl
    have h1 : mask.toNat < 65536 := mask.isLt
    have h2 : value.toNat < 65536 := value.isLt
    simp [argEvents, field_be_head, field_be_skip, field_be_last, h1, h2]

/-- The arguments of ACKNOWLEDGE are read exactly where the layout and the ranges of section 11.1 hold. -/
theorem argMask_iff (args : List Byte) (mask : BitVec 16) :
    argMask args = some mask ↔ args = be 2 mask.toNat := by
  constructor
  · intro h
    simp only [argMask] at h
    split at h
    · next hl =>
      have := eq_fieldsOf [2] (bs := args) (by simpa using hl)
      cases h
      have l1 := field_lt args 0 2
      simp only [BitVec.toNat_ofNat]
      rw [Nat.mod_eq_of_lt (by omega)]
      simpa [fieldsOf] using this
    · cases h
  · rintro rfl
    have h1 : mask.toNat < 65536 := mask.isLt
    simp [argMask, field_be_last, h1]

/-- The arguments of INSPECT are read exactly where the layout and the ranges of section 11.1 hold. -/
theorem argInspect_iff (size : Lane → Nat) (args : List Byte) (l : Lane) (slot count : Nat)
    (hs : size l ≤ 65536) : argInspect size args = some (l, slot, count) ↔
      slot < size l ∧ 1 ≤ count ∧ count ≤ 16
      ∧ args = be 1 (laneCode l) ++ be 2 slot ++ be 1 count := by
  constructor
  · intro h
    simp only [argInspect] at h
    split at h
    · next hl =>
      have := eq_fieldsOf [1, 2, 1] (bs := args) (by simpa using hl)
      simp only [Option.bind_eq_some_iff, laneOf_eq_some] at h
      obtain ⟨l', h1, h⟩ := h
      split at h
      · next hr =>
        cases h
        refine ⟨hr.1, hr.2.1, hr.2.2, ?_⟩
        rw [← h1]
        simpa [fieldsOf] using this
      · cases h
    · cases h
  · rintro ⟨h1, h2, h3, rfl⟩
    have e1 : slot < 65536 := by omega
    have e2 : count < 256 := by omega
    simp [argInspect, field_be_head 1 _ _ (laneCode_lt l), field_be_head, field_be_skip, field_be_last, e1,
      e2, h1, h2, h3, laneOf_eq_some.2 rfl]

/-- The arguments of INSPECT-NEXT are read exactly where the layout and the ranges of section 11.1 hold. -/
theorem argInspectNext_iff (args : List Byte) (count : Nat) :
    argInspectNext args = some count ↔ 1 ≤ count ∧ count ≤ 16 ∧ args = be 1 count := by
  constructor
  · intro h
    simp only [argInspectNext] at h
    split at h
    · next hl =>
      have := eq_fieldsOf [1] (bs := args) (by simpa using hl)
      split at h
      · next hr =>
        cases h
        exact ⟨hr.1, hr.2, by simpa [fieldsOf] using this⟩
      · cases h
    · cases h
  · rintro ⟨h2, h3, rfl⟩
    have e2 : count < 256 := by omega
    simp [argInspectNext, field_be_last, e2, h2, h3]

/-! ### Replies -/

theorem parseStatus_iff (body : List Byte) (t : StatusReport) :
    parseStatus body = some t ↔ (Reply.status t).isSent 0x81 body := by
  constructor
  · intro h
    simp only [parseStatus] at h
    split at h
    · next rb rp h1 h2 =>
      rw [yesNoOf_eq_some] at h1 h2
      split at h
      · next hr =>
        cases h
        have := eq_fieldsOf [3, 3, 1, 3, 3, 1, 2] (bs := body) (by simpa using hr.1)
        have l1 := field_lt body 0 3
        have l2 := field_lt body 3 3
        have l3 := field_lt body 7 3
        have l4 := field_lt body 10 3
        refine ⟨rfl, hr.2, fun l => by cases l <;> exact ⟨by assumption, by assumption⟩, ?_⟩
        rw [← h1, ← h2]
        simpa [fieldsOf] using this
      · cases h
    · cases h
  · rintro ⟨-, hc, hl, rfl⟩
    have e1 : t.held.b < 16777216 := (hl .b).1
    have e2 : t.staged.b < 16777216 := (hl .b).2
    have e3 : t.held.p < 16777216 := (hl .p).1
    have e4 : t.staged.p < 16777216 := (hl .p).2
    have e5 : t.capacity < 65536 := by omega
    have e6 := yesNo_lt t.ready.b
    have e7 := yesNo_lt t.ready.p
    simp [parseStatus, field_be_head, field_be_skip, field_be_last, e1, e2, e3, e4, e5, e6, e7, hc]

theorem parseRefuse_iff (body : List Byte) (r : Reply) :
    parseRefuse body = some r ↔
      ((∃ c, r = .refuseCapacity c) ∨ r = .refuseBusy ∨ r = .refuseGeneration)
        ∧ r.isSent 0x85 body := by
  constructor
  · intro h
    simp only [parseRefuse] at h
    split at h
    · next hr =>
      cases h
      have := eq_fieldsOf [1, 2] (bs := body) (by simpa using hr.1)
      refine ⟨.inl ⟨_, rfl⟩, rfl, hr.2.2.1, hr.2.2.2, ?_⟩
      simpa [fieldsOf, hr.2.1] using this
    · split at h
      · next hr =>
        cases h
        have := eq_fieldsOf [1] (bs := body) (by simpa using hr.1)
        exact ⟨.inr (.inl rfl), rfl, by simpa [fieldsOf, hr.2] using this⟩
      · split at h
        · next hr =>
          cases h
          have := eq_fieldsOf [1] (bs := body) (by simpa using hr.1)
          exact ⟨.inr (.inr rfl), rfl, by simpa [fieldsOf, hr.2] using this⟩
        · cases h
  · rintro ⟨(⟨c, rfl⟩ | rfl | rfl), hs⟩
    · obtain ⟨-, h1, h2, rfl⟩ := hs
      have e : c < 65536 := by omega
      simp [parseRefuse, field_be_head, field_be_skip, field_be_last, e, h1, h2]
    · obtain ⟨-, rfl⟩ := hs
      rfl
    · obtain ⟨-, rfl⟩ := hs
      rfl

/-- A reply is read exactly as its type and body are sent (R196). -/
theorem parseReply_iff (type : Nat) (body : List Byte) (r : Reply) :
    parseReply type body = some r ↔ r.isSent type body := by
  unfold parseReply
  split
  · next h =>
    subst h
    simp only [Option.map_eq_some_iff, parseStatus_iff]
    refine ⟨fun ⟨t, ht, hr⟩ => hr ▸ ht, fun h => ?_⟩
    rcases r with t | _ | (_ | _) | _ | _ | _ | _ <;> first | exact ⟨t, h, rfl⟩ | simp [Reply.isSent] at h
  · next h1 =>
    split
    · next h =>
      subst h
      rcases r with t | _ | (_ | _) | _ | _ | _ | _ <;> cases body <;> simp [Reply.isSent]
    · next h2 =>
      split
      · next h =>
        subst h
        cases body with
        | nil => rcases r with t | _ | (_ | _) | _ | _ | _ | _ <;> simp [Reply.isSent, be]
        | cons b bs =>
          simp only [List.isEmpty_cons, Bool.false_eq_true, if_false]
          split
          · next hl =>
            have := be_beNat (b :: bs)
            rw [hl] at this
            have hlt := beNat_lt (b :: bs)
            rw [hl] at hlt
            constructor
            · rintro ⟨⟩
              exact ⟨rfl, hlt, this.symm⟩
            · rcases r with t | _ | (_ | n) | _ | _ | _ | _ <;> simp [Reply.isSent]
              intro hn he
              rw [he, beNat_be]
              exact Nat.mod_eq_of_lt hn
          · next hl =>
            rcases r with t | _ | (_ | n) | _ | _ | _ | _ <;> simp [Reply.isSent]
            intro _ he
            exact hl (by rw [he, be_length])
      · next h3 =>
        split
        · next h =>
          subst h
          split
          · next hl =>
            have := eq_fieldsOf [2, 4] (bs := body) (by simpa using hl)
            have l1 := field_lt body 0 2
            have l2 := field_lt body 2 4
            constructor
            · rintro ⟨⟩
              have e : (BitVec.ofNat 32 (field body 2 4)).toNat = field body 2 4 := by
                rw [BitVec.toNat_ofNat]
                exact Nat.mod_eq_of_lt l2
              refine ⟨rfl, l1, ?_⟩
              rw [e]
              simpa [fieldsOf] using this
            · rcases r with t | _ | (_ | n) | ⟨c, sum⟩ | _ | _ | _ <;> simp [Reply.isSent]
              rintro hc rfl
              have e1 : c < 65536 := hc
              have e2 : sum.toNat < 4294967296 := sum.isLt
              simp [field_be_head, field_be_skip, field_be_last, e1, e2]
          · next hl =>
            rcases r with t | _ | (_ | n) | ⟨c, sum⟩ | _ | _ | _ <;> simp [Reply.isSent]
            intro _ he
            exact hl (by rw [he]; simp)
        · next h4 =>
          split
          · next h =>
            subst h
            rw [parseRefuse_iff]
            rcases r with t | _ | (_ | n) | ⟨c, sum⟩ | _ | _ | _ <;> simp [Reply.isSent]
          · next h5 =>
            rcases r with t | _ | (_ | n) | ⟨c, sum⟩ | _ | _ | _ <;> simp [Reply.isSent, *]

/-- The replies allowed for a frame (R124). -/
theorem replyAllowed_iff (frame : BusFrame) (r : Reply) :
    replyAllowed frame r = true ↔ frame.allows r := by
  cases frame <;> rcases r with t | _ | (_ | n) | ⟨c, sum⟩ | _ | _ | _ <;>
    simp [replyAllowed, BusFrame.allows]
  exact eq_comm
/-! ### The uplink frame (R1 to R4, R194) -/

/-- The frame check (R1). -/
theorem frameCheckGood_iff (frame : List Byte) : frameCheckGood frame = true ↔
    64 ≤ frame.length
      ∧ frame.drop (frame.length - 4) = fcsBytes (frame.take (frame.length - 4)) := by
  simp [frameCheckGood]

/-- The payload is what stands between the EtherType and the check sequence. -/
theorem framePayload_eq (frame : List Byte) :
    framePayload frame = (frame.drop 14).take (frame.length - 18) := by
  simp only [framePayload, List.drop_take]
  congr 1

/-- The address and EtherType test (R2). -/
theorem frameIsOurs_iff (a : Addressing) (frame : List Byte) : frameIsOurs a frame = true ↔
    (field frame 0 6 = a.unitMac.toNat ∨ field frame 0 6 = a.groupMac.toNat)
      ∧ field frame 12 2 = a.etherType.toNat := by
  have h1 : field frame 0 6 < 281474976710656 := field_lt frame 0 6
  have h2 : field frame 12 2 < 65536 := field_lt frame 12 2
  simp [frameIsOurs, frameDestination, frameEtherType, ← BitVec.toNat_inj,
    Nat.mod_eq_of_lt h1,
    Nat.mod_eq_of_lt h2]

/-- The kind byte names a kind exactly where it is 01h to 07h. -/
theorem uplinkKindOf_none (k : Nat) : uplinkKindOf k = none ↔ ¬(1 ≤ k ∧ k ≤ 7) := by
  match k with
  | 0 | 1 | 2 | 3 | 4 | 5 | 6 | 7 => decide
  | k + 8 => exact ⟨fun _ => by omega, fun _ => rfl⟩

theorem uplinkKindOf_control (k : Nat) : uplinkKindOf k = some .control ↔ k = 4 := by
  match k with
  | 0 | 1 | 2 | 3 | 4 | 5 | 6 | 7 => decide
  | k + 8 => simp [uplinkKindOf]

theorem uplinkKindOf_outbound (k : Nat) : uplinkKindOf k = some .outbound ↔ 5 ≤ k ∧ k ≤ 7 := by
  match k with
  | 0 | 1 | 2 | 3 | 4 | 5 | 6 | 7 => decide
  | k + 8 => simp [uplinkKindOf]

/-- An envelope whose lengths agree is opened (R3, R194). -/
theorem openEnvelope_eq_some {payload : List Byte} {k : UplinkKind}
    (hk : uplinkKindOf (field payload 0 1) = some k)
    (hl : payload.length = 3 + field payload 1 2
      ∨ (3 + field payload 1 2 < 46 ∧ payload.length = 46))
    (hc : k = .control → 3 ≤ field payload 1 2) :
    openEnvelope payload = some (k, (payload.drop 3).take (field payload 1 2)) := by
  simp only [openEnvelope, hk]
  rw [if_neg (by simpa [Decidable.or_iff_not_imp_left] using hl), if_neg]
  rintro ⟨h, hn⟩
  have := hc h
  omega

/-- An envelope that fails a test is not opened (R3, R194). -/
theorem openEnvelope_eq_none {payload : List Byte}
    (h : ¬(1 ≤ field payload 0 1 ∧ field payload 0 1 ≤ 7
      ∧ (payload.length = 3 + field payload 1 2
        ∨ (3 + field payload 1 2 < 46 ∧ payload.length = 46))
      ∧ (field payload 0 1 = 4 → 3 ≤ field payload 1 2))) : openEnvelope payload = none := by
  simp only [openEnvelope]
  split
  · rfl
  · next k hk =>
    split
    · rfl
    · next hag =>
      split
      · rfl
      · next hcn =>
        have hkk : 1 ≤ field payload 0 1 ∧ field payload 0 1 ≤ 7 := by
          rw [← Decidable.not_not (p := _ ∧ _), ← uplinkKindOf_none, hk]; simp
        refine absurd ⟨hkk.1, hkk.2, ?_, fun h4 => ?_⟩ h
        · rw [Bool.not_eq_true', Bool.not_eq_false] at hag
          simpa using hag
        · rw [(uplinkKindOf_control _).2 h4] at hk
          cases hk
          simpa using hcn

end Sys2Proof.Machine
end

