-- ==== Sys2Proof/Laws/Bus.lean ====
section
/-! SUPPORT. What the characters of a reply do to the link, and how a complete reply is judged. -/

namespace Sys2Proof.Machine

/-- Characters short of a complete reply are taken in (R123). -/
theorem Bus.chars_receiving (x : Addressed) (b : Bus) (kept chars : List RxChar)
    (h : b.link = .receiving x kept)
    (hs : ∀ pre c post, chars = pre ++ c :: post → ∀ n, declaredLength (kept ++ pre) = some n →
      n ≤ 16 ∧ kept.length + pre.length + 1 < n + 7) :
    chars.foldl Bus.char b = { b with link := .receiving x (kept ++ chars) } := by
  induction chars generalizing b kept with
  | nil => simp [← h]
  | cons c cs ih =>
    have h1 : b.char c = { b with link := .receiving x (kept ++ [c]) } := by
      have := hs [] c cs rfl
      simp only [List.append_nil, List.length_nil, Nat.add_zero] at this
      simp only [Bus.char, Bus.startBit, h, receiveChar]
      split
      · next n hn =>
        have := this n hn
        simp [largestReplyBody, show ¬ 16 < n by omega, show ¬ kept.length = n + 6 by omega]
      · rfl
    rw [List.foldl_cons, h1, ih _ (kept ++ [c]) rfl]
    · simp
    · intro pre c' post he n hn
      have := hs (c :: pre) c' post (by simp [he]) n (by simpa using hn)
      simpa [Nat.add_assoc, Nat.add_comm, Nat.add_left_comm] using this

/-- After an overlong body length no further characters are taken (R123). -/
theorem Bus.chars_overlong (x : Addressed) (b : Bus) (kept chars : List RxChar) (n : Nat)
    (h : b.link = .receiving x kept) (hn : declaredLength kept = some n) (h16 : 16 < n) :
    chars.foldl Bus.char b = b := by
  induction chars with
  | nil => rfl
  | cons c cs ih =>
    have : b.char c = b := by
      simp [Bus.char, Bus.startBit, h, receiveChar, hn, largestReplyBody, h16]
      cases b; simp_all
    rw [List.foldl_cons, this, ih]

/-- The length that a part of a reply declares is the one the whole declares. -/
theorem declaredLength_prefix {chars pre : List RxChar} {c post} (h : chars = pre ++ c :: post) {n : Nat}
    (hn : declaredLength pre = some n) : n = field (chars.map RxChar.byte) 3 2 ∧ 5 ≤ pre.length := by
  simp only [declaredLength] at hn
  split at hn
  · next h5 =>
    cases hn
    refine ⟨?_, h5⟩
    subst h
    simp only [field, List.map_append]
    rw [List.drop_append_of_le_length (by simp; omega), List.take_append_of_le_length (by simp; omega)]
  · cases hn

/-- The waiting link takes the characters as one that has had its start bit does. -/
theorem Bus.chars_waiting (x : Addressed) (b : Bus) (chars : List RxChar) (hc : chars ≠ [])
    (h : b.link = .waiting x) :
    chars.foldl Bus.char b = chars.foldl Bus.char { b with link := .receiving x [] } := by
  cases chars with
  | nil => exact absurd rfl hc
  | cons c cs => simp only [List.foldl_cons, Bus.char, Bus.startBit, h]

/-- The two CRC bytes of a complete reply, as a figure and as bytes. -/
theorem crcField_iff {bytes : List Byte} {n : Nat} (hl : bytes.length = n + 2) (c : BitVec 16) :
    field bytes n 2 = c.toNat ↔ bytes.drop n = be 2 c.toNat := by
  have hd : (bytes.drop n).length = 2 := by simp; omega
  have hb := be_beNat (bytes.drop n)
  rw [hd] at hb
  have hf : field bytes n 2 = beNat (bytes.drop n) := by
    simp only [field]
    rw [List.take_of_length_le (by omega)]
  refine ⟨fun h => by rw [← hb, ← hf, h], fun h => ?_⟩
  rw [hf, h, beNat_be]
  exact Nat.mod_eq_of_lt c.isLt

/-- The judgement of a complete reply of `n + 7` characters (R123, R124). -/
theorem judgeReply_spec (x : Addressed) (chars : List RxChar) (n : Nat) (hl : chars.length = n + 7) :
    let bytes := chars.map RxChar.byte
    let front := bytes.take (n + 5)
    let sent (r : Reply) : Prop := r.isSent (field bytes 2 1) (front.drop 5)
    (chars.any RxChar.framingError = true → judgeReply x chars = .miss .damaged)
    ∧ (bytes.drop (n + 5) ≠ be 2 (crc front).toNat → judgeReply x chars = .miss .damaged)
    ∧ (chars.any RxChar.framingError = false → bytes.drop (n + 5) = be 2 (crc front).toNat →
      ((field bytes 0 1 ≠ 0 ∨ field bytes 1 1 ≠ x.pos.val + 1) →
        judgeReply x chars = .miss .wrong)
      ∧ (field bytes 0 1 = 0 → field bytes 1 1 = x.pos.val + 1 →
        ((∀ r, ¬ sent r) → judgeReply x chars = .miss .wrong)
        ∧ ∀ r, sent r → (x.frame.allows r → judgeReply x chars = .good r)
          ∧ (¬ x.frame.allows r → judgeReply x chars = .miss .wrong))) := by
  intro bytes front sent
  have hb : bytes.length = n + 5 + 2 := by simp only [bytes, List.length_map]; exact hl
  have h2 : (chars.map RxChar.byte).length - 2 = n + 5 := by simp [hl]
  have hcrc := crcField_iff hb (crc front)
  have hp : ∀ r, parseReply (field bytes 2 1) (front.drop 5) = some r ↔ sent r :=
    fun r => parseReply_iff _ _ r
  simp only [judgeReply, h2]
  change field (chars.map RxChar.byte) (n + 5) 2
    = (crc ((chars.map RxChar.byte).take (n + 5))).toNat ↔ _ at hcrc
  refine ⟨fun h => by simp [h], fun h => ?_, fun hf hc => ⟨fun ha => ?_, fun h0 h1 => ⟨fun hn => ?_,
    fun r hr => ⟨fun ha => ?_, fun ha => ?_⟩⟩⟩⟩
  · simp [mt hcrc.1 h]
  · simp only [hf, hcrc.2 hc, ne_eq, not_true_eq_false, Bool.false_eq_true, if_false]
    rw [if_pos ha]
  all_goals
    simp only [hf, hcrc.2 hc, ne_eq, not_true_eq_false, Bool.false_eq_true, if_false]
    rw [if_neg (not_or.2 ⟨fun h => h h0, fun h => h h1⟩)]
  · have : parseReply (field bytes 2 1) (front.drop 5) = none := by
      cases h : parseReply (field bytes 2 1) (front.drop 5) with
      | none => rfl
      | some r => exact absurd ((hp r).1 h) (hn r)
    rw [this]
  · rw [(hp r).2 hr]
    exact if_pos ((replyAllowed_iff _ _).2 ha)
  · rw [(hp r).2 hr]
    exact if_neg (mt (replyAllowed_iff _ _).1 ha)

end Sys2Proof.Machine
end

