-- ==== Sys2Proof/Laws/State.lean ====
section
/-! SUPPORT. What each plain update of the state does to each field, so that no proof unfolds a record
update. -/

namespace Sys2Proof.Machine

/-! ### Per-lane data -/

@[simp] theorem PerLane.get_b {α : Type} (x : PerLane α) : x.get .b = x.b := rfl

@[simp] theorem PerLane.get_p {α : Type} (x : PerLane α) : x.get .p = x.p := rfl

@[simp] theorem PerLane.get_set_same {α : Type} (x : PerLane α) (l : Lane) (v : α) :
    (x.set l v).get l = v := by
  cases l <;> rfl

@[simp] theorem PerLane.get_set_other {α : Type} (x : PerLane α) (l : Lane) (v : α) :
    (x.set l v).get l.other = x.get l.other := by
  cases l <;> rfl

theorem PerLane.get_set {α : Type} (x : PerLane α) (l k : Lane) (v : α) :
    (x.set l v).get k = if k = l then v else x.get k := by
  cases l <;> cases k <;> rfl

@[simp] theorem PerLane.set_get {α : Type} (x : PerLane α) (l : Lane) : x.set l (x.get l) = x := by
  cases l <;> rfl

@[simp] theorem PerLane.set_set {α : Type} (x : PerLane α) (l : Lane) (v w : α) :
    (x.set l v).set l w = x.set l w := by
  cases l <;> rfl

@[simp] theorem PerLane.set_b {α : Type} (x : PerLane α) (v : α) : x.set .b v = { x with b := v } := rfl

@[simp] theorem PerLane.set_p {α : Type} (x : PerLane α) (v : α) : x.set .p v = { x with p := v } := rfl

@[simp] theorem Lane.other_other (l : Lane) : l.other.other = l := by cases l <;> rfl

theorem Lane.other_ne (l : Lane) : l.other ≠ l := by cases l <;> decide

theorem Lane.eq_or_other (l k : Lane) : k = l ∨ k = l.other := by cases l <;> cases k <;> decide

/-! ### countUplink -/

@[simp] theorem State.countUplink_pending (s : State) (f : UplinkCounters → UplinkCounters) :
    (s.countUplink f).pending = s.pending := rfl

@[simp] theorem State.countUplink_choices (s : State) (f : UplinkCounters → UplinkCounters) :
    (s.countUplink f).choices = s.choices := rfl

@[simp] theorem State.countUplink_power (s : State) (f : UplinkCounters → UplinkCounters) :
    (s.countUplink f).power = s.power := rfl

@[simp] theorem State.countUplink_straps (s : State) (f : UplinkCounters → UplinkCounters) :
    (s.countUplink f).straps = s.straps := rfl

@[simp] theorem State.countUplink_settings (s : State) (f : UplinkCounters → UplinkCounters) :
    (s.countUplink f).settings = s.settings := rfl

@[simp] theorem State.countUplink_settingsMemory (s : State) (f : UplinkCounters → UplinkCounters) :
    (s.countUplink f).settingsMemory = s.settingsMemory := rfl

@[simp] theorem State.countUplink_uplink (s : State) (f : UplinkCounters → UplinkCounters) :
    (s.countUplink f).uplink = { s.uplink with counters := f s.uplink.counters } := rfl

@[simp] theorem State.countUplink_lanes (s : State) (f : UplinkCounters → UplinkCounters) :
    (s.countUplink f).lanes = s.lanes := rfl

@[simp] theorem State.countUplink_store (s : State) (f : UplinkCounters → UplinkCounters) :
    (s.countUplink f).store = s.store := rfl

@[simp] theorem State.countUplink_sweeper (s : State) (f : UplinkCounters → UplinkCounters) :
    (s.countUplink f).sweeper = s.sweeper := rfl

@[simp] theorem State.countUplink_clock (s : State) (f : UplinkCounters → UplinkCounters) :
    (s.countUplink f).clock = s.clock := rfl

@[simp] theorem State.countUplink_bus (s : State) (f : UplinkCounters → UplinkCounters) :
    (s.countUplink f).bus = s.bus := rfl

@[simp] theorem State.countUplink_scan (s : State) (f : UplinkCounters → UplinkCounters) :
    (s.countUplink f).scan = s.scan := rfl

@[simp] theorem State.countUplink_ctl (s : State) (f : UplinkCounters → UplinkCounters) :
    (s.countUplink f).ctl = s.ctl := rfl

/-! ### place -/

@[simp] theorem State.place_pending (s : State) (k : OutboundKind) (body : List Byte) (r : Bool) :
    (s.place k body r).pending = s.pending := rfl

@[simp] theorem State.place_choices (s : State) (k : OutboundKind) (body : List Byte) (r : Bool) :
    (s.place k body r).choices = s.choices := rfl

@[simp] theorem State.place_power (s : State) (k : OutboundKind) (body : List Byte) (r : Bool) :
    (s.place k body r).power = s.power := rfl

@[simp] theorem State.place_straps (s : State) (k : OutboundKind) (body : List Byte) (r : Bool) :
    (s.place k body r).straps = s.straps := rfl

@[simp] theorem State.place_settings (s : State) (k : OutboundKind) (body : List Byte) (r : Bool) :
    (s.place k body r).settings = s.settings := rfl

@[simp] theorem State.place_settingsMemory (s : State) (k : OutboundKind) (body : List Byte) (r : Bool) :
    (s.place k body r).settingsMemory = s.settingsMemory := rfl

@[simp] theorem State.place_uplink (s : State) (k : OutboundKind) (body : List Byte) (r : Bool) :
    (s.place k body r).uplink = { s.uplink with egress := s.uplink.egress ++
      [{ kind := k, body := body, unitMac := s.settings.addressing.unitMac,
         gatewayMac := s.settings.addressing.gatewayMac,
         etherType := s.settings.addressing.etherType, restart := r }] } := rfl

@[simp] theorem State.place_lanes (s : State) (k : OutboundKind) (body : List Byte) (r : Bool) :
    (s.place k body r).lanes = s.lanes := rfl

@[simp] theorem State.place_store (s : State) (k : OutboundKind) (body : List Byte) (r : Bool) :
    (s.place k body r).store = s.store := rfl

@[simp] theorem State.place_sweeper (s : State) (k : OutboundKind) (body : List Byte) (r : Bool) :
    (s.place k body r).sweeper = s.sweeper := rfl

@[simp] theorem State.place_clock (s : State) (k : OutboundKind) (body : List Byte) (r : Bool) :
    (s.place k body r).clock = s.clock := rfl

@[simp] theorem State.place_bus (s : State) (k : OutboundKind) (body : List Byte) (r : Bool) :
    (s.place k body r).bus = s.bus := rfl

@[simp] theorem State.place_scan (s : State) (k : OutboundKind) (body : List Byte) (r : Bool) :
    (s.place k body r).scan = s.scan := rfl

@[simp] theorem State.place_ctl (s : State) (k : OutboundKind) (body : List Byte) (r : Bool) :
    (s.place k body r).ctl = s.ctl := rfl

/-! ### setLane -/

@[simp] theorem State.setLane_pending (s : State) (l : Lane) (r : LaneRec) :
    (s.setLane l r).pending = s.pending := rfl

@[simp] theorem State.setLane_choices (s : State) (l : Lane) (r : LaneRec) :
    (s.setLane l r).choices = s.choices := rfl

@[simp] theorem State.setLane_power (s : State) (l : Lane) (r : LaneRec) :
    (s.setLane l r).power = s.power := rfl

@[simp] theorem State.setLane_straps (s : State) (l : Lane) (r : LaneRec) :
    (s.setLane l r).straps = s.straps := rfl

@[simp] theorem State.setLane_settings (s : State) (l : Lane) (r : LaneRec) :
    (s.setLane l r).settings = s.settings := rfl

@[simp] theorem State.setLane_settingsMemory (s : State) (l : Lane) (r : LaneRec) :
    (s.setLane l r).settingsMemory = s.settingsMemory := rfl

@[simp] theorem State.setLane_uplink (s : State) (l : Lane) (r : LaneRec) :
    (s.setLane l r).uplink = s.uplink := rfl

@[simp] theorem State.setLane_lanes (s : State) (l : Lane) (r : LaneRec) :
    (s.setLane l r).lanes = s.lanes.set l r := rfl

@[simp] theorem State.setLane_store (s : State) (l : Lane) (r : LaneRec) :
    (s.setLane l r).store = s.store := rfl

@[simp] theorem State.setLane_sweeper (s : State) (l : Lane) (r : LaneRec) :
    (s.setLane l r).sweeper = s.sweeper := rfl

@[simp] theorem State.setLane_clock (s : State) (l : Lane) (r : LaneRec) :
    (s.setLane l r).clock = s.clock := rfl

@[simp] theorem State.setLane_bus (s : State) (l : Lane) (r : LaneRec) :
    (s.setLane l r).bus = s.bus := rfl

@[simp] theorem State.setLane_scan (s : State) (l : Lane) (r : LaneRec) :
    (s.setLane l r).scan = s.scan := rfl

@[simp] theorem State.setLane_ctl (s : State) (l : Lane) (r : LaneRec) :
    (s.setLane l r).ctl = s.ctl := rfl

/-! ### setRegion -/

@[simp] theorem State.setRegion_pending (s : State) (l : Lane) (m : Memory) :
    (s.setRegion l m).pending = s.pending := rfl

@[simp] theorem State.setRegion_choices (s : State) (l : Lane) (m : Memory) :
    (s.setRegion l m).choices = s.choices := rfl

@[simp] theorem State.setRegion_power (s : State) (l : Lane) (m : Memory) :
    (s.setRegion l m).power = s.power := rfl

@[simp] theorem State.setRegion_straps (s : State) (l : Lane) (m : Memory) :
    (s.setRegion l m).straps = s.straps := rfl

@[simp] theorem State.setRegion_settings (s : State) (l : Lane) (m : Memory) :
    (s.setRegion l m).settings = s.settings := rfl

@[simp] theorem State.setRegion_settingsMemory (s : State) (l : Lane) (m : Memory) :
    (s.setRegion l m).settingsMemory = s.settingsMemory := rfl

@[simp] theorem State.setRegion_uplink (s : State) (l : Lane) (m : Memory) :
    (s.setRegion l m).uplink = s.uplink := rfl

@[simp] theorem State.setRegion_lanes (s : State) (l : Lane) (m : Memory) :
    (s.setRegion l m).lanes = s.lanes := rfl

@[simp] theorem State.setRegion_store (s : State) (l : Lane) (m : Memory) :
    (s.setRegion l m).store = { s.store with
      regions := s.store.regions.set l m,
      free := s.store.free.set l (s.store.free.get l + (s.region l).length - m.length) } := rfl

@[simp] theorem State.setRegion_sweeper (s : State) (l : Lane) (m : Memory) :
    (s.setRegion l m).sweeper = s.sweeper := rfl

@[simp] theorem State.setRegion_clock (s : State) (l : Lane) (m : Memory) :
    (s.setRegion l m).clock = s.clock := rfl

@[simp] theorem State.setRegion_bus (s : State) (l : Lane) (m : Memory) :
    (s.setRegion l m).bus = s.bus := rfl

@[simp] theorem State.setRegion_scan (s : State) (l : Lane) (m : Memory) :
    (s.setRegion l m).scan = s.scan := rfl

@[simp] theorem State.setRegion_ctl (s : State) (l : Lane) (m : Memory) :
    (s.setRegion l m).ctl = s.ctl := rfl

/-! ### setEngine -/

@[simp] theorem State.setEngine_pending (s : State) (e : Engine) :
    (s.setEngine e).pending = s.pending := rfl

@[simp] theorem State.setEngine_choices (s : State) (e : Engine) :
    (s.setEngine e).choices = s.choices := rfl

@[simp] theorem State.setEngine_power (s : State) (e : Engine) :
    (s.setEngine e).power = s.power := rfl

@[simp] theorem State.setEngine_straps (s : State) (e : Engine) :
    (s.setEngine e).straps = s.straps := rfl

@[simp] theorem State.setEngine_settings (s : State) (e : Engine) :
    (s.setEngine e).settings = s.settings := rfl

@[simp] theorem State.setEngine_settingsMemory (s : State) (e : Engine) :
    (s.setEngine e).settingsMemory = s.settingsMemory := rfl

@[simp] theorem State.setEngine_uplink (s : State) (e : Engine) :
    (s.setEngine e).uplink = s.uplink := rfl

@[simp] theorem State.setEngine_lanes (s : State) (e : Engine) :
    (s.setEngine e).lanes = s.lanes := rfl

@[simp] theorem State.setEngine_store (s : State) (e : Engine) :
    (s.setEngine e).store = { s.store with engine := e } := rfl

@[simp] theorem State.setEngine_sweeper (s : State) (e : Engine) :
    (s.setEngine e).sweeper = s.sweeper := rfl

@[simp] theorem State.setEngine_clock (s : State) (e : Engine) :
    (s.setEngine e).clock = s.clock := rfl

@[simp] theorem State.setEngine_bus (s : State) (e : Engine) : (s.setEngine e).bus = s.bus := rfl

@[simp] theorem State.setEngine_scan (s : State) (e : Engine) : (s.setEngine e).scan = s.scan := rfl

@[simp] theorem State.setEngine_ctl (s : State) (e : Engine) : (s.setEngine e).ctl = s.ctl := rfl

/-! ### granted -/

@[simp] theorem State.granted_pending (s : State) (r : Requester) :
    (s.granted r).pending = s.pending := rfl

@[simp] theorem State.granted_choices (s : State) (r : Requester) :
    (s.granted r).choices = s.choices := rfl

@[simp] theorem State.granted_power (s : State) (r : Requester) :
    (s.granted r).power = s.power := rfl

@[simp] theorem State.granted_straps (s : State) (r : Requester) :
    (s.granted r).straps = s.straps := rfl

@[simp] theorem State.granted_settings (s : State) (r : Requester) :
    (s.granted r).settings = s.settings := rfl

@[simp] theorem State.granted_settingsMemory (s : State) (r : Requester) :
    (s.granted r).settingsMemory = s.settingsMemory := rfl

@[simp] theorem State.granted_uplink (s : State) (r : Requester) :
    (s.granted r).uplink = s.uplink := rfl

@[simp] theorem State.granted_lanes (s : State) (r : Requester) :
    (s.granted r).lanes = s.lanes := rfl

@[simp] theorem State.granted_store (s : State) (r : Requester) :
    (s.granted r).store = { s.store with lastGranted := r } := rfl

@[simp] theorem State.granted_sweeper (s : State) (r : Requester) :
    (s.granted r).sweeper = s.sweeper := rfl

@[simp] theorem State.granted_clock (s : State) (r : Requester) :
    (s.granted r).clock = s.clock := rfl

@[simp] theorem State.granted_bus (s : State) (r : Requester) : (s.granted r).bus = s.bus := rfl

@[simp] theorem State.granted_scan (s : State) (r : Requester) : (s.granted r).scan = s.scan := rfl

@[simp] theorem State.granted_ctl (s : State) (r : Requester) : (s.granted r).ctl = s.ctl := rfl

/-! ### requestSweep -/

@[simp] theorem State.requestSweep_pending (s : State) (l : Lane) (k : SweepKind) (w : Bool) :
    (s.requestSweep l k w).pending = s.pending := rfl

@[simp] theorem State.requestSweep_choices (s : State) (l : Lane) (k : SweepKind) (w : Bool) :
    (s.requestSweep l k w).choices = s.choices := rfl

@[simp] theorem State.requestSweep_power (s : State) (l : Lane) (k : SweepKind) (w : Bool) :
    (s.requestSweep l k w).power = s.power := rfl

@[simp] theorem State.requestSweep_straps (s : State) (l : Lane) (k : SweepKind) (w : Bool) :
    (s.requestSweep l k w).straps = s.straps := rfl

@[simp] theorem State.requestSweep_settings (s : State) (l : Lane) (k : SweepKind) (w : Bool) :
    (s.requestSweep l k w).settings = s.settings := rfl

@[simp] theorem State.requestSweep_settingsMemory (s : State) (l : Lane) (k : SweepKind) (w : Bool) :
    (s.requestSweep l k w).settingsMemory = s.settingsMemory := rfl

@[simp] theorem State.requestSweep_uplink (s : State) (l : Lane) (k : SweepKind) (w : Bool) :
    (s.requestSweep l k w).uplink = s.uplink := rfl

@[simp] theorem State.requestSweep_lanes (s : State) (l : Lane) (k : SweepKind) (w : Bool) :
    (s.requestSweep l k w).lanes = s.lanes := rfl

@[simp] theorem State.requestSweep_store (s : State) (l : Lane) (k : SweepKind) (w : Bool) :
    (s.requestSweep l k w).store = s.store := rfl

@[simp] theorem State.requestSweep_sweeper (s : State) (l : Lane) (k : SweepKind) (w : Bool) :
    (s.requestSweep l k w).sweeper = ({ s.sweeper with
      requests := joinRequests s.sweeper.requests { lane := l, kind := k, waiter := w } } :
      Sweeper).start := rfl

@[simp] theorem State.requestSweep_clock (s : State) (l : Lane) (k : SweepKind) (w : Bool) :
    (s.requestSweep l k w).clock = s.clock := rfl

@[simp] theorem State.requestSweep_bus (s : State) (l : Lane) (k : SweepKind) (w : Bool) :
    (s.requestSweep l k w).bus = s.bus := rfl

@[simp] theorem State.requestSweep_scan (s : State) (l : Lane) (k : SweepKind) (w : Bool) :
    (s.requestSweep l k w).scan = s.scan := rfl

@[simp] theorem State.requestSweep_ctl (s : State) (l : Lane) (k : SweepKind) (w : Bool) :
    (s.requestSweep l k w).ctl = s.ctl := rfl

/-! ### clearWaiter -/

@[simp] theorem State.clearWaiter_pending (s : State) : (s.clearWaiter).pending = s.pending := rfl

@[simp] theorem State.clearWaiter_choices (s : State) : (s.clearWaiter).choices = s.choices := rfl

@[simp] theorem State.clearWaiter_power (s : State) : (s.clearWaiter).power = s.power := rfl

@[simp] theorem State.clearWaiter_straps (s : State) : (s.clearWaiter).straps = s.straps := rfl

@[simp] theorem State.clearWaiter_settings (s : State) :
    (s.clearWaiter).settings = s.settings := rfl

@[simp] theorem State.clearWaiter_settingsMemory (s : State) :
    (s.clearWaiter).settingsMemory = s.settingsMemory := rfl

@[simp] theorem State.clearWaiter_uplink (s : State) : (s.clearWaiter).uplink = s.uplink := rfl

@[simp] theorem State.clearWaiter_lanes (s : State) : (s.clearWaiter).lanes = s.lanes := rfl

@[simp] theorem State.clearWaiter_store (s : State) : (s.clearWaiter).store = s.store := rfl

@[simp] theorem State.clearWaiter_sweeper (s : State) :
    (s.clearWaiter).sweeper = {
      requests := s.sweeper.requests.map fun r => { r with waiter := false }
      sweep := s.sweeper.sweep.map fun w => { w with request := { w.request with waiter := false } } } := rfl

@[simp] theorem State.clearWaiter_clock (s : State) : (s.clearWaiter).clock = s.clock := rfl

@[simp] theorem State.clearWaiter_bus (s : State) : (s.clearWaiter).bus = s.bus := rfl

@[simp] theorem State.clearWaiter_scan (s : State) : (s.clearWaiter).scan = s.scan := rfl

@[simp] theorem State.clearWaiter_ctl (s : State) : (s.clearWaiter).ctl = s.ctl := rfl

/-! ### setLink -/

@[simp] theorem State.setLink_pending (s : State) (k : Link) :
    (s.setLink k).pending = s.pending := rfl

@[simp] theorem State.setLink_choices (s : State) (k : Link) :
    (s.setLink k).choices = s.choices := rfl

@[simp] theorem State.setLink_power (s : State) (k : Link) : (s.setLink k).power = s.power := rfl

@[simp] theorem State.setLink_straps (s : State) (k : Link) : (s.setLink k).straps = s.straps := rfl

@[simp] theorem State.setLink_settings (s : State) (k : Link) :
    (s.setLink k).settings = s.settings := rfl

@[simp] theorem State.setLink_settingsMemory (s : State) (k : Link) :
    (s.setLink k).settingsMemory = s.settingsMemory := rfl

@[simp] theorem State.setLink_uplink (s : State) (k : Link) : (s.setLink k).uplink = s.uplink := rfl

@[simp] theorem State.setLink_lanes (s : State) (k : Link) : (s.setLink k).lanes = s.lanes := rfl

@[simp] theorem State.setLink_store (s : State) (k : Link) : (s.setLink k).store = s.store := rfl

@[simp] theorem State.setLink_sweeper (s : State) (k : Link) :
    (s.setLink k).sweeper = s.sweeper := rfl

@[simp] theorem State.setLink_clock (s : State) (k : Link) : (s.setLink k).clock = s.clock := rfl

@[simp] theorem State.setLink_bus (s : State) (k : Link) :
    (s.setLink k).bus = { s.bus with link := k } := rfl

@[simp] theorem State.setLink_scan (s : State) (k : Link) : (s.setLink k).scan = s.scan := rfl

@[simp] theorem State.setLink_ctl (s : State) (k : Link) : (s.setLink k).ctl = s.ctl := rfl

/-! ### sendTo -/

@[simp] theorem State.sendTo_pending (s : State) (p : Fin 16) (f : BusFrame) (n : Nat) :
    (s.sendTo p f n).pending = s.pending := rfl

@[simp] theorem State.sendTo_choices (s : State) (p : Fin 16) (f : BusFrame) (n : Nat) :
    (s.sendTo p f n).choices = s.choices := rfl

@[simp] theorem State.sendTo_power (s : State) (p : Fin 16) (f : BusFrame) (n : Nat) :
    (s.sendTo p f n).power = s.power := rfl

@[simp] theorem State.sendTo_straps (s : State) (p : Fin 16) (f : BusFrame) (n : Nat) :
    (s.sendTo p f n).straps = s.straps := rfl

@[simp] theorem State.sendTo_settings (s : State) (p : Fin 16) (f : BusFrame) (n : Nat) :
    (s.sendTo p f n).settings = s.settings := rfl

@[simp] theorem State.sendTo_settingsMemory (s : State) (p : Fin 16) (f : BusFrame) (n : Nat) :
    (s.sendTo p f n).settingsMemory = s.settingsMemory := rfl

@[simp] theorem State.sendTo_uplink (s : State) (p : Fin 16) (f : BusFrame) (n : Nat) :
    (s.sendTo p f n).uplink = s.uplink := rfl

@[simp] theorem State.sendTo_lanes (s : State) (p : Fin 16) (f : BusFrame) (n : Nat) :
    (s.sendTo p f n).lanes = s.lanes := rfl

@[simp] theorem State.sendTo_store (s : State) (p : Fin 16) (f : BusFrame) (n : Nat) :
    (s.sendTo p f n).store = s.store := rfl

@[simp] theorem State.sendTo_sweeper (s : State) (p : Fin 16) (f : BusFrame) (n : Nat) :
    (s.sendTo p f n).sweeper = s.sweeper := rfl

@[simp] theorem State.sendTo_clock (s : State) (p : Fin 16) (f : BusFrame) (n : Nat) :
    (s.sendTo p f n).clock = s.clock := rfl

@[simp] theorem State.sendTo_bus (s : State) (p : Fin 16) (f : BusFrame) (n : Nat) :
    (s.sendTo p f n).bus = { s.bus with
      link := .sending (.addressed
        { pos := p, frame := f, nextCursor := n, recordGone := false, deliveryGone := false }),
      line := busBytes (p.val + 1) f } := rfl

@[simp] theorem State.sendTo_scan (s : State) (p : Fin 16) (f : BusFrame) (n : Nat) :
    (s.sendTo p f n).scan = { s.scan with exchanged := true, nextPos := p.val + 1 } := rfl

@[simp] theorem State.sendTo_ctl (s : State) (p : Fin 16) (f : BusFrame) (n : Nat) :
    (s.sendTo p f n).ctl = s.ctl := rfl

/-! ### setValidator -/

@[simp] theorem State.setValidator_pending (s : State) (p : Fin 16) (v : Validator) :
    (s.setValidator p v).pending = s.pending := rfl

@[simp] theorem State.setValidator_choices (s : State) (p : Fin 16) (v : Validator) :
    (s.setValidator p v).choices = s.choices := rfl

@[simp] theorem State.setValidator_power (s : State) (p : Fin 16) (v : Validator) :
    (s.setValidator p v).power = s.power := rfl

@[simp] theorem State.setValidator_straps (s : State) (p : Fin 16) (v : Validator) :
    (s.setValidator p v).straps = s.straps := rfl

@[simp] theorem State.setValidator_settings (s : State) (p : Fin 16) (v : Validator) :
    (s.setValidator p v).settings = s.settings := rfl

@[simp] theorem State.setValidator_settingsMemory (s : State) (p : Fin 16) (v : Validator) :
    (s.setValidator p v).settingsMemory = s.settingsMemory := rfl

@[simp] theorem State.setValidator_uplink (s : State) (p : Fin 16) (v : Validator) :
    (s.setValidator p v).uplink = s.uplink := rfl

@[simp] theorem State.setValidator_lanes (s : State) (p : Fin 16) (v : Validator) :
    (s.setValidator p v).lanes = s.lanes := rfl

@[simp] theorem State.setValidator_store (s : State) (p : Fin 16) (v : Validator) :
    (s.setValidator p v).store = s.store := rfl

@[simp] theorem State.setValidator_sweeper (s : State) (p : Fin 16) (v : Validator) :
    (s.setValidator p v).sweeper = s.sweeper := rfl

@[simp] theorem State.setValidator_clock (s : State) (p : Fin 16) (v : Validator) :
    (s.setValidator p v).clock = s.clock := rfl

@[simp] theorem State.setValidator_bus (s : State) (p : Fin 16) (v : Validator) :
    (s.setValidator p v).bus = s.bus := rfl

@[simp] theorem State.setValidator_scan (s : State) (p : Fin 16) (v : Validator) :
    (s.setValidator p v).scan = { s.scan with records := s.scan.records.set p v } := rfl

@[simp] theorem State.setValidator_ctl (s : State) (p : Fin 16) (v : Validator) :
    (s.setValidator p v).ctl = s.ctl := rfl

/-! ### eachValidator -/

@[simp] theorem State.eachValidator_pending (s : State) (f : Fin 16 → Validator → Validator) :
    (s.eachValidator f).pending = s.pending := rfl

@[simp] theorem State.eachValidator_choices (s : State) (f : Fin 16 → Validator → Validator) :
    (s.eachValidator f).choices = s.choices := rfl

@[simp] theorem State.eachValidator_power (s : State) (f : Fin 16 → Validator → Validator) :
    (s.eachValidator f).power = s.power := rfl

@[simp] theorem State.eachValidator_straps (s : State) (f : Fin 16 → Validator → Validator) :
    (s.eachValidator f).straps = s.straps := rfl

@[simp] theorem State.eachValidator_settings (s : State) (f : Fin 16 → Validator → Validator) :
    (s.eachValidator f).settings = s.settings := rfl

@[simp] theorem State.eachValidator_settingsMemory (s : State) (f : Fin 16 → Validator → Validator) :
    (s.eachValidator f).settingsMemory = s.settingsMemory := rfl

@[simp] theorem State.eachValidator_uplink (s : State) (f : Fin 16 → Validator → Validator) :
    (s.eachValidator f).uplink = s.uplink := rfl

@[simp] theorem State.eachValidator_lanes (s : State) (f : Fin 16 → Validator → Validator) :
    (s.eachValidator f).lanes = s.lanes := rfl

@[simp] theorem State.eachValidator_store (s : State) (f : Fin 16 → Validator → Validator) :
    (s.eachValidator f).store = s.store := rfl

@[simp] theorem State.eachValidator_sweeper (s : State) (f : Fin 16 → Validator → Validator) :
    (s.eachValidator f).sweeper = s.sweeper := rfl

@[simp] theorem State.eachValidator_clock (s : State) (f : Fin 16 → Validator → Validator) :
    (s.eachValidator f).clock = s.clock := rfl

@[simp] theorem State.eachValidator_bus (s : State) (f : Fin 16 → Validator → Validator) :
    (s.eachValidator f).bus = s.bus := rfl

@[simp] theorem State.eachValidator_scan (s : State) (f : Fin 16 → Validator → Validator) :
    (s.eachValidator f).scan = { s.scan with records := eachOf s.scan.records f } := rfl

@[simp] theorem State.eachValidator_ctl (s : State) (f : Fin 16 → Validator → Validator) :
    (s.eachValidator f).ctl = s.ctl := rfl

/-! ### popIngress -/

@[simp] theorem State.popIngress_pending (s : State) : (s.popIngress).pending = s.pending := rfl

@[simp] theorem State.popIngress_choices (s : State) : (s.popIngress).choices = s.choices := rfl

@[simp] theorem State.popIngress_power (s : State) : (s.popIngress).power = s.power := rfl

@[simp] theorem State.popIngress_straps (s : State) : (s.popIngress).straps = s.straps := rfl

@[simp] theorem State.popIngress_settings (s : State) : (s.popIngress).settings = s.settings := rfl

@[simp] theorem State.popIngress_settingsMemory (s : State) :
    (s.popIngress).settingsMemory = s.settingsMemory := rfl

@[simp] theorem State.popIngress_uplink (s : State) :
    (s.popIngress).uplink = { s.uplink with ingress := s.uplink.ingress.tail, checkedHead := none } := rfl

@[simp] theorem State.popIngress_lanes (s : State) : (s.popIngress).lanes = s.lanes := rfl

@[simp] theorem State.popIngress_store (s : State) : (s.popIngress).store = s.store := rfl

@[simp] theorem State.popIngress_sweeper (s : State) : (s.popIngress).sweeper = s.sweeper := rfl

@[simp] theorem State.popIngress_clock (s : State) : (s.popIngress).clock = s.clock := rfl

@[simp] theorem State.popIngress_bus (s : State) : (s.popIngress).bus = s.bus := rfl

@[simp] theorem State.popIngress_scan (s : State) : (s.popIngress).scan = s.scan := rfl

@[simp] theorem State.popIngress_ctl (s : State) : (s.popIngress).ctl = s.ctl := rfl

/-! ### popControl -/

@[simp] theorem State.popControl_pending (s : State) : (s.popControl).pending = s.pending := rfl

@[simp] theorem State.popControl_choices (s : State) : (s.popControl).choices = s.choices := rfl

@[simp] theorem State.popControl_power (s : State) : (s.popControl).power = s.power := rfl

@[simp] theorem State.popControl_straps (s : State) : (s.popControl).straps = s.straps := rfl

@[simp] theorem State.popControl_settings (s : State) : (s.popControl).settings = s.settings := rfl

@[simp] theorem State.popControl_settingsMemory (s : State) :
    (s.popControl).settingsMemory = s.settingsMemory := rfl

@[simp] theorem State.popControl_uplink (s : State) :
    (s.popControl).uplink = { s.uplink with control := s.uplink.control.tail } := rfl

@[simp] theorem State.popControl_lanes (s : State) : (s.popControl).lanes = s.lanes := rfl

@[simp] theorem State.popControl_store (s : State) : (s.popControl).store = s.store := rfl

@[simp] theorem State.popControl_sweeper (s : State) : (s.popControl).sweeper = s.sweeper := rfl

@[simp] theorem State.popControl_clock (s : State) : (s.popControl).clock = s.clock := rfl

@[simp] theorem State.popControl_bus (s : State) : (s.popControl).bus = s.bus := rfl

@[simp] theorem State.popControl_scan (s : State) : (s.popControl).scan = s.scan := rfl

@[simp] theorem State.popControl_ctl (s : State) : (s.popControl).ctl = s.ctl := rfl

/-! ### carryOut -/

@[simp] theorem State.carryOut_pending (s : State) (h : CommandHead) (w : CommandWork) :
    (s.carryOut h w).pending = s.pending := rfl

@[simp] theorem State.carryOut_choices (s : State) (h : CommandHead) (w : CommandWork) :
    (s.carryOut h w).choices = s.choices := rfl

@[simp] theorem State.carryOut_power (s : State) (h : CommandHead) (w : CommandWork) :
    (s.carryOut h w).power = s.power := rfl

@[simp] theorem State.carryOut_straps (s : State) (h : CommandHead) (w : CommandWork) :
    (s.carryOut h w).straps = s.straps := rfl

@[simp] theorem State.carryOut_settings (s : State) (h : CommandHead) (w : CommandWork) :
    (s.carryOut h w).settings = s.settings := rfl

@[simp] theorem State.carryOut_settingsMemory (s : State) (h : CommandHead) (w : CommandWork) :
    (s.carryOut h w).settingsMemory = s.settingsMemory := rfl

@[simp] theorem State.carryOut_uplink (s : State) (h : CommandHead) (w : CommandWork) :
    (s.carryOut h w).uplink = s.uplink := rfl

@[simp] theorem State.carryOut_lanes (s : State) (h : CommandHead) (w : CommandWork) :
    (s.carryOut h w).lanes = s.lanes := rfl

@[simp] theorem State.carryOut_store (s : State) (h : CommandHead) (w : CommandWork) :
    (s.carryOut h w).store = s.store := rfl

@[simp] theorem State.carryOut_sweeper (s : State) (h : CommandHead) (w : CommandWork) :
    (s.carryOut h w).sweeper = s.sweeper := rfl

@[simp] theorem State.carryOut_clock (s : State) (h : CommandHead) (w : CommandWork) :
    (s.carryOut h w).clock = s.clock := rfl

@[simp] theorem State.carryOut_bus (s : State) (h : CommandHead) (w : CommandWork) :
    (s.carryOut h w).bus = s.bus := rfl

@[simp] theorem State.carryOut_scan (s : State) (h : CommandHead) (w : CommandWork) :
    (s.carryOut h w).scan = s.scan := rfl

@[simp] theorem State.carryOut_ctl (s : State) (h : CommandHead) (w : CommandWork) :
    (s.carryOut h w).ctl = { s.ctl with command := .carryingOut h w } := rfl

/-! ### pause -/

@[simp] theorem State.pause_pending (s : State) : (s.pause).pending = s.pending := rfl

@[simp] theorem State.pause_choices (s : State) : (s.pause).choices = s.choices := rfl

@[simp] theorem State.pause_power (s : State) : (s.pause).power = s.power := rfl

@[simp] theorem State.pause_straps (s : State) : (s.pause).straps = s.straps := rfl

@[simp] theorem State.pause_settings (s : State) : (s.pause).settings = s.settings := rfl

@[simp] theorem State.pause_settingsMemory (s : State) :
    (s.pause).settingsMemory = s.settingsMemory := rfl

@[simp] theorem State.pause_uplink (s : State) : (s.pause).uplink = s.uplink := rfl

@[simp] theorem State.pause_lanes (s : State) : (s.pause).lanes = s.lanes := rfl

@[simp] theorem State.pause_store (s : State) : (s.pause).store = s.store := rfl

@[simp] theorem State.pause_sweeper (s : State) : (s.pause).sweeper = s.sweeper := rfl

@[simp] theorem State.pause_clock (s : State) : (s.pause).clock = s.clock := rfl

@[simp] theorem State.pause_bus (s : State) : (s.pause).bus = s.bus := rfl

@[simp] theorem State.pause_scan (s : State) :
    (s.pause).scan = { s.scan with phase := .paused (quietMs s.settings.quiet) } := rfl

@[simp] theorem State.pause_ctl (s : State) : (s.pause).ctl = s.ctl := rfl

/-! ### Derived readings -/

@[simp] theorem State.lane_setLane_same (s : State) (l : Lane) (r : LaneRec) :
    (s.setLane l r).lane l = r := by
  simp [State.lane]

@[simp] theorem State.lane_setLane_other (s : State) (l : Lane) (r : LaneRec) :
    (s.setLane l r).lane l.other = s.lane l.other := by
  simp [State.lane]

theorem State.lane_setLane (s : State) (l k : Lane) (r : LaneRec) :
    (s.setLane l r).lane k = if k = l then r else s.lane k := by
  simp [State.lane, PerLane.get_set]

@[simp] theorem State.region_setRegion_same (s : State) (l : Lane) (m : Memory) :
    (s.setRegion l m).region l = m := by
  simp [State.region]

@[simp] theorem State.region_setRegion_other (s : State) (l : Lane) (m : Memory) :
    (s.setRegion l m).region l.other = s.region l.other := by
  simp [State.region]

@[simp] theorem State.validator_setValidator_same (s : State) (p : Fin 16) (v : Validator) :
    (s.setValidator p v).validator p = v := by
  simp [State.validator]

theorem State.validator_setValidator_ne (s : State) (p q : Fin 16) (v : Validator) (h : p ≠ q) :
    (s.setValidator p v).validator q = s.validator q := by
  have hv : p.val ≠ q.val := fun e => h (Fin.ext e)
  simp [State.validator, Vector.getElem_set_ne _ _ hv]

@[simp] theorem eachOf_get {α β : Type} {n : Nat} (v : Vector α n) (f : Fin n → α → β) (i : Fin n) :
    (eachOf v f)[i] = f i v[i] := by
  simp [eachOf]

@[simp] theorem State.validator_eachValidator (s : State) (f : Fin 16 → Validator → Validator)
    (p : Fin 16) : (s.eachValidator f).validator p = f p (s.validator p) := by
  show (eachOf s.scan.records f)[p] = _
  rw [eachOf_get]
  rfl

@[simp] theorem State.whileRunning_running (s : State) (f : State → State) (h : s.power = .running) :
    s.whileRunning f = .next (f s) := by
  simp [State.whileRunning, h]

@[simp] theorem State.whileRunning_held (s : State) (f : State → State)
    (h : s.power = .heldInReset) : s.whileRunning f = .next s := by
  simp [State.whileRunning, h]

end Sys2Proof.Machine
end

