-- ==== Sys2Proof/Laws/Frames.lean ====
section
/-! SUPPORT. The frame of every shared operation and step: the fields of the state it leaves alone. -/

namespace Sys2Proof.Machine

/-! ### Shared operations -/

@[simp] theorem State.alert_frame (s : State) (f : EventFlag) (c : AlertContext) :
    (s.alert f c).pending = s.pending ∧ (s.alert f c).choices = s.choices
    ∧ (s.alert f c).power = s.power ∧ (s.alert f c).straps = s.straps
    ∧ (s.alert f c).settings = s.settings ∧ (s.alert f c).settingsMemory = s.settingsMemory
    ∧ (s.alert f c).lanes = s.lanes ∧ (s.alert f c).store = s.store
    ∧ (s.alert f c).sweeper = s.sweeper ∧ (s.alert f c).clock = s.clock
    ∧ (s.alert f c).bus = s.bus ∧ (s.alert f c).scan = s.scan := by
  simp only [State.alert]
  repeat (any_goals split)
  all_goals simp

@[simp] theorem State.rise_frame (s : State) (f : EventFlag) (c : AlertContext) :
    (s.rise f c).pending = s.pending ∧ (s.rise f c).choices = s.choices
    ∧ (s.rise f c).power = s.power ∧ (s.rise f c).straps = s.straps
    ∧ (s.rise f c).settings = s.settings ∧ (s.rise f c).settingsMemory = s.settingsMemory
    ∧ (s.rise f c).lanes = s.lanes ∧ (s.rise f c).store = s.store
    ∧ (s.rise f c).sweeper = s.sweeper ∧ (s.rise f c).clock = s.clock ∧ (s.rise f c).bus = s.bus
    ∧ (s.rise f c).scan = s.scan := by
  simp only [State.rise]
  repeat (any_goals split)
  all_goals simp

@[simp] theorem State.deliverAnswer_frame (s : State) (a : PendingAnswer) :
    (s.deliverAnswer a).pending = s.pending ∧ (s.deliverAnswer a).choices = s.choices
    ∧ (s.deliverAnswer a).power = s.power ∧ (s.deliverAnswer a).straps = s.straps
    ∧ (s.deliverAnswer a).settingsMemory = s.settingsMemory ∧ (s.deliverAnswer a).lanes = s.lanes
    ∧ (s.deliverAnswer a).store = s.store ∧ (s.deliverAnswer a).sweeper = s.sweeper
    ∧ (s.deliverAnswer a).clock = s.clock ∧ (s.deliverAnswer a).bus = s.bus
    ∧ (s.deliverAnswer a).scan = s.scan := by
  simp only [State.deliverAnswer, State.placeAnswer]
  repeat (any_goals split)
  all_goals simp

@[simp] theorem State.answer_frame (s : State) (h : CommandHead) (r : CommandResult) (b : List Byte) :
    (s.answer h r b).pending = s.pending ∧ (s.answer h r b).choices = s.choices
    ∧ (s.answer h r b).power = s.power ∧ (s.answer h r b).straps = s.straps
    ∧ (s.answer h r b).settings = s.settings ∧ (s.answer h r b).settingsMemory = s.settingsMemory
    ∧ (s.answer h r b).lanes = s.lanes ∧ (s.answer h r b).store = s.store
    ∧ (s.answer h r b).sweeper = s.sweeper ∧ (s.answer h r b).clock = s.clock
    ∧ (s.answer h r b).bus = s.bus ∧ (s.answer h r b).scan = s.scan := by
  simp only [State.answer, State.deliverAnswer, State.placeAnswer]
  repeat (any_goals split)
  all_goals simp

@[simp] theorem State.laneCommandDone_frame (s : State) (l : Lane) :
    (s.laneCommandDone l).pending = s.pending ∧ (s.laneCommandDone l).choices = s.choices
    ∧ (s.laneCommandDone l).power = s.power ∧ (s.laneCommandDone l).straps = s.straps
    ∧ (s.laneCommandDone l).settings = s.settings
    ∧ (s.laneCommandDone l).settingsMemory = s.settingsMemory
    ∧ (s.laneCommandDone l).lanes = s.lanes ∧ (s.laneCommandDone l).store = s.store
    ∧ (s.laneCommandDone l).sweeper = s.sweeper ∧ (s.laneCommandDone l).clock = s.clock
    ∧ (s.laneCommandDone l).bus = s.bus ∧ (s.laneCommandDone l).scan = s.scan := by
  simp only [State.laneCommandDone]
  repeat (any_goals split)
  all_goals simp

@[simp] theorem State.giveUpItem_frame (s : State) (seg : Segment) (n : Nat) :
    (s.giveUpItem seg n).pending = s.pending ∧ (s.giveUpItem seg n).power = s.power
    ∧ (s.giveUpItem seg n).straps = s.straps ∧ (s.giveUpItem seg n).settings = s.settings
    ∧ (s.giveUpItem seg n).settingsMemory = s.settingsMemory
    ∧ (s.giveUpItem seg n).uplink = s.uplink ∧ (s.giveUpItem seg n).lanes = s.lanes
    ∧ (s.giveUpItem seg n).sweeper = s.sweeper ∧ (s.giveUpItem seg n).clock = s.clock
    ∧ (s.giveUpItem seg n).bus = s.bus ∧ (s.giveUpItem seg n).scan = s.scan
    ∧ (s.giveUpItem seg n).ctl = s.ctl := by
  simp only [State.giveUpItem]
  repeat (any_goals split)
  all_goals simp

@[simp] theorem State.abandonSegment_frame (s : State) (l : Lane) :
    (s.abandonSegment l).pending = s.pending ∧ (s.abandonSegment l).power = s.power
    ∧ (s.abandonSegment l).straps = s.straps ∧ (s.abandonSegment l).settings = s.settings
    ∧ (s.abandonSegment l).settingsMemory = s.settingsMemory
    ∧ (s.abandonSegment l).uplink = s.uplink ∧ (s.abandonSegment l).lanes = s.lanes
    ∧ (s.abandonSegment l).clock = s.clock ∧ (s.abandonSegment l).bus = s.bus
    ∧ (s.abandonSegment l).scan = s.scan ∧ (s.abandonSegment l).ctl = s.ctl := by
  simp only [State.abandonSegment]
  repeat (any_goals split)
  all_goals simp

@[simp] theorem State.beginRound_frame (s : State) (n : Nat) :
    (s.beginRound n).pending = s.pending ∧ (s.beginRound n).choices = s.choices
    ∧ (s.beginRound n).power = s.power ∧ (s.beginRound n).straps = s.straps
    ∧ (s.beginRound n).settings = s.settings ∧ (s.beginRound n).settingsMemory = s.settingsMemory
    ∧ (s.beginRound n).uplink = s.uplink ∧ (s.beginRound n).lanes = s.lanes
    ∧ (s.beginRound n).store = s.store ∧ (s.beginRound n).sweeper = s.sweeper
    ∧ (s.beginRound n).clock = s.clock ∧ (s.beginRound n).bus = s.bus
    ∧ (s.beginRound n).ctl = s.ctl := by
  simp only [State.beginRound]
  repeat (any_goals split)
  all_goals simp

@[simp] theorem State.nextRound_frame (s : State) :
    (s.nextRound).pending = s.pending ∧ (s.nextRound).choices = s.choices
    ∧ (s.nextRound).power = s.power ∧ (s.nextRound).straps = s.straps
    ∧ (s.nextRound).settings = s.settings ∧ (s.nextRound).settingsMemory = s.settingsMemory
    ∧ (s.nextRound).uplink = s.uplink ∧ (s.nextRound).lanes = s.lanes
    ∧ (s.nextRound).store = s.store ∧ (s.nextRound).sweeper = s.sweeper
    ∧ (s.nextRound).clock = s.clock ∧ (s.nextRound).bus = s.bus ∧ (s.nextRound).ctl = s.ctl := by
  simp only [State.nextRound]
  repeat (any_goals split)
  all_goals simp

@[simp] theorem State.endRound_frame (s : State) :
    (s.endRound).pending = s.pending ∧ (s.endRound).choices = s.choices
    ∧ (s.endRound).power = s.power ∧ (s.endRound).straps = s.straps
    ∧ (s.endRound).settings = s.settings ∧ (s.endRound).settingsMemory = s.settingsMemory
    ∧ (s.endRound).uplink = s.uplink ∧ (s.endRound).lanes = s.lanes ∧ (s.endRound).store = s.store
    ∧ (s.endRound).sweeper = s.sweeper ∧ (s.endRound).clock = s.clock ∧ (s.endRound).bus = s.bus
    ∧ (s.endRound).ctl = s.ctl := by
  simp only [State.endRound]
  repeat (any_goals split)
  all_goals simp

@[simp] theorem State.settleScan_frame (s : State) :
    (s.settleScan).pending = s.pending ∧ (s.settleScan).choices = s.choices
    ∧ (s.settleScan).power = s.power ∧ (s.settleScan).straps = s.straps
    ∧ (s.settleScan).settings = s.settings ∧ (s.settleScan).settingsMemory = s.settingsMemory
    ∧ (s.settleScan).uplink = s.uplink ∧ (s.settleScan).lanes = s.lanes
    ∧ (s.settleScan).store = s.store ∧ (s.settleScan).sweeper = s.sweeper
    ∧ (s.settleScan).clock = s.clock ∧ (s.settleScan).bus = s.bus ∧ (s.settleScan).ctl = s.ctl := by
  simp only [State.settleScan]
  repeat (any_goals split)
  all_goals simp

@[simp] theorem State.noteReport_frame (s : State) :
    (s.noteReport).pending = s.pending ∧ (s.noteReport).choices = s.choices
    ∧ (s.noteReport).power = s.power ∧ (s.noteReport).straps = s.straps
    ∧ (s.noteReport).settings = s.settings ∧ (s.noteReport).settingsMemory = s.settingsMemory
    ∧ (s.noteReport).uplink = s.uplink ∧ (s.noteReport).lanes = s.lanes
    ∧ (s.noteReport).store = s.store ∧ (s.noteReport).sweeper = s.sweeper
    ∧ (s.noteReport).clock = s.clock ∧ (s.noteReport).bus = s.bus ∧ (s.noteReport).ctl = s.ctl := by
  simp only [State.noteReport]
  all_goals simp

@[simp] theorem State.wakeScan_frame (s : State) :
    (s.wakeScan).pending = s.pending ∧ (s.wakeScan).choices = s.choices
    ∧ (s.wakeScan).power = s.power ∧ (s.wakeScan).straps = s.straps
    ∧ (s.wakeScan).settings = s.settings ∧ (s.wakeScan).settingsMemory = s.settingsMemory
    ∧ (s.wakeScan).uplink = s.uplink ∧ (s.wakeScan).lanes = s.lanes ∧ (s.wakeScan).store = s.store
    ∧ (s.wakeScan).sweeper = s.sweeper ∧ (s.wakeScan).clock = s.clock ∧ (s.wakeScan).bus = s.bus
    ∧ (s.wakeScan).ctl = s.ctl := by
  simp only [State.wakeScan]
  repeat (any_goals split)
  all_goals simp

@[simp] theorem State.dropBuild_frame (s : State) (p : Fin 16) :
    (s.dropBuild p).pending = s.pending ∧ (s.dropBuild p).choices = s.choices
    ∧ (s.dropBuild p).power = s.power ∧ (s.dropBuild p).straps = s.straps
    ∧ (s.dropBuild p).settings = s.settings ∧ (s.dropBuild p).settingsMemory = s.settingsMemory
    ∧ (s.dropBuild p).uplink = s.uplink ∧ (s.dropBuild p).lanes = s.lanes
    ∧ (s.dropBuild p).store = s.store ∧ (s.dropBuild p).sweeper = s.sweeper
    ∧ (s.dropBuild p).clock = s.clock ∧ (s.dropBuild p).bus = s.bus ∧ (s.dropBuild p).ctl = s.ctl := by
  simp only [State.dropBuild]
  all_goals simp

@[simp] theorem State.abandonWhere_frame (s : State) (l : Lane) (t : Fin 16 → Delivery → Bool) :
    (s.abandonWhere l t).pending = s.pending ∧ (s.abandonWhere l t).choices = s.choices
    ∧ (s.abandonWhere l t).power = s.power ∧ (s.abandonWhere l t).straps = s.straps
    ∧ (s.abandonWhere l t).settings = s.settings
    ∧ (s.abandonWhere l t).settingsMemory = s.settingsMemory
    ∧ (s.abandonWhere l t).uplink = s.uplink ∧ (s.abandonWhere l t).lanes = s.lanes
    ∧ (s.abandonWhere l t).store = s.store ∧ (s.abandonWhere l t).sweeper = s.sweeper
    ∧ (s.abandonWhere l t).clock = s.clock ∧ (s.abandonWhere l t).ctl = s.ctl := by
  simp only [State.abandonWhere]
  repeat (any_goals split)
  all_goals simp

@[simp] theorem State.eachLaneRecord_frame (s : State) (l : Lane) (f : ValidatorLane → ValidatorLane) :
    (s.eachLaneRecord l f).pending = s.pending ∧ (s.eachLaneRecord l f).choices = s.choices
    ∧ (s.eachLaneRecord l f).power = s.power ∧ (s.eachLaneRecord l f).straps = s.straps
    ∧ (s.eachLaneRecord l f).settings = s.settings
    ∧ (s.eachLaneRecord l f).settingsMemory = s.settingsMemory
    ∧ (s.eachLaneRecord l f).uplink = s.uplink ∧ (s.eachLaneRecord l f).lanes = s.lanes
    ∧ (s.eachLaneRecord l f).store = s.store ∧ (s.eachLaneRecord l f).sweeper = s.sweeper
    ∧ (s.eachLaneRecord l f).clock = s.clock ∧ (s.eachLaneRecord l f).bus = s.bus
    ∧ (s.eachLaneRecord l f).ctl = s.ctl := by
  simp only [State.eachLaneRecord]
  all_goals simp

@[simp] theorem State.checkWalk_frame (s : State) :
    (s.checkWalk).pending = s.pending ∧ (s.checkWalk).choices = s.choices
    ∧ (s.checkWalk).power = s.power ∧ (s.checkWalk).straps = s.straps
    ∧ (s.checkWalk).settings = s.settings ∧ (s.checkWalk).settingsMemory = s.settingsMemory
    ∧ (s.checkWalk).uplink = s.uplink ∧ (s.checkWalk).lanes = s.lanes
    ∧ (s.checkWalk).store = s.store ∧ (s.checkWalk).sweeper = s.sweeper
    ∧ (s.checkWalk).clock = s.clock ∧ (s.checkWalk).bus = s.bus ∧ (s.checkWalk).ctl = s.ctl := by
  simp only [State.checkWalk]
  repeat (any_goals split)
  all_goals simp

@[simp] theorem State.reportStaging_frame (s : State) :
    (s.reportStaging).pending = s.pending ∧ (s.reportStaging).choices = s.choices
    ∧ (s.reportStaging).power = s.power ∧ (s.reportStaging).straps = s.straps
    ∧ (s.reportStaging).settings = s.settings
    ∧ (s.reportStaging).settingsMemory = s.settingsMemory ∧ (s.reportStaging).uplink = s.uplink
    ∧ (s.reportStaging).lanes = s.lanes ∧ (s.reportStaging).store = s.store
    ∧ (s.reportStaging).sweeper = s.sweeper ∧ (s.reportStaging).clock = s.clock
    ∧ (s.reportStaging).bus = s.bus ∧ (s.reportStaging).ctl = s.ctl := by
  simp only [State.reportStaging]
  all_goals simp

@[simp] theorem State.reportGone_frame (s : State) (l : Lane) (g : Nat) :
    (s.reportGone l g).pending = s.pending ∧ (s.reportGone l g).choices = s.choices
    ∧ (s.reportGone l g).power = s.power ∧ (s.reportGone l g).straps = s.straps
    ∧ (s.reportGone l g).settings = s.settings
    ∧ (s.reportGone l g).settingsMemory = s.settingsMemory ∧ (s.reportGone l g).uplink = s.uplink
    ∧ (s.reportGone l g).lanes = s.lanes ∧ (s.reportGone l g).store = s.store
    ∧ (s.reportGone l g).sweeper = s.sweeper ∧ (s.reportGone l g).clock = s.clock
    ∧ (s.reportGone l g).ctl = s.ctl := by
  simp only [State.reportGone]
  repeat (any_goals split)
  all_goals simp

@[simp] theorem State.onWaitingSwitches_frame (s : State) (f : List Switch → List Switch) :
    (s.onWaitingSwitches f).pending = s.pending ∧ (s.onWaitingSwitches f).choices = s.choices
    ∧ (s.onWaitingSwitches f).power = s.power ∧ (s.onWaitingSwitches f).straps = s.straps
    ∧ (s.onWaitingSwitches f).settings = s.settings
    ∧ (s.onWaitingSwitches f).settingsMemory = s.settingsMemory
    ∧ (s.onWaitingSwitches f).uplink = s.uplink ∧ (s.onWaitingSwitches f).lanes = s.lanes
    ∧ (s.onWaitingSwitches f).store = s.store ∧ (s.onWaitingSwitches f).sweeper = s.sweeper
    ∧ (s.onWaitingSwitches f).clock = s.clock ∧ (s.onWaitingSwitches f).bus = s.bus
    ∧ (s.onWaitingSwitches f).ctl = s.ctl := by
  simp only [State.onWaitingSwitches]
  all_goals simp

@[simp] theorem State.removeSwitch_frame (s : State) (l : Lane) :
    (s.removeSwitch l).pending = s.pending ∧ (s.removeSwitch l).choices = s.choices
    ∧ (s.removeSwitch l).power = s.power ∧ (s.removeSwitch l).straps = s.straps
    ∧ (s.removeSwitch l).settings = s.settings
    ∧ (s.removeSwitch l).settingsMemory = s.settingsMemory ∧ (s.removeSwitch l).uplink = s.uplink
    ∧ (s.removeSwitch l).lanes = s.lanes ∧ (s.removeSwitch l).store = s.store
    ∧ (s.removeSwitch l).sweeper = s.sweeper ∧ (s.removeSwitch l).clock = s.clock
    ∧ (s.removeSwitch l).bus = s.bus ∧ (s.removeSwitch l).ctl = s.ctl := by
  simp only [State.removeSwitch]
  all_goals simp

@[simp] theorem State.reportActivated_frame (s : State) (l : Lane) (g : Nat) :
    (s.reportActivated l g).pending = s.pending ∧ (s.reportActivated l g).choices = s.choices
    ∧ (s.reportActivated l g).power = s.power ∧ (s.reportActivated l g).straps = s.straps
    ∧ (s.reportActivated l g).settings = s.settings
    ∧ (s.reportActivated l g).settingsMemory = s.settingsMemory
    ∧ (s.reportActivated l g).uplink = s.uplink ∧ (s.reportActivated l g).lanes = s.lanes
    ∧ (s.reportActivated l g).store = s.store ∧ (s.reportActivated l g).sweeper = s.sweeper
    ∧ (s.reportActivated l g).clock = s.clock ∧ (s.reportActivated l g).ctl = s.ctl := by
  simp only [State.reportActivated]
  all_goals simp

@[simp] theorem State.reportRollback_frame (s : State) (l : Lane) (g : Nat) :
    (s.reportRollback l g).pending = s.pending ∧ (s.reportRollback l g).choices = s.choices
    ∧ (s.reportRollback l g).power = s.power ∧ (s.reportRollback l g).straps = s.straps
    ∧ (s.reportRollback l g).settings = s.settings
    ∧ (s.reportRollback l g).settingsMemory = s.settingsMemory
    ∧ (s.reportRollback l g).uplink = s.uplink ∧ (s.reportRollback l g).lanes = s.lanes
    ∧ (s.reportRollback l g).store = s.store ∧ (s.reportRollback l g).sweeper = s.sweeper
    ∧ (s.reportRollback l g).clock = s.clock ∧ (s.reportRollback l g).ctl = s.ctl := by
  simp only [State.reportRollback]
  all_goals simp

@[simp] theorem State.reportCleared_frame (s : State) (l : Lane) :
    (s.reportCleared l).pending = s.pending ∧ (s.reportCleared l).choices = s.choices
    ∧ (s.reportCleared l).power = s.power ∧ (s.reportCleared l).straps = s.straps
    ∧ (s.reportCleared l).settings = s.settings
    ∧ (s.reportCleared l).settingsMemory = s.settingsMemory
    ∧ (s.reportCleared l).uplink = s.uplink ∧ (s.reportCleared l).lanes = s.lanes
    ∧ (s.reportCleared l).store = s.store ∧ (s.reportCleared l).sweeper = s.sweeper
    ∧ (s.reportCleared l).clock = s.clock ∧ (s.reportCleared l).ctl = s.ctl := by
  simp only [State.reportCleared]
  repeat (any_goals split)
  all_goals simp

@[simp] theorem State.stageDelta_frame (s : State) (l : Lane) (x : Notice) :
    (s.stageDelta l x).pending = s.pending ∧ (s.stageDelta l x).choices = s.choices
    ∧ (s.stageDelta l x).power = s.power ∧ (s.stageDelta l x).straps = s.straps
    ∧ (s.stageDelta l x).settings = s.settings
    ∧ (s.stageDelta l x).settingsMemory = s.settingsMemory ∧ (s.stageDelta l x).uplink = s.uplink
    ∧ (s.stageDelta l x).store = s.store ∧ (s.stageDelta l x).sweeper = s.sweeper
    ∧ (s.stageDelta l x).clock = s.clock ∧ (s.stageDelta l x).bus = s.bus
    ∧ (s.stageDelta l x).ctl = s.ctl := by
  simp only [State.stageDelta]
  all_goals simp

@[simp] theorem State.stageImage_frame (s : State) (l : Lane) (x : Notice) :
    (s.stageImage l x).pending = s.pending ∧ (s.stageImage l x).choices = s.choices
    ∧ (s.stageImage l x).power = s.power ∧ (s.stageImage l x).straps = s.straps
    ∧ (s.stageImage l x).settings = s.settings
    ∧ (s.stageImage l x).settingsMemory = s.settingsMemory ∧ (s.stageImage l x).uplink = s.uplink
    ∧ (s.stageImage l x).store = s.store ∧ (s.stageImage l x).clock = s.clock
    ∧ (s.stageImage l x).bus = s.bus ∧ (s.stageImage l x).ctl = s.ctl := by
  simp only [State.stageImage]
  all_goals simp

@[simp] theorem State.discard_frame (s : State) (l : Lane) (r : DiscardReason) (k : SweepKind) :
    (s.discard l r k).pending = s.pending ∧ (s.discard l r k).power = s.power
    ∧ (s.discard l r k).straps = s.straps ∧ (s.discard l r k).settings = s.settings
    ∧ (s.discard l r k).settingsMemory = s.settingsMemory ∧ (s.discard l r k).clock = s.clock := by
  simp only [State.discard]
  repeat (any_goals split)
  all_goals simp

@[simp] theorem State.discardUndo_frame (s : State) (l : Lane) (r : DiscardReason) :
    (s.discardUndo l r).pending = s.pending ∧ (s.discardUndo l r).power = s.power
    ∧ (s.discardUndo l r).straps = s.straps ∧ (s.discardUndo l r).settings = s.settings
    ∧ (s.discardUndo l r).settingsMemory = s.settingsMemory ∧ (s.discardUndo l r).clock = s.clock := by
  simp only [State.discardUndo]
  all_goals simp

@[simp] theorem State.activate_frame (s : State) (l : Lane) :
    (s.activate l).pending = s.pending ∧ (s.activate l).choices = s.choices
    ∧ (s.activate l).power = s.power ∧ (s.activate l).straps = s.straps
    ∧ (s.activate l).settings = s.settings ∧ (s.activate l).settingsMemory = s.settingsMemory
    ∧ (s.activate l).store = s.store ∧ (s.activate l).clock = s.clock := by
  simp only [State.activate]
  repeat (any_goals split)
  all_goals simp

@[simp] theorem State.testActivation_frame (s : State) (l : Lane) :
    (s.testActivation l).pending = s.pending ∧ (s.testActivation l).choices = s.choices
    ∧ (s.testActivation l).power = s.power ∧ (s.testActivation l).straps = s.straps
    ∧ (s.testActivation l).settings = s.settings
    ∧ (s.testActivation l).settingsMemory = s.settingsMemory
    ∧ (s.testActivation l).store = s.store ∧ (s.testActivation l).clock = s.clock := by
  simp only [State.testActivation]
  repeat (any_goals split)
  all_goals simp

@[simp] theorem State.reportClock_frame (s : State) :
    (s.reportClock).pending = s.pending ∧ (s.reportClock).power = s.power
    ∧ (s.reportClock).straps = s.straps ∧ (s.reportClock).settings = s.settings
    ∧ (s.reportClock).settingsMemory = s.settingsMemory ∧ (s.reportClock).store = s.store
    ∧ (s.reportClock).clock = s.clock := by
  simp only [State.reportClock]
  repeat (any_goals split)
  all_goals simp

@[simp] theorem State.verify_frame (s : State) (l : Lane) :
    (s.verify l).pending = s.pending ∧ (s.verify l).power = s.power
    ∧ (s.verify l).straps = s.straps ∧ (s.verify l).settings = s.settings
    ∧ (s.verify l).settingsMemory = s.settingsMemory ∧ (s.verify l).clock = s.clock := by
  simp only [State.verify]
  repeat (any_goals split)
  all_goals simp

@[simp] theorem State.completeSegment_frame (s : State) (l : Lane) (i : Nat) :
    (s.completeSegment l i).pending = s.pending ∧ (s.completeSegment l i).power = s.power
    ∧ (s.completeSegment l i).straps = s.straps ∧ (s.completeSegment l i).settings = s.settings
    ∧ (s.completeSegment l i).settingsMemory = s.settingsMemory
    ∧ (s.completeSegment l i).clock = s.clock := by
  simp only [State.completeSegment]
  repeat (any_goals split)
  all_goals simp

@[simp] theorem State.completeRollback_frame (s : State) (l : Lane) :
    (s.completeRollback l).pending = s.pending ∧ (s.completeRollback l).choices = s.choices
    ∧ (s.completeRollback l).power = s.power ∧ (s.completeRollback l).straps = s.straps
    ∧ (s.completeRollback l).settings = s.settings
    ∧ (s.completeRollback l).settingsMemory = s.settingsMemory
    ∧ (s.completeRollback l).store = s.store ∧ (s.completeRollback l).clock = s.clock := by
  simp only [State.completeRollback]
  repeat (any_goals split)
  all_goals simp

@[simp] theorem State.clearIdle_frame (s : State) (l : Lane) :
    (s.clearIdle l).pending = s.pending ∧ (s.clearIdle l).choices = s.choices
    ∧ (s.clearIdle l).power = s.power ∧ (s.clearIdle l).straps = s.straps
    ∧ (s.clearIdle l).settings = s.settings ∧ (s.clearIdle l).settingsMemory = s.settingsMemory
    ∧ (s.clearIdle l).uplink = s.uplink ∧ (s.clearIdle l).lanes = s.lanes
    ∧ (s.clearIdle l).store = s.store ∧ (s.clearIdle l).clock = s.clock
    ∧ (s.clearIdle l).bus = s.bus ∧ (s.clearIdle l).scan = s.scan ∧ (s.clearIdle l).ctl = s.ctl := by
  simp only [State.clearIdle]
  repeat (any_goals split)
  all_goals simp

@[simp] theorem State.acceptClear_frame (s : State) (l : Lane) (c : LaneCommand) :
    (s.acceptClear l c).pending = s.pending ∧ (s.acceptClear l c).power = s.power
    ∧ (s.acceptClear l c).straps = s.straps ∧ (s.acceptClear l c).settings = s.settings
    ∧ (s.acceptClear l c).settingsMemory = s.settingsMemory ∧ (s.acceptClear l c).clock = s.clock := by
  simp only [State.acceptClear]
  repeat (any_goals split)
  all_goals simp

@[simp] theorem State.offerIngress_frame (s : State) (m : IngressMessage) :
    (s.offerIngress m).pending = s.pending ∧ (s.offerIngress m).choices = s.choices
    ∧ (s.offerIngress m).power = s.power ∧ (s.offerIngress m).straps = s.straps
    ∧ (s.offerIngress m).settings = s.settings
    ∧ (s.offerIngress m).settingsMemory = s.settingsMemory ∧ (s.offerIngress m).lanes = s.lanes
    ∧ (s.offerIngress m).store = s.store ∧ (s.offerIngress m).sweeper = s.sweeper
    ∧ (s.offerIngress m).clock = s.clock ∧ (s.offerIngress m).bus = s.bus
    ∧ (s.offerIngress m).scan = s.scan := by
  simp only [State.offerIngress]
  repeat (any_goals split)
  all_goals simp

@[simp] theorem State.offerControl_frame (s : State) (m : ControlMessage) :
    (s.offerControl m).pending = s.pending ∧ (s.offerControl m).choices = s.choices
    ∧ (s.offerControl m).power = s.power ∧ (s.offerControl m).straps = s.straps
    ∧ (s.offerControl m).settings = s.settings
    ∧ (s.offerControl m).settingsMemory = s.settingsMemory ∧ (s.offerControl m).lanes = s.lanes
    ∧ (s.offerControl m).store = s.store ∧ (s.offerControl m).sweeper = s.sweeper
    ∧ (s.offerControl m).clock = s.clock ∧ (s.offerControl m).bus = s.bus
    ∧ (s.offerControl m).scan = s.scan ∧ (s.offerControl m).ctl = s.ctl := by
  simp only [State.offerControl]
  repeat (any_goals split)
  all_goals simp

@[simp] theorem State.offerBeacon_frame (s : State) (t : Nat) :
    (s.offerBeacon t).pending = s.pending ∧ (s.offerBeacon t).power = s.power
    ∧ (s.offerBeacon t).straps = s.straps ∧ (s.offerBeacon t).settings = s.settings
    ∧ (s.offerBeacon t).settingsMemory = s.settingsMemory ∧ (s.offerBeacon t).store = s.store := by
  simp only [State.offerBeacon]
  repeat (any_goals split)
  all_goals simp

@[simp] theorem State.testStaging_frame (s : State) (l : Lane) (x : Notice) :
    (s.testStaging l x).pending = s.pending ∧ (s.testStaging l x).power = s.power
    ∧ (s.testStaging l x).straps = s.straps ∧ (s.testStaging l x).settings = s.settings
    ∧ (s.testStaging l x).settingsMemory = s.settingsMemory ∧ (s.testStaging l x).clock = s.clock := by
  simp only [State.testStaging]
  repeat (any_goals split)
  all_goals simp

@[simp] theorem State.takeNotice_frame (s : State) (l : Lane) (x : Notice) :
    (s.takeNotice l x).pending = s.pending ∧ (s.takeNotice l x).power = s.power
    ∧ (s.takeNotice l x).straps = s.straps ∧ (s.takeNotice l x).settings = s.settings
    ∧ (s.takeNotice l x).settingsMemory = s.settingsMemory ∧ (s.takeNotice l x).clock = s.clock := by
  simp only [State.takeNotice]
  repeat (any_goals split)
  all_goals simp

@[simp] theorem State.matchHead_frame (s : State) (seg : Segment) :
    (s.matchHead seg).pending = s.pending ∧ (s.matchHead seg).choices = s.choices
    ∧ (s.matchHead seg).power = s.power ∧ (s.matchHead seg).straps = s.straps
    ∧ (s.matchHead seg).settings = s.settings
    ∧ (s.matchHead seg).settingsMemory = s.settingsMemory ∧ (s.matchHead seg).sweeper = s.sweeper
    ∧ (s.matchHead seg).clock = s.clock ∧ (s.matchHead seg).bus = s.bus
    ∧ (s.matchHead seg).scan = s.scan ∧ (s.matchHead seg).ctl = s.ctl := by
  simp only [State.matchHead]
  repeat (any_goals split)
  all_goals simp

@[simp] theorem State.nextItem_frame (s : State) (seg : Segment) (n : Nat) :
    (s.nextItem seg n).pending = s.pending ∧ (s.nextItem seg n).power = s.power
    ∧ (s.nextItem seg n).straps = s.straps ∧ (s.nextItem seg n).settings = s.settings
    ∧ (s.nextItem seg n).settingsMemory = s.settingsMemory ∧ (s.nextItem seg n).clock = s.clock := by
  simp only [State.nextItem]
  repeat (any_goals split)
  all_goals simp

@[simp] theorem State.waitForReclaim_frame (s : State) (seg : Segment) (n : Nat) :
    (s.waitForReclaim seg n).pending = s.pending ∧ (s.waitForReclaim seg n).choices = s.choices
    ∧ (s.waitForReclaim seg n).power = s.power ∧ (s.waitForReclaim seg n).straps = s.straps
    ∧ (s.waitForReclaim seg n).settings = s.settings
    ∧ (s.waitForReclaim seg n).settingsMemory = s.settingsMemory
    ∧ (s.waitForReclaim seg n).uplink = s.uplink ∧ (s.waitForReclaim seg n).lanes = s.lanes
    ∧ (s.waitForReclaim seg n).clock = s.clock ∧ (s.waitForReclaim seg n).bus = s.bus
    ∧ (s.waitForReclaim seg n).scan = s.scan ∧ (s.waitForReclaim seg n).ctl = s.ctl := by
  simp only [State.waitForReclaim]
  all_goals simp

@[simp] theorem State.giveUpHistory_frame (s : State) (seg : Segment) (n : Nat) :
    (s.giveUpHistory seg n).pending = s.pending ∧ (s.giveUpHistory seg n).power = s.power
    ∧ (s.giveUpHistory seg n).straps = s.straps ∧ (s.giveUpHistory seg n).settings = s.settings
    ∧ (s.giveUpHistory seg n).settingsMemory = s.settingsMemory
    ∧ (s.giveUpHistory seg n).clock = s.clock := by
  simp only [State.giveUpHistory]
  repeat (any_goals split)
  all_goals simp

@[simp] theorem State.takeOutcome_frame (s : State) (seg : Segment) (n : Nat) (b : Bool) (o : ItemOutcome) :
    (s.takeOutcome seg n b o).pending = s.pending ∧ (s.takeOutcome seg n b o).power = s.power
    ∧ (s.takeOutcome seg n b o).straps = s.straps
    ∧ (s.takeOutcome seg n b o).settings = s.settings
    ∧ (s.takeOutcome seg n b o).settingsMemory = s.settingsMemory
    ∧ (s.takeOutcome seg n b o).clock = s.clock := by
  simp only [State.takeOutcome]
  repeat (any_goals split)
  all_goals simp

@[simp] theorem State.finishItem_frame (s : State) (seg : Segment) (n : Nat) :
    (s.finishItem seg n).pending = s.pending ∧ (s.finishItem seg n).choices = s.choices
    ∧ (s.finishItem seg n).power = s.power ∧ (s.finishItem seg n).straps = s.straps
    ∧ (s.finishItem seg n).settings = s.settings
    ∧ (s.finishItem seg n).settingsMemory = s.settingsMemory
    ∧ (s.finishItem seg n).uplink = s.uplink ∧ (s.finishItem seg n).lanes = s.lanes
    ∧ (s.finishItem seg n).sweeper = s.sweeper ∧ (s.finishItem seg n).clock = s.clock
    ∧ (s.finishItem seg n).bus = s.bus ∧ (s.finishItem seg n).scan = s.scan
    ∧ (s.finishItem seg n).ctl = s.ctl := by
  simp only [State.finishItem]
  repeat (any_goals split)
  all_goals simp

@[simp] theorem State.segmentAbandoned_frame (s : State) (l : Lane) :
    (s.segmentAbandoned l).pending = s.pending ∧ (s.segmentAbandoned l).choices = s.choices
    ∧ (s.segmentAbandoned l).power = s.power ∧ (s.segmentAbandoned l).straps = s.straps
    ∧ (s.segmentAbandoned l).settings = s.settings
    ∧ (s.segmentAbandoned l).settingsMemory = s.settingsMemory
    ∧ (s.segmentAbandoned l).uplink = s.uplink ∧ (s.segmentAbandoned l).lanes = s.lanes
    ∧ (s.segmentAbandoned l).clock = s.clock ∧ (s.segmentAbandoned l).bus = s.bus
    ∧ (s.segmentAbandoned l).scan = s.scan ∧ (s.segmentAbandoned l).ctl = s.ctl := by
  simp only [State.segmentAbandoned]
  all_goals simp

@[simp] theorem State.retireDone_frame (s : State) (l : Lane) :
    (s.retireDone l).pending = s.pending ∧ (s.retireDone l).choices = s.choices
    ∧ (s.retireDone l).power = s.power ∧ (s.retireDone l).straps = s.straps
    ∧ (s.retireDone l).settings = s.settings ∧ (s.retireDone l).settingsMemory = s.settingsMemory
    ∧ (s.retireDone l).uplink = s.uplink ∧ (s.retireDone l).store = s.store
    ∧ (s.retireDone l).clock = s.clock ∧ (s.retireDone l).bus = s.bus
    ∧ (s.retireDone l).scan = s.scan ∧ (s.retireDone l).ctl = s.ctl := by
  simp only [State.retireDone]
  repeat (any_goals split)
  all_goals simp

@[simp] theorem State.undoDone_frame (s : State) (l : Lane) :
    (s.undoDone l).pending = s.pending ∧ (s.undoDone l).choices = s.choices
    ∧ (s.undoDone l).power = s.power ∧ (s.undoDone l).straps = s.straps
    ∧ (s.undoDone l).settings = s.settings ∧ (s.undoDone l).settingsMemory = s.settingsMemory
    ∧ (s.undoDone l).store = s.store ∧ (s.undoDone l).clock = s.clock := by
  simp only [State.undoDone]
  repeat (any_goals split)
  all_goals simp

@[simp] theorem State.reclaimDone_frame (s : State) (b : Bool) :
    (s.reclaimDone b).pending = s.pending ∧ (s.reclaimDone b).choices = s.choices
    ∧ (s.reclaimDone b).power = s.power ∧ (s.reclaimDone b).straps = s.straps
    ∧ (s.reclaimDone b).settings = s.settings
    ∧ (s.reclaimDone b).settingsMemory = s.settingsMemory ∧ (s.reclaimDone b).uplink = s.uplink
    ∧ (s.reclaimDone b).lanes = s.lanes ∧ (s.reclaimDone b).sweeper = s.sweeper
    ∧ (s.reclaimDone b).clock = s.clock ∧ (s.reclaimDone b).bus = s.bus
    ∧ (s.reclaimDone b).scan = s.scan ∧ (s.reclaimDone b).ctl = s.ctl := by
  simp only [State.reclaimDone]
  repeat (any_goals split)
  all_goals simp

@[simp] theorem State.clearDone_frame (s : State) (l : Lane) :
    (s.clearDone l).pending = s.pending ∧ (s.clearDone l).choices = s.choices
    ∧ (s.clearDone l).power = s.power ∧ (s.clearDone l).straps = s.straps
    ∧ (s.clearDone l).settingsMemory = s.settingsMemory ∧ (s.clearDone l).store = s.store
    ∧ (s.clearDone l).sweeper = s.sweeper ∧ (s.clearDone l).clock = s.clock
    ∧ (s.clearDone l).bus = s.bus ∧ (s.clearDone l).scan = s.scan := by
  simp only [State.clearDone]
  repeat (any_goals split)
  all_goals simp

@[simp] theorem State.sweepDone_frame (s : State) (q : SweepRequest) :
    (s.sweepDone q).pending = s.pending ∧ (s.sweepDone q).choices = s.choices
    ∧ (s.sweepDone q).power = s.power ∧ (s.sweepDone q).straps = s.straps
    ∧ (s.sweepDone q).settingsMemory = s.settingsMemory ∧ (s.sweepDone q).clock = s.clock := by
  simp only [State.sweepDone]
  repeat (any_goals split)
  all_goals simp

@[simp] theorem State.sweepStep_frame (s : State) (w : Sweep) :
    (s.sweepStep w).pending = s.pending ∧ (s.sweepStep w).choices = s.choices
    ∧ (s.sweepStep w).power = s.power ∧ (s.sweepStep w).straps = s.straps
    ∧ (s.sweepStep w).settingsMemory = s.settingsMemory ∧ (s.sweepStep w).clock = s.clock := by
  simp only [State.sweepStep]
  repeat (any_goals split)
  all_goals simp

@[simp] theorem State.standingMade_frame (s : State) :
    (s.standingMade).pending = s.pending ∧ (s.standingMade).power = s.power
    ∧ (s.standingMade).straps = s.straps ∧ (s.standingMade).settings = s.settings
    ∧ (s.standingMade).settingsMemory = s.settingsMemory ∧ (s.standingMade).uplink = s.uplink
    ∧ (s.standingMade).lanes = s.lanes ∧ (s.standingMade).store = s.store
    ∧ (s.standingMade).sweeper = s.sweeper ∧ (s.standingMade).clock = s.clock
    ∧ (s.standingMade).bus = s.bus ∧ (s.standingMade).scan = s.scan ∧ (s.standingMade).ctl = s.ctl
    ∧ (s.standingMade).choices = s.choices + 1 := by
  simp [State.standingMade]

/-- A STATUS taken changes nothing of the machine beyond its answer. -/
@[simp] theorem State.statusTaken_frame (s : State) (args : List Byte) :
    (s.statusTaken args).pending = s.pending ∧ (s.statusTaken args).power = s.power
    ∧ (s.statusTaken args).straps = s.straps ∧ (s.statusTaken args).settings = s.settings
    ∧ (s.statusTaken args).settingsMemory = s.settingsMemory
    ∧ (s.statusTaken args).uplink = s.uplink ∧ (s.statusTaken args).lanes = s.lanes
    ∧ (s.statusTaken args).store = s.store ∧ (s.statusTaken args).sweeper = s.sweeper
    ∧ (s.statusTaken args).clock = s.clock ∧ (s.statusTaken args).bus = s.bus
    ∧ (s.statusTaken args).scan = s.scan ∧ (s.statusTaken args).ctl = s.ctl := by
  simp only [State.statusTaken]
  split <;> simp

@[simp] theorem State.makeStanding_frame (s : State) :
    (s.makeStanding).pending = s.pending ∧ (s.makeStanding).choices = s.choices + 1
    ∧ (s.makeStanding).power = s.power ∧ (s.makeStanding).straps = s.straps
    ∧ (s.makeStanding).settings = s.settings ∧ (s.makeStanding).settingsMemory = s.settingsMemory
    ∧ (s.makeStanding).lanes = s.lanes ∧ (s.makeStanding).store = s.store
    ∧ (s.makeStanding).sweeper = s.sweeper ∧ (s.makeStanding).clock = s.clock
    ∧ (s.makeStanding).bus = s.bus ∧ (s.makeStanding).scan = s.scan := by
  simp only [State.makeStanding]
  split <;> simp

@[simp] theorem State.standingIfDue_frame (s : State) :
    (s.standingIfDue).pending = s.pending
    ∧ (s.standingIfDue).choices = (if s.standingDue then s.choices + 1 else s.choices)
    ∧ (s.standingIfDue).power = s.power ∧ (s.standingIfDue).straps = s.straps
    ∧ (s.standingIfDue).settings = s.settings
    ∧ (s.standingIfDue).settingsMemory = s.settingsMemory ∧ (s.standingIfDue).lanes = s.lanes
    ∧ (s.standingIfDue).store = s.store ∧ (s.standingIfDue).sweeper = s.sweeper
    ∧ (s.standingIfDue).clock = s.clock ∧ (s.standingIfDue).bus = s.bus
    ∧ (s.standingIfDue).scan = s.scan := by
  simp only [State.standingIfDue]
  split <;> simp

@[simp] theorem State.setDelivery_frame (s : State) (p : Fin 16) (l : Lane) (d : Delivery) :
    (s.setDelivery p l d).pending = s.pending ∧ (s.setDelivery p l d).choices = s.choices
    ∧ (s.setDelivery p l d).power = s.power ∧ (s.setDelivery p l d).straps = s.straps
    ∧ (s.setDelivery p l d).settings = s.settings
    ∧ (s.setDelivery p l d).settingsMemory = s.settingsMemory
    ∧ (s.setDelivery p l d).uplink = s.uplink ∧ (s.setDelivery p l d).lanes = s.lanes
    ∧ (s.setDelivery p l d).store = s.store ∧ (s.setDelivery p l d).sweeper = s.sweeper
    ∧ (s.setDelivery p l d).clock = s.clock ∧ (s.setDelivery p l d).bus = s.bus
    ∧ (s.setDelivery p l d).ctl = s.ctl := by
  simp only [State.setDelivery]
  all_goals simp

@[simp] theorem State.fixAndOpen_frame (s : State) (p : Fin 16) (l : Lane) (g n : Nat) :
    (s.fixAndOpen p l g n).pending = s.pending ∧ (s.fixAndOpen p l g n).choices = s.choices
    ∧ (s.fixAndOpen p l g n).power = s.power ∧ (s.fixAndOpen p l g n).straps = s.straps
    ∧ (s.fixAndOpen p l g n).settings = s.settings
    ∧ (s.fixAndOpen p l g n).settingsMemory = s.settingsMemory
    ∧ (s.fixAndOpen p l g n).lanes = s.lanes ∧ (s.fixAndOpen p l g n).store = s.store
    ∧ (s.fixAndOpen p l g n).sweeper = s.sweeper ∧ (s.fixAndOpen p l g n).clock = s.clock := by
  simp only [State.fixAndOpen]
  repeat (any_goals split)
  all_goals simp

@[simp] theorem State.sendClose_frame (s : State) (p : Fin 16) (l : Lane) :
    (s.sendClose p l).pending = s.pending ∧ (s.sendClose p l).choices = s.choices
    ∧ (s.sendClose p l).power = s.power ∧ (s.sendClose p l).straps = s.straps
    ∧ (s.sendClose p l).settings = s.settings
    ∧ (s.sendClose p l).settingsMemory = s.settingsMemory ∧ (s.sendClose p l).uplink = s.uplink
    ∧ (s.sendClose p l).lanes = s.lanes ∧ (s.sendClose p l).store = s.store
    ∧ (s.sendClose p l).sweeper = s.sweeper ∧ (s.sendClose p l).clock = s.clock
    ∧ (s.sendClose p l).ctl = s.ctl := by
  simp only [State.sendClose]
  repeat (any_goals split)
  all_goals simp

@[simp] theorem State.startBuild_frame (s : State) (p : Fin 16) (l : Lane) (n : Nat) :
    (s.startBuild p l n).pending = s.pending ∧ (s.startBuild p l n).choices = s.choices
    ∧ (s.startBuild p l n).power = s.power ∧ (s.startBuild p l n).straps = s.straps
    ∧ (s.startBuild p l n).settings = s.settings
    ∧ (s.startBuild p l n).settingsMemory = s.settingsMemory
    ∧ (s.startBuild p l n).uplink = s.uplink ∧ (s.startBuild p l n).lanes = s.lanes
    ∧ (s.startBuild p l n).store = s.store ∧ (s.startBuild p l n).sweeper = s.sweeper
    ∧ (s.startBuild p l n).clock = s.clock ∧ (s.startBuild p l n).bus = s.bus
    ∧ (s.startBuild p l n).ctl = s.ctl := by
  simp only [State.startBuild]
  all_goals simp

@[simp] theorem State.deliveryFrame_frame (s : State) (p : Fin 16) (l : Lane) :
    (s.deliveryFrame p l).pending = s.pending ∧ (s.deliveryFrame p l).choices = s.choices
    ∧ (s.deliveryFrame p l).power = s.power ∧ (s.deliveryFrame p l).straps = s.straps
    ∧ (s.deliveryFrame p l).settings = s.settings
    ∧ (s.deliveryFrame p l).settingsMemory = s.settingsMemory
    ∧ (s.deliveryFrame p l).lanes = s.lanes ∧ (s.deliveryFrame p l).store = s.store
    ∧ (s.deliveryFrame p l).sweeper = s.sweeper ∧ (s.deliveryFrame p l).clock = s.clock := by
  simp only [State.deliveryFrame]
  repeat (any_goals split)
  all_goals simp

@[simp] theorem State.beginWalk_frame (s : State) (p : Fin 16) :
    (s.beginWalk p).pending = s.pending ∧ (s.beginWalk p).choices = s.choices
    ∧ (s.beginWalk p).power = s.power ∧ (s.beginWalk p).straps = s.straps
    ∧ (s.beginWalk p).settings = s.settings ∧ (s.beginWalk p).settingsMemory = s.settingsMemory
    ∧ (s.beginWalk p).uplink = s.uplink ∧ (s.beginWalk p).lanes = s.lanes
    ∧ (s.beginWalk p).store = s.store ∧ (s.beginWalk p).sweeper = s.sweeper
    ∧ (s.beginWalk p).clock = s.clock ∧ (s.beginWalk p).bus = s.bus ∧ (s.beginWalk p).ctl = s.ctl := by
  simp only [State.beginWalk]
  repeat (any_goals split)
  all_goals simp

@[simp] theorem State.markUnfit_frame (s : State) (p : Fin 16) (g n : Nat) :
    (s.markUnfit p g n).pending = s.pending ∧ (s.markUnfit p g n).choices = s.choices
    ∧ (s.markUnfit p g n).power = s.power ∧ (s.markUnfit p g n).straps = s.straps
    ∧ (s.markUnfit p g n).settings = s.settings
    ∧ (s.markUnfit p g n).settingsMemory = s.settingsMemory ∧ (s.markUnfit p g n).lanes = s.lanes
    ∧ (s.markUnfit p g n).store = s.store ∧ (s.markUnfit p g n).sweeper = s.sweeper
    ∧ (s.markUnfit p g n).clock = s.clock ∧ (s.markUnfit p g n).bus = s.bus := by
  simp only [State.markUnfit]
  all_goals simp

@[simp] theorem State.startProduct_frame (s : State) (p : Fin 16) :
    (s.startProduct p).pending = s.pending ∧ (s.startProduct p).choices = s.choices
    ∧ (s.startProduct p).power = s.power ∧ (s.startProduct p).straps = s.straps
    ∧ (s.startProduct p).settings = s.settings
    ∧ (s.startProduct p).settingsMemory = s.settingsMemory ∧ (s.startProduct p).lanes = s.lanes
    ∧ (s.startProduct p).store = s.store ∧ (s.startProduct p).sweeper = s.sweeper
    ∧ (s.startProduct p).clock = s.clock := by
  simp only [State.startProduct]
  repeat (any_goals split)
  all_goals simp

@[simp] theorem State.startDelivery_frame (s : State) (p : Fin 16) :
    (s.startDelivery p).pending = s.pending ∧ (s.startDelivery p).choices = s.choices
    ∧ (s.startDelivery p).power = s.power ∧ (s.startDelivery p).straps = s.straps
    ∧ (s.startDelivery p).settings = s.settings
    ∧ (s.startDelivery p).settingsMemory = s.settingsMemory ∧ (s.startDelivery p).lanes = s.lanes
    ∧ (s.startDelivery p).store = s.store ∧ (s.startDelivery p).sweeper = s.sweeper
    ∧ (s.startDelivery p).clock = s.clock := by
  simp only [State.startDelivery]
  repeat (any_goals split)
  all_goals simp

@[simp] theorem State.visitPresent_frame (s : State) (p : Fin 16) :
    (s.visitPresent p).pending = s.pending ∧ (s.visitPresent p).choices = s.choices
    ∧ (s.visitPresent p).power = s.power ∧ (s.visitPresent p).straps = s.straps
    ∧ (s.visitPresent p).settings = s.settings
    ∧ (s.visitPresent p).settingsMemory = s.settingsMemory ∧ (s.visitPresent p).lanes = s.lanes
    ∧ (s.visitPresent p).store = s.store ∧ (s.visitPresent p).sweeper = s.sweeper
    ∧ (s.visitPresent p).clock = s.clock := by
  simp only [State.visitPresent]
  repeat (any_goals split)
  all_goals simp

@[simp] theorem State.visit_frame (s : State) (p : Fin 16) :
    (s.visit p).pending = s.pending ∧ (s.visit p).choices = s.choices
    ∧ (s.visit p).power = s.power ∧ (s.visit p).straps = s.straps
    ∧ (s.visit p).settings = s.settings ∧ (s.visit p).settingsMemory = s.settingsMemory
    ∧ (s.visit p).lanes = s.lanes ∧ (s.visit p).store = s.store ∧ (s.visit p).sweeper = s.sweeper
    ∧ (s.visit p).clock = s.clock := by
  simp only [State.visit]
  repeat (any_goals split)
  all_goals simp

@[simp] theorem State.sendBuild_frame (s : State) (b : Build) (d : Delivery) :
    (s.sendBuild b d).pending = s.pending ∧ (s.sendBuild b d).choices = s.choices
    ∧ (s.sendBuild b d).power = s.power ∧ (s.sendBuild b d).straps = s.straps
    ∧ (s.sendBuild b d).settings = s.settings
    ∧ (s.sendBuild b d).settingsMemory = s.settingsMemory ∧ (s.sendBuild b d).uplink = s.uplink
    ∧ (s.sendBuild b d).lanes = s.lanes ∧ (s.sendBuild b d).store = s.store
    ∧ (s.sendBuild b d).sweeper = s.sweeper ∧ (s.sendBuild b d).clock = s.clock
    ∧ (s.sendBuild b d).ctl = s.ctl := by
  simp only [State.sendBuild]
  repeat (any_goals split)
  all_goals simp

@[simp] theorem State.enterTally_frame (s : State) (x : TallyEntry) :
    (s.enterTally x).pending = s.pending ∧ (s.enterTally x).choices = s.choices
    ∧ (s.enterTally x).power = s.power ∧ (s.enterTally x).straps = s.straps
    ∧ (s.enterTally x).settings = s.settings ∧ (s.enterTally x).settingsMemory = s.settingsMemory
    ∧ (s.enterTally x).uplink = s.uplink ∧ (s.enterTally x).lanes = s.lanes
    ∧ (s.enterTally x).store = s.store ∧ (s.enterTally x).sweeper = s.sweeper
    ∧ (s.enterTally x).clock = s.clock ∧ (s.enterTally x).bus = s.bus
    ∧ (s.enterTally x).ctl = s.ctl := by
  simp only [State.enterTally]
  all_goals simp

@[simp] theorem State.goodAt_frame (s : State) (p : Fin 16) :
    (s.goodAt p).pending = s.pending ∧ (s.goodAt p).choices = s.choices
    ∧ (s.goodAt p).power = s.power ∧ (s.goodAt p).straps = s.straps
    ∧ (s.goodAt p).settings = s.settings ∧ (s.goodAt p).settingsMemory = s.settingsMemory
    ∧ (s.goodAt p).lanes = s.lanes ∧ (s.goodAt p).store = s.store
    ∧ (s.goodAt p).sweeper = s.sweeper ∧ (s.goodAt p).clock = s.clock ∧ (s.goodAt p).bus = s.bus := by
  simp only [State.goodAt]
  repeat (any_goals split)
  all_goals simp

@[simp] theorem State.missAt_frame (s : State) (p : Fin 16) :
    (s.missAt p).pending = s.pending ∧ (s.missAt p).choices = s.choices
    ∧ (s.missAt p).power = s.power ∧ (s.missAt p).straps = s.straps
    ∧ (s.missAt p).settings = s.settings ∧ (s.missAt p).settingsMemory = s.settingsMemory
    ∧ (s.missAt p).lanes = s.lanes ∧ (s.missAt p).store = s.store
    ∧ (s.missAt p).sweeper = s.sweeper ∧ (s.missAt p).clock = s.clock := by
  simp only [State.missAt]
  repeat (any_goals split)
  all_goals simp

@[simp] theorem State.writeStatus_frame (s : State) (p : Fin 16) (t : StatusReport) :
    (s.writeStatus p t).pending = s.pending ∧ (s.writeStatus p t).choices = s.choices
    ∧ (s.writeStatus p t).power = s.power ∧ (s.writeStatus p t).straps = s.straps
    ∧ (s.writeStatus p t).settings = s.settings
    ∧ (s.writeStatus p t).settingsMemory = s.settingsMemory
    ∧ (s.writeStatus p t).uplink = s.uplink ∧ (s.writeStatus p t).lanes = s.lanes
    ∧ (s.writeStatus p t).store = s.store ∧ (s.writeStatus p t).sweeper = s.sweeper
    ∧ (s.writeStatus p t).clock = s.clock ∧ (s.writeStatus p t).ctl = s.ctl := by
  simp only [State.writeStatus]
  repeat (any_goals split)
  all_goals simp

@[simp] theorem State.markFaulty_frame (s : State) (p : Fin 16) (l : Lane) (g : Nat) :
    (s.markFaulty p l g).pending = s.pending ∧ (s.markFaulty p l g).choices = s.choices
    ∧ (s.markFaulty p l g).power = s.power ∧ (s.markFaulty p l g).straps = s.straps
    ∧ (s.markFaulty p l g).settings = s.settings
    ∧ (s.markFaulty p l g).settingsMemory = s.settingsMemory
    ∧ (s.markFaulty p l g).lanes = s.lanes ∧ (s.markFaulty p l g).store = s.store
    ∧ (s.markFaulty p l g).sweeper = s.sweeper ∧ (s.markFaulty p l g).clock = s.clock
    ∧ (s.markFaulty p l g).bus = s.bus := by
  simp only [State.markFaulty]
  all_goals simp

@[simp] theorem State.failedAttempt_frame (s : State) (p : Fin 16) (l : Lane) (b : Bool) :
    (s.failedAttempt p l b).pending = s.pending ∧ (s.failedAttempt p l b).choices = s.choices
    ∧ (s.failedAttempt p l b).power = s.power ∧ (s.failedAttempt p l b).straps = s.straps
    ∧ (s.failedAttempt p l b).settings = s.settings
    ∧ (s.failedAttempt p l b).settingsMemory = s.settingsMemory
    ∧ (s.failedAttempt p l b).lanes = s.lanes ∧ (s.failedAttempt p l b).store = s.store
    ∧ (s.failedAttempt p l b).sweeper = s.sweeper ∧ (s.failedAttempt p l b).clock = s.clock
    ∧ (s.failedAttempt p l b).bus = s.bus := by
  simp only [State.failedAttempt]
  repeat (any_goals split)
  all_goals simp

@[simp] theorem State.openReply_frame (s : State) (p : Fin 16) (l : Lane) (r : Reply) :
    (s.openReply p l r).pending = s.pending ∧ (s.openReply p l r).choices = s.choices
    ∧ (s.openReply p l r).power = s.power ∧ (s.openReply p l r).straps = s.straps
    ∧ (s.openReply p l r).settings = s.settings
    ∧ (s.openReply p l r).settingsMemory = s.settingsMemory ∧ (s.openReply p l r).lanes = s.lanes
    ∧ (s.openReply p l r).store = s.store ∧ (s.openReply p l r).sweeper = s.sweeper
    ∧ (s.openReply p l r).clock = s.clock ∧ (s.openReply p l r).bus = s.bus := by
  simp only [State.openReply]
  repeat (any_goals split)
  all_goals simp

@[simp] theorem State.closeReply_frame (s : State) (p : Fin 16) (l : Lane) (r : Reply) :
    (s.closeReply p l r).pending = s.pending ∧ (s.closeReply p l r).choices = s.choices
    ∧ (s.closeReply p l r).power = s.power ∧ (s.closeReply p l r).straps = s.straps
    ∧ (s.closeReply p l r).settings = s.settings
    ∧ (s.closeReply p l r).settingsMemory = s.settingsMemory
    ∧ (s.closeReply p l r).lanes = s.lanes ∧ (s.closeReply p l r).store = s.store
    ∧ (s.closeReply p l r).sweeper = s.sweeper ∧ (s.closeReply p l r).clock = s.clock
    ∧ (s.closeReply p l r).bus = s.bus := by
  simp only [State.closeReply]
  repeat (any_goals split)
  all_goals simp

@[simp] theorem State.switchReply_frame (s : State) (p : Fin 16) (l : Lane) (g : Nat) :
    (s.switchReply p l g).pending = s.pending ∧ (s.switchReply p l g).choices = s.choices
    ∧ (s.switchReply p l g).power = s.power ∧ (s.switchReply p l g).straps = s.straps
    ∧ (s.switchReply p l g).settings = s.settings
    ∧ (s.switchReply p l g).settingsMemory = s.settingsMemory
    ∧ (s.switchReply p l g).lanes = s.lanes ∧ (s.switchReply p l g).store = s.store
    ∧ (s.switchReply p l g).sweeper = s.sweeper ∧ (s.switchReply p l g).clock = s.clock
    ∧ (s.switchReply p l g).bus = s.bus := by
  simp only [State.switchReply]
  repeat (any_goals split)
  all_goals simp

@[simp] theorem State.noteCapacity_frame (s : State) (p : Fin 16) (r : Reply) :
    (s.noteCapacity p r).pending = s.pending ∧ (s.noteCapacity p r).choices = s.choices
    ∧ (s.noteCapacity p r).power = s.power ∧ (s.noteCapacity p r).straps = s.straps
    ∧ (s.noteCapacity p r).settings = s.settings
    ∧ (s.noteCapacity p r).settingsMemory = s.settingsMemory
    ∧ (s.noteCapacity p r).uplink = s.uplink ∧ (s.noteCapacity p r).lanes = s.lanes
    ∧ (s.noteCapacity p r).store = s.store ∧ (s.noteCapacity p r).sweeper = s.sweeper
    ∧ (s.noteCapacity p r).clock = s.clock ∧ (s.noteCapacity p r).bus = s.bus
    ∧ (s.noteCapacity p r).ctl = s.ctl := by
  simp only [State.noteCapacity]
  repeat (any_goals split)
  all_goals simp

@[simp] theorem State.applyReply_frame (s : State) (x : Addressed) (r : Reply) :
    (s.applyReply x r).pending = s.pending ∧ (s.applyReply x r).choices = s.choices
    ∧ (s.applyReply x r).power = s.power ∧ (s.applyReply x r).straps = s.straps
    ∧ (s.applyReply x r).settings = s.settings
    ∧ (s.applyReply x r).settingsMemory = s.settingsMemory ∧ (s.applyReply x r).lanes = s.lanes
    ∧ (s.applyReply x r).store = s.store ∧ (s.applyReply x r).sweeper = s.sweeper
    ∧ (s.applyReply x r).clock = s.clock := by
  simp only [State.applyReply]
  repeat (any_goals split)
  all_goals simp

@[simp] theorem State.applyOutcome_frame (s : State) (x : Addressed) (o : ExchangeOutcome) :
    (s.applyOutcome x o).pending = s.pending ∧ (s.applyOutcome x o).choices = s.choices
    ∧ (s.applyOutcome x o).power = s.power ∧ (s.applyOutcome x o).straps = s.straps
    ∧ (s.applyOutcome x o).settings = s.settings
    ∧ (s.applyOutcome x o).settingsMemory = s.settingsMemory
    ∧ (s.applyOutcome x o).lanes = s.lanes ∧ (s.applyOutcome x o).store = s.store
    ∧ (s.applyOutcome x o).sweeper = s.sweeper ∧ (s.applyOutcome x o).clock = s.clock := by
  simp only [State.applyOutcome]
  repeat (any_goals split)
  all_goals simp

@[simp] theorem State.redraw_frame (s : State) (k : Fin 4) :
    (s.redraw k).pending = s.pending ∧ (s.redraw k).choices = s.choices
    ∧ (s.redraw k).power = s.power ∧ (s.redraw k).straps = s.straps
    ∧ (s.redraw k).settingsMemory = s.settingsMemory ∧ (s.redraw k).uplink = s.uplink
    ∧ (s.redraw k).lanes = s.lanes ∧ (s.redraw k).sweeper = s.sweeper
    ∧ (s.redraw k).clock = s.clock ∧ (s.redraw k).bus = s.bus ∧ (s.redraw k).scan = s.scan := by
  simp only [State.redraw]
  all_goals simp

@[simp] theorem State.changeClass_frame (s : State) (c : Fin 8) (f : ClassRec) :
    (s.changeClass c f).pending = s.pending ∧ (s.changeClass c f).choices = s.choices
    ∧ (s.changeClass c f).power = s.power ∧ (s.changeClass c f).straps = s.straps
    ∧ (s.changeClass c f).settingsMemory = s.settingsMemory
    ∧ (s.changeClass c f).uplink = s.uplink ∧ (s.changeClass c f).lanes = s.lanes
    ∧ (s.changeClass c f).store = s.store ∧ (s.changeClass c f).sweeper = s.sweeper
    ∧ (s.changeClass c f).clock = s.clock ∧ (s.changeClass c f).ctl = s.ctl := by
  simp only [State.changeClass]
  all_goals simp

@[simp] theorem State.renewRecord_frame (s : State) (p : Fin 16) (e : Option (Fin 8)) :
    (s.renewRecord p e).pending = s.pending ∧ (s.renewRecord p e).choices = s.choices
    ∧ (s.renewRecord p e).power = s.power ∧ (s.renewRecord p e).straps = s.straps
    ∧ (s.renewRecord p e).settings = s.settings
    ∧ (s.renewRecord p e).settingsMemory = s.settingsMemory
    ∧ (s.renewRecord p e).uplink = s.uplink ∧ (s.renewRecord p e).lanes = s.lanes
    ∧ (s.renewRecord p e).store = s.store ∧ (s.renewRecord p e).sweeper = s.sweeper
    ∧ (s.renewRecord p e).clock = s.clock ∧ (s.renewRecord p e).ctl = s.ctl := by
  simp only [State.renewRecord]
  all_goals simp

@[simp] theorem State.changePosition_frame (s : State) (p : Fin 16) (e : Option (Fin 8)) :
    (s.changePosition p e).pending = s.pending ∧ (s.changePosition p e).choices = s.choices
    ∧ (s.changePosition p e).power = s.power ∧ (s.changePosition p e).straps = s.straps
    ∧ (s.changePosition p e).settingsMemory = s.settingsMemory
    ∧ (s.changePosition p e).uplink = s.uplink ∧ (s.changePosition p e).lanes = s.lanes
    ∧ (s.changePosition p e).store = s.store ∧ (s.changePosition p e).sweeper = s.sweeper
    ∧ (s.changePosition p e).clock = s.clock ∧ (s.changePosition p e).ctl = s.ctl := by
  simp only [State.changePosition]
  all_goals simp

@[simp] theorem State.inspectRead_frame (s : State) (h : CommandHead) (n : Nat) (d : List SlotReport) :
    (s.inspectRead h n d).pending = s.pending ∧ (s.inspectRead h n d).choices = s.choices
    ∧ (s.inspectRead h n d).power = s.power ∧ (s.inspectRead h n d).straps = s.straps
    ∧ (s.inspectRead h n d).settings = s.settings
    ∧ (s.inspectRead h n d).settingsMemory = s.settingsMemory
    ∧ (s.inspectRead h n d).lanes = s.lanes ∧ (s.inspectRead h n d).store = s.store
    ∧ (s.inspectRead h n d).sweeper = s.sweeper ∧ (s.inspectRead h n d).clock = s.clock
    ∧ (s.inspectRead h n d).bus = s.bus ∧ (s.inspectRead h n d).scan = s.scan := by
  simp only [State.inspectRead]
  repeat (any_goals split)
  all_goals simp

@[simp] theorem State.cutSave_frame (s : State) :
    (s.cutSave).pending = s.pending ∧ (s.cutSave).power = s.power ∧ (s.cutSave).straps = s.straps
    ∧ (s.cutSave).settings = s.settings ∧ (s.cutSave).uplink = s.uplink
    ∧ (s.cutSave).lanes = s.lanes ∧ (s.cutSave).store = s.store ∧ (s.cutSave).sweeper = s.sweeper
    ∧ (s.cutSave).clock = s.clock ∧ (s.cutSave).bus = s.bus ∧ (s.cutSave).scan = s.scan
    ∧ (s.cutSave).ctl = s.ctl := by
  simp only [State.cutSave]
  repeat (any_goals split)
  all_goals simp

@[simp] theorem State.finishGranted_frame (s : State) :
    (s.finishGranted).pending = s.pending ∧ (s.finishGranted).power = s.power
    ∧ (s.finishGranted).straps = s.straps ∧ (s.finishGranted).settings = s.settings
    ∧ (s.finishGranted).settingsMemory = s.settingsMemory ∧ (s.finishGranted).uplink = s.uplink
    ∧ (s.finishGranted).lanes = s.lanes ∧ (s.finishGranted).clock = s.clock
    ∧ (s.finishGranted).bus = s.bus ∧ (s.finishGranted).scan = s.scan
    ∧ (s.finishGranted).ctl = s.ctl := by
  simp only [State.finishGranted]
  repeat (any_goals split)
  all_goals simp

@[simp] theorem State.riseRestarted_frame (s : State) :
    (s.riseRestarted).pending = s.pending ∧ (s.riseRestarted).choices = s.choices
    ∧ (s.riseRestarted).power = s.power ∧ (s.riseRestarted).straps = s.straps
    ∧ (s.riseRestarted).settings = s.settings
    ∧ (s.riseRestarted).settingsMemory = s.settingsMemory ∧ (s.riseRestarted).lanes = s.lanes
    ∧ (s.riseRestarted).store = s.store ∧ (s.riseRestarted).sweeper = s.sweeper
    ∧ (s.riseRestarted).clock = s.clock ∧ (s.riseRestarted).bus = s.bus
    ∧ (s.riseRestarted).scan = s.scan := by
  simp only [State.riseRestarted]
  all_goals simp

@[simp] theorem State.placeWaiting_frame (s : State) :
    (s.placeWaiting).pending = s.pending ∧ (s.placeWaiting).choices = s.choices
    ∧ (s.placeWaiting).power = s.power ∧ (s.placeWaiting).straps = s.straps
    ∧ (s.placeWaiting).settingsMemory = s.settingsMemory ∧ (s.placeWaiting).lanes = s.lanes
    ∧ (s.placeWaiting).store = s.store ∧ (s.placeWaiting).sweeper = s.sweeper
    ∧ (s.placeWaiting).clock = s.clock ∧ (s.placeWaiting).bus = s.bus
    ∧ (s.placeWaiting).scan = s.scan := by
  simp only [State.placeWaiting]
  repeat (any_goals split)
  all_goals simp

/-! ### Steps -/

@[simp] theorem frameStep_frame (s : State) (fr : List Byte) :
    (frameStep fr s).pending = s.pending ∧ (frameStep fr s).choices = s.choices
    ∧ (frameStep fr s).power = s.power ∧ (frameStep fr s).straps = s.straps
    ∧ (frameStep fr s).settings = s.settings ∧ (frameStep fr s).settingsMemory = s.settingsMemory
    ∧ (frameStep fr s).lanes = s.lanes ∧ (frameStep fr s).store = s.store
    ∧ (frameStep fr s).sweeper = s.sweeper ∧ (frameStep fr s).clock = s.clock
    ∧ (frameStep fr s).bus = s.bus ∧ (frameStep fr s).scan = s.scan := by
  simp only [frameStep]
  repeat (any_goals split)
  all_goals simp

@[simp] theorem beaconStep_frame (s : State) :
    (beaconStep s).pending = s.pending ∧ (beaconStep s).power = s.power
    ∧ (beaconStep s).straps = s.straps ∧ (beaconStep s).settings = s.settings
    ∧ (beaconStep s).settingsMemory = s.settingsMemory ∧ (beaconStep s).store = s.store := by
  simp only [beaconStep]
  repeat (any_goals split)
  all_goals simp

@[simp] theorem noticeStep_frame (s : State) :
    (noticeStep s).pending = s.pending ∧ (noticeStep s).power = s.power
    ∧ (noticeStep s).straps = s.straps ∧ (noticeStep s).settings = s.settings
    ∧ (noticeStep s).settingsMemory = s.settingsMemory ∧ (noticeStep s).clock = s.clock := by
  simp only [noticeStep]
  repeat (any_goals split)
  all_goals simp

@[simp] theorem segmentCheckStep_frame (s : State) :
    (segmentCheckStep s).pending = s.pending ∧ (segmentCheckStep s).choices = s.choices
    ∧ (segmentCheckStep s).power = s.power ∧ (segmentCheckStep s).straps = s.straps
    ∧ (segmentCheckStep s).settings = s.settings
    ∧ (segmentCheckStep s).settingsMemory = s.settingsMemory
    ∧ (segmentCheckStep s).lanes = s.lanes ∧ (segmentCheckStep s).store = s.store
    ∧ (segmentCheckStep s).sweeper = s.sweeper ∧ (segmentCheckStep s).clock = s.clock
    ∧ (segmentCheckStep s).bus = s.bus ∧ (segmentCheckStep s).scan = s.scan
    ∧ (segmentCheckStep s).ctl = s.ctl := by
  simp only [segmentCheckStep]
  repeat (any_goals split)
  all_goals simp

@[simp] theorem segmentMatchStep_frame (s : State) :
    (segmentMatchStep s).pending = s.pending ∧ (segmentMatchStep s).choices = s.choices
    ∧ (segmentMatchStep s).power = s.power ∧ (segmentMatchStep s).straps = s.straps
    ∧ (segmentMatchStep s).settings = s.settings
    ∧ (segmentMatchStep s).settingsMemory = s.settingsMemory
    ∧ (segmentMatchStep s).sweeper = s.sweeper ∧ (segmentMatchStep s).clock = s.clock
    ∧ (segmentMatchStep s).bus = s.bus ∧ (segmentMatchStep s).scan = s.scan
    ∧ (segmentMatchStep s).ctl = s.ctl := by
  simp only [segmentMatchStep]
  repeat (any_goals split)
  all_goals simp

@[simp] theorem applyItemStep_frame (s : State) :
    (applyItemStep s).pending = s.pending ∧ (applyItemStep s).power = s.power
    ∧ (applyItemStep s).straps = s.straps ∧ (applyItemStep s).settings = s.settings
    ∧ (applyItemStep s).settingsMemory = s.settingsMemory ∧ (applyItemStep s).clock = s.clock := by
  simp only [applyItemStep]
  repeat (any_goals split)
  all_goals simp

@[simp] theorem retireSlotStep_frame (s : State) :
    (retireSlotStep s).pending = s.pending ∧ (retireSlotStep s).choices = s.choices
    ∧ (retireSlotStep s).power = s.power ∧ (retireSlotStep s).straps = s.straps
    ∧ (retireSlotStep s).settingsMemory = s.settingsMemory ∧ (retireSlotStep s).clock = s.clock := by
  simp only [retireSlotStep]
  repeat (any_goals split)
  all_goals simp

@[simp] theorem undoSlotStep_frame (s : State) :
    (undoSlotStep s).pending = s.pending ∧ (undoSlotStep s).choices = s.choices
    ∧ (undoSlotStep s).power = s.power ∧ (undoSlotStep s).straps = s.straps
    ∧ (undoSlotStep s).settingsMemory = s.settingsMemory ∧ (undoSlotStep s).clock = s.clock := by
  simp only [undoSlotStep]
  repeat (any_goals split)
  all_goals simp

@[simp] theorem reclaimSlotStep_frame (s : State) :
    (reclaimSlotStep s).pending = s.pending ∧ (reclaimSlotStep s).choices = s.choices
    ∧ (reclaimSlotStep s).power = s.power ∧ (reclaimSlotStep s).straps = s.straps
    ∧ (reclaimSlotStep s).settingsMemory = s.settingsMemory ∧ (reclaimSlotStep s).clock = s.clock := by
  simp only [reclaimSlotStep]
  repeat (any_goals split)
  all_goals simp

@[simp] theorem clearSlotStep_frame (s : State) :
    (clearSlotStep s).pending = s.pending ∧ (clearSlotStep s).choices = s.choices
    ∧ (clearSlotStep s).power = s.power ∧ (clearSlotStep s).straps = s.straps
    ∧ (clearSlotStep s).settingsMemory = s.settingsMemory ∧ (clearSlotStep s).clock = s.clock := by
  simp only [clearSlotStep]
  repeat (any_goals split)
  all_goals simp

@[simp] theorem localSecondStep_frame (s : State) :
    (localSecondStep s).pending = s.pending ∧ (localSecondStep s).power = s.power
    ∧ (localSecondStep s).straps = s.straps ∧ (localSecondStep s).settings = s.settings
    ∧ (localSecondStep s).settingsMemory = s.settingsMemory ∧ (localSecondStep s).store = s.store := by
  simp only [localSecondStep]
  repeat (any_goals split)
  all_goals simp

@[simp] theorem holdoverEntryStep_frame (s : State) :
    (holdoverEntryStep s).pending = s.pending ∧ (holdoverEntryStep s).power = s.power
    ∧ (holdoverEntryStep s).straps = s.straps ∧ (holdoverEntryStep s).settings = s.settings
    ∧ (holdoverEntryStep s).settingsMemory = s.settingsMemory
    ∧ (holdoverEntryStep s).store = s.store := by
  simp only [holdoverEntryStep]
  repeat (any_goals split)
  all_goals simp

@[simp] theorem scannerVisitStep_frame (s : State) :
    (scannerVisitStep s).pending = s.pending ∧ (scannerVisitStep s).choices = s.choices
    ∧ (scannerVisitStep s).power = s.power ∧ (scannerVisitStep s).straps = s.straps
    ∧ (scannerVisitStep s).settings = s.settings
    ∧ (scannerVisitStep s).settingsMemory = s.settingsMemory
    ∧ (scannerVisitStep s).lanes = s.lanes ∧ (scannerVisitStep s).store = s.store
    ∧ (scannerVisitStep s).sweeper = s.sweeper ∧ (scannerVisitStep s).clock = s.clock := by
  simp only [scannerVisitStep]
  repeat (any_goals split)
  all_goals simp

@[simp] theorem batchSlotReadStep_frame (s : State) :
    (batchSlotReadStep s).pending = s.pending ∧ (batchSlotReadStep s).choices = s.choices
    ∧ (batchSlotReadStep s).power = s.power ∧ (batchSlotReadStep s).straps = s.straps
    ∧ (batchSlotReadStep s).settings = s.settings
    ∧ (batchSlotReadStep s).settingsMemory = s.settingsMemory
    ∧ (batchSlotReadStep s).uplink = s.uplink ∧ (batchSlotReadStep s).lanes = s.lanes
    ∧ (batchSlotReadStep s).sweeper = s.sweeper ∧ (batchSlotReadStep s).clock = s.clock
    ∧ (batchSlotReadStep s).ctl = s.ctl := by
  simp only [batchSlotReadStep]
  repeat (any_goals split)
  all_goals simp

@[simp] theorem tallySlotReadStep_frame (s : State) :
    (tallySlotReadStep s).pending = s.pending ∧ (tallySlotReadStep s).choices = s.choices
    ∧ (tallySlotReadStep s).power = s.power ∧ (tallySlotReadStep s).straps = s.straps
    ∧ (tallySlotReadStep s).settings = s.settings
    ∧ (tallySlotReadStep s).settingsMemory = s.settingsMemory
    ∧ (tallySlotReadStep s).uplink = s.uplink ∧ (tallySlotReadStep s).lanes = s.lanes
    ∧ (tallySlotReadStep s).sweeper = s.sweeper ∧ (tallySlotReadStep s).clock = s.clock
    ∧ (tallySlotReadStep s).bus = s.bus ∧ (tallySlotReadStep s).ctl = s.ctl := by
  simp only [tallySlotReadStep]
  repeat (any_goals split)
  all_goals simp

@[simp] theorem broadcastSwitchStep_frame (s : State) :
    (broadcastSwitchStep s).pending = s.pending ∧ (broadcastSwitchStep s).choices = s.choices
    ∧ (broadcastSwitchStep s).power = s.power ∧ (broadcastSwitchStep s).straps = s.straps
    ∧ (broadcastSwitchStep s).settings = s.settings
    ∧ (broadcastSwitchStep s).settingsMemory = s.settingsMemory
    ∧ (broadcastSwitchStep s).uplink = s.uplink ∧ (broadcastSwitchStep s).lanes = s.lanes
    ∧ (broadcastSwitchStep s).store = s.store ∧ (broadcastSwitchStep s).sweeper = s.sweeper
    ∧ (broadcastSwitchStep s).clock = s.clock ∧ (broadcastSwitchStep s).ctl = s.ctl := by
  simp only [broadcastSwitchStep]
  repeat (any_goals split)
  all_goals simp

@[simp] theorem busFrameSentStep_frame (s : State) :
    (busFrameSentStep s).pending = s.pending ∧ (busFrameSentStep s).choices = s.choices
    ∧ (busFrameSentStep s).power = s.power ∧ (busFrameSentStep s).straps = s.straps
    ∧ (busFrameSentStep s).settings = s.settings
    ∧ (busFrameSentStep s).settingsMemory = s.settingsMemory
    ∧ (busFrameSentStep s).uplink = s.uplink ∧ (busFrameSentStep s).lanes = s.lanes
    ∧ (busFrameSentStep s).store = s.store ∧ (busFrameSentStep s).sweeper = s.sweeper
    ∧ (busFrameSentStep s).clock = s.clock ∧ (busFrameSentStep s).scan = s.scan
    ∧ (busFrameSentStep s).ctl = s.ctl := by
  simp only [busFrameSentStep]
  all_goals simp

@[simp] theorem turnaroundGapEndStep_frame (s : State) :
    (turnaroundGapEndStep s).pending = s.pending ∧ (turnaroundGapEndStep s).choices = s.choices
    ∧ (turnaroundGapEndStep s).power = s.power ∧ (turnaroundGapEndStep s).straps = s.straps
    ∧ (turnaroundGapEndStep s).settings = s.settings
    ∧ (turnaroundGapEndStep s).settingsMemory = s.settingsMemory
    ∧ (turnaroundGapEndStep s).lanes = s.lanes ∧ (turnaroundGapEndStep s).store = s.store
    ∧ (turnaroundGapEndStep s).sweeper = s.sweeper ∧ (turnaroundGapEndStep s).clock = s.clock := by
  simp only [turnaroundGapEndStep]
  repeat (any_goals split)
  all_goals simp

@[simp] theorem postBroadcastGapEndStep_frame (s : State) :
    (postBroadcastGapEndStep s).pending = s.pending
    ∧ (postBroadcastGapEndStep s).choices = s.choices
    ∧ (postBroadcastGapEndStep s).power = s.power ∧ (postBroadcastGapEndStep s).straps = s.straps
    ∧ (postBroadcastGapEndStep s).settings = s.settings
    ∧ (postBroadcastGapEndStep s).settingsMemory = s.settingsMemory
    ∧ (postBroadcastGapEndStep s).uplink = s.uplink ∧ (postBroadcastGapEndStep s).lanes = s.lanes
    ∧ (postBroadcastGapEndStep s).store = s.store
    ∧ (postBroadcastGapEndStep s).sweeper = s.sweeper
    ∧ (postBroadcastGapEndStep s).clock = s.clock ∧ (postBroadcastGapEndStep s).ctl = s.ctl := by
  simp only [postBroadcastGapEndStep]
  repeat (any_goals split)
  all_goals simp

@[simp] theorem postResetGapEndStep_frame (s : State) :
    (postResetGapEndStep s).pending = s.pending ∧ (postResetGapEndStep s).choices = s.choices
    ∧ (postResetGapEndStep s).power = s.power ∧ (postResetGapEndStep s).straps = s.straps
    ∧ (postResetGapEndStep s).settings = s.settings
    ∧ (postResetGapEndStep s).settingsMemory = s.settingsMemory
    ∧ (postResetGapEndStep s).uplink = s.uplink ∧ (postResetGapEndStep s).lanes = s.lanes
    ∧ (postResetGapEndStep s).store = s.store ∧ (postResetGapEndStep s).sweeper = s.sweeper
    ∧ (postResetGapEndStep s).clock = s.clock ∧ (postResetGapEndStep s).ctl = s.ctl := by
  simp only [postResetGapEndStep]
  repeat (any_goals split)
  all_goals simp

@[simp] theorem quietIntervalEndStep_frame (s : State) :
    (quietIntervalEndStep s).pending = s.pending ∧ (quietIntervalEndStep s).choices = s.choices
    ∧ (quietIntervalEndStep s).power = s.power ∧ (quietIntervalEndStep s).straps = s.straps
    ∧ (quietIntervalEndStep s).settings = s.settings
    ∧ (quietIntervalEndStep s).settingsMemory = s.settingsMemory
    ∧ (quietIntervalEndStep s).uplink = s.uplink ∧ (quietIntervalEndStep s).lanes = s.lanes
    ∧ (quietIntervalEndStep s).store = s.store ∧ (quietIntervalEndStep s).sweeper = s.sweeper
    ∧ (quietIntervalEndStep s).clock = s.clock ∧ (quietIntervalEndStep s).bus = s.bus
    ∧ (quietIntervalEndStep s).ctl = s.ctl := by
  simp only [quietIntervalEndStep]
  repeat (any_goals split)
  all_goals simp

/-! ### Parts of the fields they do change -/

@[simp] theorem State.alert_parts (s : State) (f : EventFlag) (c : AlertContext) :
    (s.alert f c).uplink.ingress = s.uplink.ingress
    ∧ (s.alert f c).uplink.checkedHead = s.uplink.checkedHead
    ∧ (s.alert f c).uplink.control = s.uplink.control
    ∧ (s.alert f c).uplink.lastFrame = s.uplink.lastFrame
    ∧ (s.alert f c).ctl.command = s.ctl.command
    ∧ (s.alert f c).ctl.inspectLane = s.ctl.inspectLane
    ∧ (s.alert f c).ctl.inspectSlot = s.ctl.inspectSlot
    ∧ (s.alert f c).ctl.reportTimer = s.ctl.reportTimer ∧ (s.alert f c).ctl.cause = s.ctl.cause := by
  simp only [State.alert]
  repeat (any_goals split)
  all_goals simp

@[simp] theorem State.rise_parts (s : State) (f : EventFlag) (c : AlertContext) :
    (s.rise f c).uplink.ingress = s.uplink.ingress
    ∧ (s.rise f c).uplink.checkedHead = s.uplink.checkedHead
    ∧ (s.rise f c).uplink.control = s.uplink.control
    ∧ (s.rise f c).uplink.lastFrame = s.uplink.lastFrame
    ∧ (s.rise f c).ctl.command = s.ctl.command ∧ (s.rise f c).ctl.inspectLane = s.ctl.inspectLane
    ∧ (s.rise f c).ctl.inspectSlot = s.ctl.inspectSlot
    ∧ (s.rise f c).ctl.reportTimer = s.ctl.reportTimer ∧ (s.rise f c).ctl.cause = s.ctl.cause := by
  simp only [State.rise]
  repeat (any_goals split)
  all_goals simp

@[simp] theorem State.answer_parts (s : State) (h : CommandHead) (r : CommandResult) (b : List Byte) :
    (s.answer h r b).uplink.ingress = s.uplink.ingress
    ∧ (s.answer h r b).uplink.checkedHead = s.uplink.checkedHead
    ∧ (s.answer h r b).uplink.control = s.uplink.control
    ∧ (s.answer h r b).uplink.lastFrame = s.uplink.lastFrame
    ∧ (s.answer h r b).ctl.flags = s.ctl.flags ∧ (s.answer h r b).ctl.alertNo = s.ctl.alertNo
    ∧ (s.answer h r b).ctl.inspectLane = s.ctl.inspectLane
    ∧ (s.answer h r b).ctl.inspectSlot = s.ctl.inspectSlot
    ∧ (s.answer h r b).ctl.reportTimer = s.ctl.reportTimer
    ∧ (s.answer h r b).ctl.cause = s.ctl.cause
    ∧ (s.answer h r b).uplink.counters = s.uplink.counters := by
  simp only [State.answer, State.deliverAnswer, State.placeAnswer]
  repeat (any_goals split)
  all_goals simp

@[simp] theorem State.laneCommandDone_parts (s : State) (l : Lane) :
    (s.laneCommandDone l).uplink.ingress = s.uplink.ingress
    ∧ (s.laneCommandDone l).uplink.checkedHead = s.uplink.checkedHead
    ∧ (s.laneCommandDone l).uplink.control = s.uplink.control
    ∧ (s.laneCommandDone l).uplink.lastFrame = s.uplink.lastFrame
    ∧ (s.laneCommandDone l).ctl.flags = s.ctl.flags
    ∧ (s.laneCommandDone l).ctl.alertNo = s.ctl.alertNo
    ∧ (s.laneCommandDone l).uplink.counters = s.uplink.counters := by
  simp only [State.laneCommandDone]
  repeat (any_goals split)
  all_goals simp

@[simp] theorem State.giveUpItem_parts (s : State) (seg : Segment) (n : Nat) :
    (s.giveUpItem seg n).store.regions = s.store.regions
    ∧ (s.giveUpItem seg n).store.free = s.store.free := by
  simp only [State.giveUpItem]
  repeat (any_goals split)
  all_goals simp

@[simp] theorem State.abandonSegment_parts (s : State) (l : Lane) :
    (s.abandonSegment l).store.regions = s.store.regions
    ∧ (s.abandonSegment l).store.free = s.store.free := by
  simp only [State.abandonSegment]
  repeat (any_goals split)
  all_goals simp

@[simp] theorem State.abandonWhere_parts (s : State) (l : Lane) (t : Fin 16 → Delivery → Bool) :
    (s.abandonWhere l t).bus.strayRun = s.bus.strayRun
    ∧ (s.abandonWhere l t).bus.damaged = s.bus.damaged
    ∧ (s.abandonWhere l t).bus.wrong = s.bus.wrong ∧ (s.abandonWhere l t).bus.stray = s.bus.stray
    ∧ (s.abandonWhere l t).bus.line = s.bus.line := by
  simp only [State.abandonWhere]
  repeat (any_goals split)
  all_goals simp

@[simp] theorem State.discard_parts (s : State) (l : Lane) (r : DiscardReason) (k : SweepKind) :
    (s.discard l r k).uplink.ingress = s.uplink.ingress
    ∧ (s.discard l r k).uplink.checkedHead = s.uplink.checkedHead
    ∧ (s.discard l r k).uplink.control = s.uplink.control
    ∧ (s.discard l r k).uplink.lastFrame = s.uplink.lastFrame
    ∧ (s.discard l r k).ctl.command = s.ctl.command
    ∧ (s.discard l r k).ctl.inspectLane = s.ctl.inspectLane
    ∧ (s.discard l r k).ctl.inspectSlot = s.ctl.inspectSlot
    ∧ (s.discard l r k).ctl.reportTimer = s.ctl.reportTimer
    ∧ (s.discard l r k).ctl.cause = s.ctl.cause
    ∧ (s.discard l r k).store.regions = s.store.regions
    ∧ (s.discard l r k).store.free = s.store.free := by
  simp only [State.discard]
  split <;> simp

@[simp] theorem State.discardUndo_parts (s : State) (l : Lane) (r : DiscardReason) :
    (s.discardUndo l r).uplink.ingress = s.uplink.ingress
    ∧ (s.discardUndo l r).uplink.checkedHead = s.uplink.checkedHead
    ∧ (s.discardUndo l r).uplink.control = s.uplink.control
    ∧ (s.discardUndo l r).uplink.lastFrame = s.uplink.lastFrame
    ∧ (s.discardUndo l r).ctl.command = s.ctl.command
    ∧ (s.discardUndo l r).ctl.inspectLane = s.ctl.inspectLane
    ∧ (s.discardUndo l r).ctl.inspectSlot = s.ctl.inspectSlot
    ∧ (s.discardUndo l r).ctl.reportTimer = s.ctl.reportTimer
    ∧ (s.discardUndo l r).ctl.cause = s.ctl.cause
    ∧ (s.discardUndo l r).store.regions = s.store.regions
    ∧ (s.discardUndo l r).store.free = s.store.free := by
  simp only [State.discardUndo]
  all_goals simp

@[simp] theorem State.activate_parts (s : State) (l : Lane) :
    (s.activate l).uplink.ingress = s.uplink.ingress
    ∧ (s.activate l).uplink.checkedHead = s.uplink.checkedHead
    ∧ (s.activate l).uplink.control = s.uplink.control
    ∧ (s.activate l).uplink.lastFrame = s.uplink.lastFrame
    ∧ (s.activate l).ctl.command = s.ctl.command
    ∧ (s.activate l).ctl.inspectLane = s.ctl.inspectLane
    ∧ (s.activate l).ctl.inspectSlot = s.ctl.inspectSlot
    ∧ (s.activate l).ctl.reportTimer = s.ctl.reportTimer ∧ (s.activate l).ctl.cause = s.ctl.cause := by
  simp only [State.activate]
  repeat (any_goals split)
  all_goals simp

@[simp] theorem State.testActivation_parts (s : State) (l : Lane) :
    (s.testActivation l).uplink.ingress = s.uplink.ingress
    ∧ (s.testActivation l).uplink.checkedHead = s.uplink.checkedHead
    ∧ (s.testActivation l).uplink.control = s.uplink.control
    ∧ (s.testActivation l).uplink.lastFrame = s.uplink.lastFrame
    ∧ (s.testActivation l).ctl.command = s.ctl.command
    ∧ (s.testActivation l).ctl.inspectLane = s.ctl.inspectLane
    ∧ (s.testActivation l).ctl.inspectSlot = s.ctl.inspectSlot
    ∧ (s.testActivation l).ctl.reportTimer = s.ctl.reportTimer
    ∧ (s.testActivation l).ctl.cause = s.ctl.cause := by
  simp only [State.testActivation]
  repeat (any_goals split)
  all_goals simp

@[simp] theorem State.reportClock_parts (s : State) :
    (s.reportClock).uplink.ingress = s.uplink.ingress
    ∧ (s.reportClock).uplink.checkedHead = s.uplink.checkedHead
    ∧ (s.reportClock).uplink.control = s.uplink.control
    ∧ (s.reportClock).uplink.lastFrame = s.uplink.lastFrame
    ∧ (s.reportClock).ctl.command = s.ctl.command
    ∧ (s.reportClock).ctl.inspectLane = s.ctl.inspectLane
    ∧ (s.reportClock).ctl.inspectSlot = s.ctl.inspectSlot
    ∧ (s.reportClock).ctl.reportTimer = s.ctl.reportTimer
    ∧ (s.reportClock).ctl.cause = s.ctl.cause := by
  simp only [State.reportClock]
  repeat (any_goals split)
  all_goals simp

@[simp] theorem State.verify_parts (s : State) (l : Lane) :
    (s.verify l).uplink.ingress = s.uplink.ingress
    ∧ (s.verify l).uplink.checkedHead = s.uplink.checkedHead
    ∧ (s.verify l).uplink.control = s.uplink.control
    ∧ (s.verify l).uplink.lastFrame = s.uplink.lastFrame
    ∧ (s.verify l).ctl.command = s.ctl.command ∧ (s.verify l).ctl.inspectLane = s.ctl.inspectLane
    ∧ (s.verify l).ctl.inspectSlot = s.ctl.inspectSlot
    ∧ (s.verify l).ctl.reportTimer = s.ctl.reportTimer ∧ (s.verify l).ctl.cause = s.ctl.cause
    ∧ (s.verify l).store.regions = s.store.regions ∧ (s.verify l).store.free = s.store.free := by
  simp only [State.verify]
  repeat (any_goals split)
  all_goals simp

@[simp] theorem State.completeSegment_parts (s : State) (l : Lane) (i : Nat) :
    (s.completeSegment l i).uplink.ingress = s.uplink.ingress
    ∧ (s.completeSegment l i).uplink.checkedHead = s.uplink.checkedHead
    ∧ (s.completeSegment l i).uplink.control = s.uplink.control
    ∧ (s.completeSegment l i).uplink.lastFrame = s.uplink.lastFrame
    ∧ (s.completeSegment l i).ctl.command = s.ctl.command
    ∧ (s.completeSegment l i).ctl.inspectLane = s.ctl.inspectLane
    ∧ (s.completeSegment l i).ctl.inspectSlot = s.ctl.inspectSlot
    ∧ (s.completeSegment l i).ctl.reportTimer = s.ctl.reportTimer
    ∧ (s.completeSegment l i).ctl.cause = s.ctl.cause
    ∧ (s.completeSegment l i).store.regions = s.store.regions
    ∧ (s.completeSegment l i).store.free = s.store.free := by
  simp only [State.completeSegment]
  repeat (any_goals split)
  all_goals simp

@[simp] theorem State.completeRollback_parts (s : State) (l : Lane) :
    (s.completeRollback l).uplink.ingress = s.uplink.ingress
    ∧ (s.completeRollback l).uplink.checkedHead = s.uplink.checkedHead
    ∧ (s.completeRollback l).uplink.control = s.uplink.control
    ∧ (s.completeRollback l).uplink.lastFrame = s.uplink.lastFrame
    ∧ (s.completeRollback l).ctl.command = s.ctl.command
    ∧ (s.completeRollback l).ctl.inspectLane = s.ctl.inspectLane
    ∧ (s.completeRollback l).ctl.inspectSlot = s.ctl.inspectSlot
    ∧ (s.completeRollback l).ctl.reportTimer = s.ctl.reportTimer
    ∧ (s.completeRollback l).ctl.cause = s.ctl.cause := by
  simp only [State.completeRollback]
  repeat (any_goals split)
  all_goals simp

@[simp] theorem State.acceptClear_parts (s : State) (l : Lane) (c : LaneCommand) :
    (s.acceptClear l c).uplink.ingress = s.uplink.ingress
    ∧ (s.acceptClear l c).uplink.checkedHead = s.uplink.checkedHead
    ∧ (s.acceptClear l c).uplink.control = s.uplink.control
    ∧ (s.acceptClear l c).uplink.lastFrame = s.uplink.lastFrame
    ∧ (s.acceptClear l c).ctl.command = s.ctl.command
    ∧ (s.acceptClear l c).ctl.inspectLane = s.ctl.inspectLane
    ∧ (s.acceptClear l c).ctl.inspectSlot = s.ctl.inspectSlot
    ∧ (s.acceptClear l c).ctl.reportTimer = s.ctl.reportTimer
    ∧ (s.acceptClear l c).ctl.cause = s.ctl.cause
    ∧ (s.acceptClear l c).store.regions = s.store.regions
    ∧ (s.acceptClear l c).store.free = s.store.free := by
  simp only [State.acceptClear]
  repeat (any_goals split)
  all_goals simp

@[simp] theorem State.testStaging_parts (s : State) (l : Lane) (x : Notice) :
    (s.testStaging l x).uplink.ingress = s.uplink.ingress
    ∧ (s.testStaging l x).uplink.checkedHead = s.uplink.checkedHead
    ∧ (s.testStaging l x).uplink.control = s.uplink.control
    ∧ (s.testStaging l x).uplink.lastFrame = s.uplink.lastFrame
    ∧ (s.testStaging l x).ctl.command = s.ctl.command
    ∧ (s.testStaging l x).ctl.inspectLane = s.ctl.inspectLane
    ∧ (s.testStaging l x).ctl.inspectSlot = s.ctl.inspectSlot
    ∧ (s.testStaging l x).ctl.reportTimer = s.ctl.reportTimer
    ∧ (s.testStaging l x).ctl.cause = s.ctl.cause
    ∧ (s.testStaging l x).store.regions = s.store.regions
    ∧ (s.testStaging l x).store.free = s.store.free := by
  simp only [State.testStaging]
  repeat (any_goals split)
  all_goals simp

@[simp] theorem State.takeNotice_parts (s : State) (l : Lane) (x : Notice) :
    (s.takeNotice l x).uplink.ingress = s.uplink.ingress
    ∧ (s.takeNotice l x).uplink.checkedHead = s.uplink.checkedHead
    ∧ (s.takeNotice l x).uplink.control = s.uplink.control
    ∧ (s.takeNotice l x).uplink.lastFrame = s.uplink.lastFrame
    ∧ (s.takeNotice l x).ctl.command = s.ctl.command
    ∧ (s.takeNotice l x).ctl.inspectLane = s.ctl.inspectLane
    ∧ (s.takeNotice l x).ctl.inspectSlot = s.ctl.inspectSlot
    ∧ (s.takeNotice l x).ctl.reportTimer = s.ctl.reportTimer
    ∧ (s.takeNotice l x).ctl.cause = s.ctl.cause
    ∧ (s.takeNotice l x).store.regions = s.store.regions
    ∧ (s.takeNotice l x).store.free = s.store.free := by
  simp only [State.takeNotice]
  repeat (any_goals split)
  all_goals simp

@[simp] theorem State.nextItem_parts (s : State) (seg : Segment) (n : Nat) :
    (s.nextItem seg n).uplink.ingress = s.uplink.ingress
    ∧ (s.nextItem seg n).uplink.checkedHead = s.uplink.checkedHead
    ∧ (s.nextItem seg n).uplink.control = s.uplink.control
    ∧ (s.nextItem seg n).uplink.lastFrame = s.uplink.lastFrame
    ∧ (s.nextItem seg n).ctl.command = s.ctl.command
    ∧ (s.nextItem seg n).ctl.inspectLane = s.ctl.inspectLane
    ∧ (s.nextItem seg n).ctl.inspectSlot = s.ctl.inspectSlot
    ∧ (s.nextItem seg n).ctl.reportTimer = s.ctl.reportTimer
    ∧ (s.nextItem seg n).ctl.cause = s.ctl.cause
    ∧ (s.nextItem seg n).store.regions = s.store.regions
    ∧ (s.nextItem seg n).store.free = s.store.free := by
  simp only [State.nextItem]
  repeat (any_goals split)
  all_goals simp

@[simp] theorem State.waitForReclaim_parts (s : State) (seg : Segment) (n : Nat) :
    (s.waitForReclaim seg n).store.regions = s.store.regions
    ∧ (s.waitForReclaim seg n).store.free = s.store.free
    ∧ (s.waitForReclaim seg n).store.lastGranted = s.store.lastGranted := by
  simp only [State.waitForReclaim]
  all_goals simp

@[simp] theorem State.giveUpHistory_parts (s : State) (seg : Segment) (n : Nat) :
    (s.giveUpHistory seg n).uplink.ingress = s.uplink.ingress
    ∧ (s.giveUpHistory seg n).uplink.checkedHead = s.uplink.checkedHead
    ∧ (s.giveUpHistory seg n).uplink.control = s.uplink.control
    ∧ (s.giveUpHistory seg n).uplink.lastFrame = s.uplink.lastFrame
    ∧ (s.giveUpHistory seg n).ctl.command = s.ctl.command
    ∧ (s.giveUpHistory seg n).ctl.inspectLane = s.ctl.inspectLane
    ∧ (s.giveUpHistory seg n).ctl.inspectSlot = s.ctl.inspectSlot
    ∧ (s.giveUpHistory seg n).ctl.reportTimer = s.ctl.reportTimer
    ∧ (s.giveUpHistory seg n).ctl.cause = s.ctl.cause
    ∧ (s.giveUpHistory seg n).store.regions = s.store.regions
    ∧ (s.giveUpHistory seg n).store.free = s.store.free := by
  simp only [State.giveUpHistory]
  repeat (any_goals split)
  all_goals simp

@[simp] theorem State.takeOutcome_parts (s : State) (seg : Segment) (n : Nat) (b : Bool) (o : ItemOutcome) :
    (s.takeOutcome seg n b o).uplink.ingress = s.uplink.ingress
    ∧ (s.takeOutcome seg n b o).uplink.checkedHead = s.uplink.checkedHead
    ∧ (s.takeOutcome seg n b o).uplink.control = s.uplink.control
    ∧ (s.takeOutcome seg n b o).uplink.lastFrame = s.uplink.lastFrame
    ∧ (s.takeOutcome seg n b o).ctl.command = s.ctl.command
    ∧ (s.takeOutcome seg n b o).ctl.inspectLane = s.ctl.inspectLane
    ∧ (s.takeOutcome seg n b o).ctl.inspectSlot = s.ctl.inspectSlot
    ∧ (s.takeOutcome seg n b o).ctl.reportTimer = s.ctl.reportTimer
    ∧ (s.takeOutcome seg n b o).ctl.cause = s.ctl.cause := by
  simp only [State.takeOutcome]
  repeat (any_goals split)
  all_goals simp

@[simp] theorem State.finishItem_parts (s : State) (seg : Segment) (n : Nat) :
    (s.finishItem seg n).store.lastGranted = s.store.lastGranted
    ∧ (s.finishItem seg n).store.engine = s.store.engine := by
  simp only [State.finishItem]
  repeat (any_goals split)
  all_goals simp

@[simp] theorem State.segmentAbandoned_parts (s : State) (l : Lane) :
    (s.segmentAbandoned l).store.regions = s.store.regions
    ∧ (s.segmentAbandoned l).store.free = s.store.free
    ∧ (s.segmentAbandoned l).store.lastGranted = s.store.lastGranted := by
  simp only [State.segmentAbandoned]
  all_goals simp

@[simp] theorem State.undoDone_parts (s : State) (l : Lane) :
    (s.undoDone l).uplink.ingress = s.uplink.ingress
    ∧ (s.undoDone l).uplink.checkedHead = s.uplink.checkedHead
    ∧ (s.undoDone l).uplink.control = s.uplink.control
    ∧ (s.undoDone l).uplink.lastFrame = s.uplink.lastFrame := by
  simp only [State.undoDone]
  repeat (any_goals split)
  all_goals simp

@[simp] theorem State.reclaimDone_parts (s : State) (b : Bool) :
    (s.reclaimDone b).store.regions = s.store.regions
    ∧ (s.reclaimDone b).store.free = s.store.free
    ∧ (s.reclaimDone b).store.lastGranted = s.store.lastGranted := by
  simp only [State.reclaimDone]
  repeat (any_goals split)
  all_goals simp

@[simp] theorem State.clearDone_parts (s : State) (l : Lane) :
    (s.clearDone l).uplink.ingress = s.uplink.ingress
    ∧ (s.clearDone l).uplink.checkedHead = s.uplink.checkedHead
    ∧ (s.clearDone l).uplink.control = s.uplink.control
    ∧ (s.clearDone l).uplink.lastFrame = s.uplink.lastFrame := by
  simp only [State.clearDone]
  repeat (any_goals split)
  all_goals simp

@[simp] theorem State.sweepDone_parts (s : State) (q : SweepRequest) :
    (s.sweepDone q).uplink.ingress = s.uplink.ingress
    ∧ (s.sweepDone q).uplink.checkedHead = s.uplink.checkedHead
    ∧ (s.sweepDone q).uplink.control = s.uplink.control
    ∧ (s.sweepDone q).uplink.lastFrame = s.uplink.lastFrame
    ∧ (s.sweepDone q).store.regions = s.store.regions ∧ (s.sweepDone q).store.free = s.store.free
    ∧ (s.sweepDone q).store.lastGranted = s.store.lastGranted := by
  simp only [State.sweepDone]
  repeat (any_goals split)
  all_goals simp

@[simp] theorem State.fixAndOpen_parts (s : State) (p : Fin 16) (l : Lane) (g n : Nat) :
    (s.fixAndOpen p l g n).uplink.ingress = s.uplink.ingress
    ∧ (s.fixAndOpen p l g n).uplink.checkedHead = s.uplink.checkedHead
    ∧ (s.fixAndOpen p l g n).uplink.control = s.uplink.control
    ∧ (s.fixAndOpen p l g n).uplink.lastFrame = s.uplink.lastFrame
    ∧ (s.fixAndOpen p l g n).ctl.command = s.ctl.command
    ∧ (s.fixAndOpen p l g n).ctl.inspectLane = s.ctl.inspectLane
    ∧ (s.fixAndOpen p l g n).ctl.inspectSlot = s.ctl.inspectSlot
    ∧ (s.fixAndOpen p l g n).ctl.reportTimer = s.ctl.reportTimer
    ∧ (s.fixAndOpen p l g n).ctl.cause = s.ctl.cause := by
  simp only [State.fixAndOpen]
  repeat (any_goals split)
  all_goals simp

@[simp] theorem State.deliveryFrame_parts (s : State) (p : Fin 16) (l : Lane) :
    (s.deliveryFrame p l).uplink.ingress = s.uplink.ingress
    ∧ (s.deliveryFrame p l).uplink.checkedHead = s.uplink.checkedHead
    ∧ (s.deliveryFrame p l).uplink.control = s.uplink.control
    ∧ (s.deliveryFrame p l).uplink.lastFrame = s.uplink.lastFrame
    ∧ (s.deliveryFrame p l).ctl.command = s.ctl.command
    ∧ (s.deliveryFrame p l).ctl.inspectLane = s.ctl.inspectLane
    ∧ (s.deliveryFrame p l).ctl.inspectSlot = s.ctl.inspectSlot
    ∧ (s.deliveryFrame p l).ctl.reportTimer = s.ctl.reportTimer
    ∧ (s.deliveryFrame p l).ctl.cause = s.ctl.cause := by
  simp only [State.deliveryFrame]
  repeat (any_goals split)
  all_goals simp

@[simp] theorem State.markUnfit_parts (s : State) (p : Fin 16) (g n : Nat) :
    (s.markUnfit p g n).uplink.ingress = s.uplink.ingress
    ∧ (s.markUnfit p g n).uplink.checkedHead = s.uplink.checkedHead
    ∧ (s.markUnfit p g n).uplink.control = s.uplink.control
    ∧ (s.markUnfit p g n).uplink.lastFrame = s.uplink.lastFrame
    ∧ (s.markUnfit p g n).ctl.command = s.ctl.command
    ∧ (s.markUnfit p g n).ctl.inspectLane = s.ctl.inspectLane
    ∧ (s.markUnfit p g n).ctl.inspectSlot = s.ctl.inspectSlot
    ∧ (s.markUnfit p g n).ctl.reportTimer = s.ctl.reportTimer
    ∧ (s.markUnfit p g n).ctl.cause = s.ctl.cause := by
  simp only [State.markUnfit]
  all_goals simp

@[simp] theorem State.startProduct_parts (s : State) (p : Fin 16) :
    (s.startProduct p).uplink.ingress = s.uplink.ingress
    ∧ (s.startProduct p).uplink.checkedHead = s.uplink.checkedHead
    ∧ (s.startProduct p).uplink.control = s.uplink.control
    ∧ (s.startProduct p).uplink.lastFrame = s.uplink.lastFrame
    ∧ (s.startProduct p).ctl.command = s.ctl.command
    ∧ (s.startProduct p).ctl.inspectLane = s.ctl.inspectLane
    ∧ (s.startProduct p).ctl.inspectSlot = s.ctl.inspectSlot
    ∧ (s.startProduct p).ctl.reportTimer = s.ctl.reportTimer
    ∧ (s.startProduct p).ctl.cause = s.ctl.cause := by
  simp only [State.startProduct]
  repeat (any_goals split)
  all_goals simp

@[simp] theorem State.startDelivery_parts (s : State) (p : Fin 16) :
    (s.startDelivery p).uplink.ingress = s.uplink.ingress
    ∧ (s.startDelivery p).uplink.checkedHead = s.uplink.checkedHead
    ∧ (s.startDelivery p).uplink.control = s.uplink.control
    ∧ (s.startDelivery p).uplink.lastFrame = s.uplink.lastFrame
    ∧ (s.startDelivery p).ctl.command = s.ctl.command
    ∧ (s.startDelivery p).ctl.inspectLane = s.ctl.inspectLane
    ∧ (s.startDelivery p).ctl.inspectSlot = s.ctl.inspectSlot
    ∧ (s.startDelivery p).ctl.reportTimer = s.ctl.reportTimer
    ∧ (s.startDelivery p).ctl.cause = s.ctl.cause := by
  simp only [State.startDelivery]
  repeat (any_goals split)
  all_goals simp

@[simp] theorem State.visitPresent_parts (s : State) (p : Fin 16) :
    (s.visitPresent p).uplink.ingress = s.uplink.ingress
    ∧ (s.visitPresent p).uplink.checkedHead = s.uplink.checkedHead
    ∧ (s.visitPresent p).uplink.control = s.uplink.control
    ∧ (s.visitPresent p).uplink.lastFrame = s.uplink.lastFrame
    ∧ (s.visitPresent p).ctl.command = s.ctl.command
    ∧ (s.visitPresent p).ctl.inspectLane = s.ctl.inspectLane
    ∧ (s.visitPresent p).ctl.inspectSlot = s.ctl.inspectSlot
    ∧ (s.visitPresent p).ctl.reportTimer = s.ctl.reportTimer
    ∧ (s.visitPresent p).ctl.cause = s.ctl.cause := by
  simp only [State.visitPresent]
  repeat (any_goals split)
  all_goals simp

@[simp] theorem State.visit_parts (s : State) (p : Fin 16) :
    (s.visit p).uplink.ingress = s.uplink.ingress
    ∧ (s.visit p).uplink.checkedHead = s.uplink.checkedHead
    ∧ (s.visit p).uplink.control = s.uplink.control
    ∧ (s.visit p).uplink.lastFrame = s.uplink.lastFrame ∧ (s.visit p).ctl.command = s.ctl.command
    ∧ (s.visit p).ctl.inspectLane = s.ctl.inspectLane
    ∧ (s.visit p).ctl.inspectSlot = s.ctl.inspectSlot
    ∧ (s.visit p).ctl.reportTimer = s.ctl.reportTimer ∧ (s.visit p).ctl.cause = s.ctl.cause := by
  simp only [State.visit]
  repeat (any_goals split)
  all_goals simp

@[simp] theorem State.goodAt_parts (s : State) (p : Fin 16) :
    (s.goodAt p).uplink.ingress = s.uplink.ingress
    ∧ (s.goodAt p).uplink.checkedHead = s.uplink.checkedHead
    ∧ (s.goodAt p).uplink.control = s.uplink.control
    ∧ (s.goodAt p).uplink.lastFrame = s.uplink.lastFrame
    ∧ (s.goodAt p).ctl.command = s.ctl.command ∧ (s.goodAt p).ctl.inspectLane = s.ctl.inspectLane
    ∧ (s.goodAt p).ctl.inspectSlot = s.ctl.inspectSlot
    ∧ (s.goodAt p).ctl.reportTimer = s.ctl.reportTimer ∧ (s.goodAt p).ctl.cause = s.ctl.cause := by
  simp only [State.goodAt]
  repeat (any_goals split)
  all_goals simp

@[simp] theorem State.missAt_parts (s : State) (p : Fin 16) :
    (s.missAt p).uplink.ingress = s.uplink.ingress
    ∧ (s.missAt p).uplink.checkedHead = s.uplink.checkedHead
    ∧ (s.missAt p).uplink.control = s.uplink.control
    ∧ (s.missAt p).uplink.lastFrame = s.uplink.lastFrame
    ∧ (s.missAt p).ctl.command = s.ctl.command ∧ (s.missAt p).ctl.inspectLane = s.ctl.inspectLane
    ∧ (s.missAt p).ctl.inspectSlot = s.ctl.inspectSlot
    ∧ (s.missAt p).ctl.reportTimer = s.ctl.reportTimer ∧ (s.missAt p).ctl.cause = s.ctl.cause := by
  simp only [State.missAt]
  repeat (any_goals split)
  all_goals simp

@[simp] theorem State.markFaulty_parts (s : State) (p : Fin 16) (l : Lane) (g : Nat) :
    (s.markFaulty p l g).uplink.ingress = s.uplink.ingress
    ∧ (s.markFaulty p l g).uplink.checkedHead = s.uplink.checkedHead
    ∧ (s.markFaulty p l g).uplink.control = s.uplink.control
    ∧ (s.markFaulty p l g).uplink.lastFrame = s.uplink.lastFrame
    ∧ (s.markFaulty p l g).ctl.command = s.ctl.command
    ∧ (s.markFaulty p l g).ctl.inspectLane = s.ctl.inspectLane
    ∧ (s.markFaulty p l g).ctl.inspectSlot = s.ctl.inspectSlot
    ∧ (s.markFaulty p l g).ctl.reportTimer = s.ctl.reportTimer
    ∧ (s.markFaulty p l g).ctl.cause = s.ctl.cause := by
  simp only [State.markFaulty]
  all_goals simp

@[simp] theorem State.failedAttempt_parts (s : State) (p : Fin 16) (l : Lane) (b : Bool) :
    (s.failedAttempt p l b).uplink.ingress = s.uplink.ingress
    ∧ (s.failedAttempt p l b).uplink.checkedHead = s.uplink.checkedHead
    ∧ (s.failedAttempt p l b).uplink.control = s.uplink.control
    ∧ (s.failedAttempt p l b).uplink.lastFrame = s.uplink.lastFrame
    ∧ (s.failedAttempt p l b).ctl.command = s.ctl.command
    ∧ (s.failedAttempt p l b).ctl.inspectLane = s.ctl.inspectLane
    ∧ (s.failedAttempt p l b).ctl.inspectSlot = s.ctl.inspectSlot
    ∧ (s.failedAttempt p l b).ctl.reportTimer = s.ctl.reportTimer
    ∧ (s.failedAttempt p l b).ctl.cause = s.ctl.cause := by
  simp only [State.failedAttempt]
  repeat (any_goals split)
  all_goals simp

@[simp] theorem State.openReply_parts (s : State) (p : Fin 16) (l : Lane) (r : Reply) :
    (s.openReply p l r).uplink.ingress = s.uplink.ingress
    ∧ (s.openReply p l r).uplink.checkedHead = s.uplink.checkedHead
    ∧ (s.openReply p l r).uplink.control = s.uplink.control
    ∧ (s.openReply p l r).uplink.lastFrame = s.uplink.lastFrame
    ∧ (s.openReply p l r).ctl.command = s.ctl.command
    ∧ (s.openReply p l r).ctl.inspectLane = s.ctl.inspectLane
    ∧ (s.openReply p l r).ctl.inspectSlot = s.ctl.inspectSlot
    ∧ (s.openReply p l r).ctl.reportTimer = s.ctl.reportTimer
    ∧ (s.openReply p l r).ctl.cause = s.ctl.cause := by
  simp only [State.openReply]
  repeat (any_goals split)
  all_goals simp

@[simp] theorem State.closeReply_parts (s : State) (p : Fin 16) (l : Lane) (r : Reply) :
    (s.closeReply p l r).uplink.ingress = s.uplink.ingress
    ∧ (s.closeReply p l r).uplink.checkedHead = s.uplink.checkedHead
    ∧ (s.closeReply p l r).uplink.control = s.uplink.control
    ∧ (s.closeReply p l r).uplink.lastFrame = s.uplink.lastFrame
    ∧ (s.closeReply p l r).ctl.command = s.ctl.command
    ∧ (s.closeReply p l r).ctl.inspectLane = s.ctl.inspectLane
    ∧ (s.closeReply p l r).ctl.inspectSlot = s.ctl.inspectSlot
    ∧ (s.closeReply p l r).ctl.reportTimer = s.ctl.reportTimer
    ∧ (s.closeReply p l r).ctl.cause = s.ctl.cause := by
  simp only [State.closeReply]
  repeat (any_goals split)
  all_goals simp

@[simp] theorem State.switchReply_parts (s : State) (p : Fin 16) (l : Lane) (g : Nat) :
    (s.switchReply p l g).uplink.ingress = s.uplink.ingress
    ∧ (s.switchReply p l g).uplink.checkedHead = s.uplink.checkedHead
    ∧ (s.switchReply p l g).uplink.control = s.uplink.control
    ∧ (s.switchReply p l g).uplink.lastFrame = s.uplink.lastFrame
    ∧ (s.switchReply p l g).ctl.command = s.ctl.command
    ∧ (s.switchReply p l g).ctl.inspectLane = s.ctl.inspectLane
    ∧ (s.switchReply p l g).ctl.inspectSlot = s.ctl.inspectSlot
    ∧ (s.switchReply p l g).ctl.reportTimer = s.ctl.reportTimer
    ∧ (s.switchReply p l g).ctl.cause = s.ctl.cause := by
  simp only [State.switchReply]
  repeat (any_goals split)
  all_goals simp

@[simp] theorem State.applyReply_parts (s : State) (x : Addressed) (r : Reply) :
    (s.applyReply x r).uplink.ingress = s.uplink.ingress
    ∧ (s.applyReply x r).uplink.checkedHead = s.uplink.checkedHead
    ∧ (s.applyReply x r).uplink.control = s.uplink.control
    ∧ (s.applyReply x r).uplink.lastFrame = s.uplink.lastFrame
    ∧ (s.applyReply x r).ctl.command = s.ctl.command
    ∧ (s.applyReply x r).ctl.inspectLane = s.ctl.inspectLane
    ∧ (s.applyReply x r).ctl.inspectSlot = s.ctl.inspectSlot
    ∧ (s.applyReply x r).ctl.reportTimer = s.ctl.reportTimer
    ∧ (s.applyReply x r).ctl.cause = s.ctl.cause := by
  simp only [State.applyReply]
  repeat (any_goals split)
  all_goals simp

@[simp] theorem State.applyOutcome_parts (s : State) (x : Addressed) (o : ExchangeOutcome) :
    (s.applyOutcome x o).uplink.ingress = s.uplink.ingress
    ∧ (s.applyOutcome x o).uplink.checkedHead = s.uplink.checkedHead
    ∧ (s.applyOutcome x o).uplink.control = s.uplink.control
    ∧ (s.applyOutcome x o).uplink.lastFrame = s.uplink.lastFrame
    ∧ (s.applyOutcome x o).ctl.command = s.ctl.command
    ∧ (s.applyOutcome x o).ctl.inspectLane = s.ctl.inspectLane
    ∧ (s.applyOutcome x o).ctl.inspectSlot = s.ctl.inspectSlot
    ∧ (s.applyOutcome x o).ctl.reportTimer = s.ctl.reportTimer
    ∧ (s.applyOutcome x o).ctl.cause = s.ctl.cause := by
  simp only [State.applyOutcome]
  repeat (any_goals split)
  all_goals simp

end Sys2Proof.Machine
end

