-- ==== Sys2Proof/Laws/Commands.lean ====
section
/-! SUPPORT. Taking a command: what `takeCommand` can do, and what no command of the control unit
touches. -/

namespace Sys2Proof.Machine

/-- What holds of the state itself, of every command carried out and of every UNKNOWN answered, holds
after `takeCommand`. -/
theorem State.takeCommand_cases {P : State → Prop} (s : State) (code : Nat)
    (carry : CommandHead → List Byte → State → State) (same : P s)
    (carried : ∀ m, s.ctl.command = .available → s.uplink.control.head? = some m →
      m.code.toNat = code → P (carry m.head m.args s.popControl))
    (unknown : ∀ m, s.ctl.command = .available → s.uplink.control.head? = some m →
      codeKnown m.code.toNat = false → P (s.popControl.answer m.head .unknown [])) :
    P (s.takeCommand code carry) := by
  unfold State.takeCommand
  split
  case h_2 => exact same
  case h_1 m rest hc hq =>
    have hh : s.uplink.control.head? = some m := by simp [hq]
    split
    · next h => exact carried m hc hh h
    · split
      · exact same
      · next h => exact unknown m hc hh (by simpa using h)

/-- A CONTROL of the command's code at the head of the queue is taken (R173). -/
theorem State.takeCommand_takes {s : State} {m : ControlMessage} {code : Nat} (h : s.takes m code)
    (carry : CommandHead → List Byte → State → State) :
    s.takeCommand code carry = carry m.head m.args s.popControl := by
  obtain ⟨-, hc, hq, hm⟩ := h
  cases hl : s.uplink.control with
  | nil => simp [hl] at hq
  | cons a rest =>
    simp only [hl, List.head?_cons, Option.some.injEq] at hq
    subst hq
    simp [State.takeCommand, hc, hl, hm]

/-- With a command in flight none is taken (R173). -/
theorem State.takeCommand_busy {s : State} (h : s.ctl.command ≠ .available) (code : Nat)
    (carry : CommandHead → List Byte → State → State) : s.takeCommand code carry = s := by
  unfold State.takeCommand
  split
  case h_1 hc _ => exact absurd hc h
  case h_2 => rfl

/-- The fields that no command of the control unit touches as it is taken. -/
def State.sameBeyondCommands (s t : State) : Prop :=
  t.pending = s.pending ∧ t.power = s.power ∧ t.straps = s.straps
    ∧ t.settingsMemory = s.settingsMemory ∧ t.clock = s.clock

theorem withArgs_same {α : Type} (read : List Byte → Option α)
    (carry : CommandHead → α → State → State) (h : CommandHead) (args : List Byte) (s : State)
    (hc : ∀ x, s.sameBeyondCommands (carry h x s)) :
    s.sameBeyondCommands (withArgs read carry h args s) := by
  unfold withArgs
  split
  · exact hc _
  · simp [State.sameBeyondCommands]

theorem State.takeCommand_same (s : State) (code : Nat)
    (carry : CommandHead → List Byte → State → State)
    (hc : ∀ h args, s.popControl.sameBeyondCommands (carry h args s.popControl)) :
    s.sameBeyondCommands (s.takeCommand code carry) := by
  apply State.takeCommand_cases
  · simp [State.sameBeyondCommands]
  · intro m _ _ _
    exact hc m.head m.args
  · intro m _ _ _
    simp [State.sameBeyondCommands]

theorem carrySetSplit_same (h : CommandHead) (x : Fin 4) (s : State) :
    s.sameBeyondCommands (carrySetSplit h x s) := by
  simp only [State.sameBeyondCommands, carrySetSplit]
  repeat (any_goals split)
  all_goals simp

theorem carrySubscribe_same (h : CommandHead) (x : Lane × Nat) (s : State) :
    s.sameBeyondCommands (carrySubscribe h x s) := by
  simp only [State.sameBeyondCommands, carrySubscribe]
  repeat (any_goals split)
  all_goals simp

theorem carrySetClass_same (h : CommandHead) (x : Fin 8 × ClassRec) (s : State) :
    s.sameBeyondCommands (carrySetClass h x s) := by
  simp only [State.sameBeyondCommands, carrySetClass]
  repeat (any_goals split)
  all_goals simp

theorem carrySetPosition_same (h : CommandHead) (x : Fin 16 × Option (Fin 8)) (s : State) :
    s.sameBeyondCommands (carrySetPosition h x s) := by
  simp only [State.sameBeyondCommands, carrySetPosition]
  repeat (any_goals split)
  all_goals simp

theorem carrySetTiming_same (h : CommandHead) (x : Fin 4 × Fin 13) (s : State) :
    s.sameBeyondCommands (carrySetTiming h x s) := by
  simp only [State.sameBeyondCommands, carrySetTiming]
  repeat (any_goals split)
  all_goals simp

theorem carrySetAddressing_same (h : CommandHead) (x : Addressing) (s : State) :
    s.sameBeyondCommands (carrySetAddressing h x s) := by
  simp only [State.sameBeyondCommands, carrySetAddressing]
  all_goals simp

theorem carryEvents_same (h : CommandHead) (x : BitVec 16 × BitVec 16) (s : State) :
    s.sameBeyondCommands (carryEvents h x s) := by
  simp only [State.sameBeyondCommands, carryEvents]
  all_goals simp

theorem carryAcknowledge_same (h : CommandHead) (x : BitVec 16) (s : State) :
    s.sameBeyondCommands (carryAcknowledge h x s) := by
  simp only [State.sameBeyondCommands, carryAcknowledge]
  all_goals simp

theorem carryHold_same (h : CommandHead) (x : Lane) (s : State) :
    s.sameBeyondCommands (carryHold h x s) := by
  simp only [State.sameBeyondCommands, carryHold]
  all_goals simp

theorem carryRelease_same (h : CommandHead) (x : Lane) (s : State) :
    s.sameBeyondCommands (carryRelease h x s) := by
  simp only [State.sameBeyondCommands, carryRelease]
  all_goals simp

theorem carryRollback_same (h : CommandHead) (x : Lane) (s : State) :
    s.sameBeyondCommands (carryRollback h x s) := by
  simp only [State.sameBeyondCommands, carryRollback]
  repeat (any_goals split)
  all_goals simp

theorem carryClear_same (h : CommandHead) (x : Lane) (s : State) :
    s.sameBeyondCommands (carryClear h x s) := by
  simp only [State.sameBeyondCommands, carryClear]
  all_goals simp

theorem carryInspect_same (h : CommandHead) (x : Lane × Nat × Nat) (s : State) :
    s.sameBeyondCommands (carryInspect h x s) := by
  simp only [State.sameBeyondCommands, carryInspect]
  all_goals simp

theorem carryInspectNext_same (h : CommandHead) (x : Nat) (s : State) :
    s.sameBeyondCommands (carryInspectNext h x s) := by
  simp only [State.sameBeyondCommands, carryInspectNext]
  all_goals simp

theorem carrySave_same (h : CommandHead) (x : Unit) (s : State) :
    s.sameBeyondCommands (carrySave h x s) := by
  simp only [State.sameBeyondCommands, carrySave]
  all_goals simp

theorem carryRestart_same (h : CommandHead) (x : Unit) (s : State) :
    s.sameBeyondCommands (carryRestart h x s) := by
  simp only [State.sameBeyondCommands, carryRestart]
  all_goals simp

theorem statusStep_same (s : State) : s.sameBeyondCommands (statusStep s) := by
  unfold statusStep
  split
  · split <;> simp [State.sameBeyondCommands]
  · exact s.takeCommand_same _ _ fun h args => by simp [State.sameBeyondCommands]

theorem setSplitStep_same (s : State) : s.sameBeyondCommands (setSplitStep s) := by
  exact s.takeCommand_same _ _ fun h args => withArgs_same _ _ h args _ fun x => carrySetSplit_same h x _

theorem subscribeStep_same (s : State) : s.sameBeyondCommands (subscribeStep s) := by
  exact s.takeCommand_same _ _ fun h args => withArgs_same _ _ h args _ fun x => carrySubscribe_same h x _

theorem setClassStep_same (s : State) : s.sameBeyondCommands (setClassStep s) := by
  exact s.takeCommand_same _ _ fun h args => withArgs_same _ _ h args _ fun x => carrySetClass_same h x _

theorem setPositionStep_same (s : State) : s.sameBeyondCommands (setPositionStep s) := by
  exact s.takeCommand_same _ _ fun h args => withArgs_same _ _ h args _ fun x => carrySetPosition_same h x _

theorem setTimingStep_same (s : State) : s.sameBeyondCommands (setTimingStep s) := by
  exact s.takeCommand_same _ _ fun h args => withArgs_same _ _ h args _ fun x => carrySetTiming_same h x _

theorem setAddressingStep_same (s : State) : s.sameBeyondCommands (setAddressingStep s) := by
  exact s.takeCommand_same _ _ fun h args => withArgs_same _ _ h args _ fun x => carrySetAddressing_same h x _

theorem eventsStep_same (s : State) : s.sameBeyondCommands (eventsStep s) := by
  exact s.takeCommand_same _ _ fun h args => withArgs_same _ _ h args _ fun x => carryEvents_same h x _

theorem acknowledgeStep_same (s : State) : s.sameBeyondCommands (acknowledgeStep s) := by
  exact s.takeCommand_same _ _ fun h args => withArgs_same _ _ h args _ fun x => carryAcknowledge_same h x _

theorem holdStep_same (s : State) : s.sameBeyondCommands (holdStep s) := by
  exact s.takeCommand_same _ _ fun h args => withArgs_same _ _ h args _ fun x => carryHold_same h x _

theorem releaseStep_same (s : State) : s.sameBeyondCommands (releaseStep s) := by
  exact s.takeCommand_same _ _ fun h args => withArgs_same _ _ h args _ fun x => carryRelease_same h x _

theorem rollbackStep_same (s : State) : s.sameBeyondCommands (rollbackStep s) := by
  exact s.takeCommand_same _ _ fun h args => withArgs_same _ _ h args _ fun x => carryRollback_same h x _

theorem clearStep_same (s : State) : s.sameBeyondCommands (clearStep s) := by
  exact s.takeCommand_same _ _ fun h args => withArgs_same _ _ h args _ fun x => carryClear_same h x _

theorem inspectStep_same (s : State) : s.sameBeyondCommands (inspectStep s) := by
  exact s.takeCommand_same _ _ fun h args => withArgs_same _ _ h args _ fun x => carryInspect_same h x _

theorem inspectNextStep_same (s : State) : s.sameBeyondCommands (inspectNextStep s) := by
  exact s.takeCommand_same _ _ fun h args => withArgs_same _ _ h args _ fun x => carryInspectNext_same h x _

theorem saveStep_same (s : State) : s.sameBeyondCommands (saveStep s) := by
  exact s.takeCommand_same _ _ fun h args => withArgs_same _ _ h args _ fun x => carrySave_same h x _

theorem restartStep_same (s : State) : s.sameBeyondCommands (restartStep s) := by
  exact s.takeCommand_same _ _ fun h args => withArgs_same _ _ h args _ fun x => carryRestart_same h x _

theorem inspectSlotReadStep_same (s : State) : s.sameBeyondCommands (inspectSlotReadStep s) := by
  simp only [State.sameBeyondCommands, inspectSlotReadStep]
  repeat (any_goals split)
  all_goals simp

/-! ### The queue is nobody's -/

@[simp] theorem saveWriteCompleteStep_pending (s : State) :
    (saveWriteCompleteStep s).pending = s.pending := by
  simp only [saveWriteCompleteStep]
  split
  all_goals simp

@[simp] theorem egressFrameSentStep_pending (s : State) :
    (egressFrameSentStep s).pending = s.pending := by
  simp only [egressFrameSentStep, State.warmReset, State.warmValues]
  repeat (any_goals split)
  all_goals simp

@[simp] theorem resetAssertedStep_pending (s : State) :
    (resetAssertedStep s).pending = s.pending := by
  simp [resetAssertedStep, State.dropWork]

@[simp] theorem coldResetStep_pending (straps : Byte) (s : State) :
    (coldResetStep straps s).pending = s.pending := by
  simp only [coldResetStep, State.coldValues]
  split
  all_goals simp

end Sys2Proof.Machine
end

