-- ==== Sys2Proof/Laws/Lanes.lean ====
section
/-! SUPPORT. What the lane controller's shared procedures do to the lane records, the event flags, the
sweeper's list and the apply engine. -/

namespace Sys2Proof.Machine

/-! ### Reading a lane record after an update -/

theorem State.lane_of_lanes {s t : State} (h : t.lanes = s.lanes) (l : Lane) : t.lane l = s.lane l := by
  simp only [State.lane, h]

/-! ### Flags -/

@[simp] theorem State.alert_flags (s : State) (f : EventFlag) (c : AlertContext) :
    (s.alert f c).ctl.flags = s.ctl.flags := by
  simp only [State.alert]
  split
  all_goals simp

/-- A rise sets its own flag. -/
@[simp] theorem State.rise_flags (s : State) (f : EventFlag) (c : AlertContext) :
    (s.rise f c).ctl.flags = s.ctl.flags ||| f.bit := by
  simp only [State.rise]
  split
  all_goals simp

/-! ### The sweeper's list -/

/-- A request depends on the sweeper's own state alone. -/
theorem State.requestSweep_of {s t : State} (h : t.sweeper = s.sweeper) (l : Lane) (k : SweepKind)
    (w : Bool) : (t.requestSweep l k w).sweeper = (s.requestSweep l k w).sweeper := by
  simp only [State.requestSweep, h]

/-- The arbiter's next grant depends on the store, the sweeper, the scanner's read and the command
alone. -/
theorem State.nextGrant_of {s t : State} (he : t.store = s.store) (hw : t.sweeper = s.sweeper)
    (hr : t.scan.read = s.scan.read) (hc : t.ctl.command = s.ctl.command) :
    t.nextGrant = s.nextGrant := by
  have h : t.waits = s.waits := by
    funext r
    cases r <;> simp only [State.waits, he, hw, hr, hc]
  simp only [State.nextGrant, he, h]

/-- While an item is being finished the store serves it alone (R60, R63). -/
theorem State.nextGrant_finishing {s : State} {seg : Segment} {pos : Nat}
    (h : s.store.engine = .finishing seg pos) : s.nextGrant = some .apply := by
  simp only [State.nextGrant, h]

/-- Giving up a segment depends on the store, the sweeper, the arbiter's next grant and the counter of
the free values alone. -/
theorem State.abandonSegment_of {s t : State} (he : t.store = s.store) (h : t.sweeper = s.sweeper)
    (hg : t.nextGrant = s.nextGrant) (hc : t.choices = s.choices) (l : Lane) :
    (t.abandonSegment l).sweeper = (s.abandonSegment l).sweeper
      ∧ (t.abandonSegment l).store = (s.abandonSegment l).store := by
  simp only [State.abandonSegment, State.giveUpItem, he, hg, hc]
  repeat (any_goals split)
  all_goals simp [State.clearWaiter, State.setEngine, State.granted, h, he]

/-- A segment of another lane, or none, is left alone. -/
theorem State.abandonSegment_free {s : State} {l : Lane} (h : s.store.engine.lane ≠ some l) :
    s.abandonSegment l = s := by
  simp [State.abandonSegment, h]

/-- An engine that waits for a RECLAIM gives up at once (R63, R83). -/
theorem State.abandonSegment_waiting {s : State} {seg : Segment} {pos : Nat}
    (h : s.store.engine = .waiting seg pos) :
    s.abandonSegment seg.lane = (s.setEngine .empty).clearWaiter := by
  simp [State.abandonSegment, h, Engine.lane]

/-- An item behind another grant is withdrawn (R61, R63). -/
theorem State.abandonSegment_withdrawn {s : State} {seg : Segment} {pos : Nat} {retry : Bool}
    (h : s.store.engine = .applying seg pos retry) (hg : s.nextGrant ≠ some .apply) :
    s.abandonSegment seg.lane = s.setEngine .empty := by
  simp [State.abandonSegment, h, Engine.lane, State.giveUpItem, hg]

/-- An item next to be granted is finished or withdrawn, by the free value (R61, R63, log 39). -/
theorem State.abandonSegment_granted {s : State} {seg : Segment} {pos : Nat} {retry : Bool}
    (h : s.store.engine = .applying seg pos retry) (hg : s.nextGrant = some .apply) :
    s.abandonSegment seg.lane =
      { s with
        choices := s.choices + 1,
        store :=
          if Config.itemGrantedFirst s.choices then
            { s.store with lastGranted := .apply, engine := .finishing seg pos }
          else { s.store with engine := .empty } } := by
  simp only [State.abandonSegment, h, Engine.lane, if_true, State.giveUpItem, hg, State.setEngine,
    State.granted]
  split <;> rfl

@[simp] theorem Engine.finishes_empty (l : Lane) : Engine.empty.finishes l = false := rfl

/-- An engine that finishes an item of a lane holds a segment of it. -/
theorem Engine.lane_of_finishes {e : Engine} {l : Lane} (h : e.finishes l = true) :
    e.lane = some l := by
  cases e <;> simp_all [Engine.finishes, Engine.lane]

/-! ### Discard (R33, R34) -/

/-- A discard in full: the lane record, the flag, the engine and the sweep it requests. -/
theorem State.discard_spec (s : State) (l : Lane) (r : DiscardReason) (k : SweepKind) :
    (s.discard l r k).lanes = s.lanes.set l ((s.lane l).discarded r)
    ∧ (s.discard l r k).ctl.flags = s.ctl.flags ||| (EventFlag.discarded l).bit
    ∧ (s.discard l r k).store = (s.abandonSegment l).store
    ∧ (s.discard l r k).sweeper =
      if (s.lane l).state = .retiring ∨ (s.abandonSegment l).store.engine.finishes l = true then
        (s.abandonSegment l).sweeper
      else ((s.abandonSegment l).requestSweep l k false).sweeper := by
  simp only [State.discard]
  refine ⟨?_, ?_, ?_, ?_⟩
  · split <;> simp
  · split <;> simp
  · split <;> simp [State.requestSweep]
  · simp only [State.reportGone_frame, State.rise_frame, State.setLane_store]
    split
    · simp
    · exact State.requestSweep_of (by simp) l k false

/-- The sweep an UNDO discard requests names S. -/
theorem State.discardUndo_spec (s : State) (l : Lane) (r : DiscardReason) :
    (s.discardUndo l r).lanes = s.lanes.set l ((s.lane l).discarded r)
    ∧ (s.discardUndo l r).ctl.flags = s.ctl.flags ||| (EventFlag.discarded l).bit
    ∧ (s.discardUndo l r).store = (s.abandonSegment l).store
    ∧ (s.discardUndo l r).sweeper =
      if (s.lane l).state = .retiring ∨ (s.abandonSegment l).store.engine.finishes l = true then
        (s.abandonSegment l).sweeper
      else ((s.abandonSegment l).requestSweep l (.undo (s.lane l).stagedGen) false).sweeper :=
  s.discard_spec l r _

/-! ### Activation (R37, R38) -/

/-- An activation in full, but for the scanner's records and the uplink. -/
theorem State.activate_spec (s : State) (l : Lane) (n : StagedNotice)
    (hn : (s.lane l).staged = some n) :
    (s.activate l).lanes = s.lanes.set l ((s.lane l).activated n s.clock.value)
    ∧ (s.activate l).ctl.flags = s.ctl.flags ||| (EventFlag.activated l).bit
    ∧ (s.activate l).sweeper = (s.requestSweep l .reclaim false).sweeper := by
  simp only [State.activate, hn]
  refine ⟨?_, ?_, ?_⟩ <;> simp [State.requestSweep]

theorem State.testActivation_due {s : State} {l : Lane} (h : s.activationDue l = true) :
    s.testActivation l = s.activate l := by
  simp [State.testActivation, h]

theorem State.testActivation_not {s : State} {l : Lane} (h : s.activationDue l = false) :
    s.testActivation l = s := by
  simp [State.testActivation, h]

/-- The test is met by a READY lane that is not held and whose time has come, and by no other. -/
theorem State.activationDue_iff (s : State) (l : Lane) :
    s.activationDue l = true ↔ ∃ n, (s.lane l).state = .ready ∧ (s.lane l).staged = some n
      ∧ (s.lane l).hold = false ∧ effectiveTimeCome s.clock n.e = true := by
  simp only [State.activationDue]
  split
  · next n h1 h2 => simp [h1, h2]
  · next hno =>
    simp only [Bool.false_eq_true, false_iff, not_exists]
    intro n hn
    exact hno n hn.1 hn.2.1

theorem effectiveTimeCome_iff (c : Clock) (e : Nat) :
    effectiveTimeCome c e = true ↔ (e = 0 ∨ (c.state ≠ .unset ∧ e ≤ c.value)) := by
  simp [effectiveTimeCome]

/-- The test of one lane leaves the other lane's record alone. -/
theorem State.testActivation_lane_other (s : State) (l : Lane) :
    (s.testActivation l).lane l.other = s.lane l.other := by
  by_cases h : s.activationDue l = true
  · obtain ⟨n, -, hn, -⟩ := (s.activationDue_iff l).1 h
    rw [State.testActivation_due h]
    simp only [State.lane, (s.activate_spec l n hn).1, PerLane.get_set_other]
  · rw [Bool.not_eq_true] at h
    rw [State.testActivation_not h]

theorem State.testActivation_due_other (s : State) (l : Lane) :
    (s.testActivation l).activationDue l.other = s.activationDue l.other := by
  simp only [State.activationDue, State.testActivation_lane_other, State.testActivation_frame]

/-- What a clock report does to a lane is what its own test does, whichever lane takes it first
(R115). -/
theorem State.reportClock_lane (s : State) (l : Lane) :
    ∃ u : State, u.lane l = s.lane l ∧ u.clock = s.clock
      ∧ u.activationDue l = s.activationDue l
      ∧ s.reportClock.lane l = (u.testActivation l).lane l := by
  have first : ∀ a : State,
      ((a.testActivation l).testActivation l.other).lane l = (a.testActivation l).lane l := by
    intro a
    have h := (a.testActivation l).testActivation_lane_other l.other
    rwa [Lane.other_other] at h
  have second : ∀ a : State, (a.testActivation l.other).lane l = a.lane l
      ∧ (a.testActivation l.other).activationDue l = a.activationDue l := by
    intro a
    have h := a.testActivation_lane_other l.other
    have h' := a.testActivation_due_other l.other
    rw [Lane.other_other] at h h'
    exact ⟨h, h'⟩
  unfold State.reportClock
  split
  · simp only []
    generalize (if Config.laneBReportsFirst s.choices then Lane.b else Lane.p) = f
    rcases Lane.eq_or_other l f with h | h
    · rw [h]
      exact ⟨{ s with choices := s.choices + 1 }, rfl, rfl, rfl, first _⟩
    · rw [h, Lane.other_other]
      exact ⟨({ s with choices := s.choices + 1 } : State).testActivation l.other,
        (second _).1, by simp, (second _).2, rfl⟩
  · cases l
    · exact ⟨s, rfl, rfl, rfl, first s⟩
    · exact ⟨s.testActivation .b, (second s).1, by simp, (second s).2, rfl⟩

/-- A lane due at a clock report activates at it. -/
theorem State.reportClock_due {s : State} {l : Lane} {n : StagedNotice}
    (h : s.activationDue l = true) (hn : (s.lane l).staged = some n) :
    s.reportClock.lane l = (s.lane l).activated n s.clock.value := by
  obtain ⟨u, hl, hc, hd, he⟩ := s.reportClock_lane l
  rw [he, State.testActivation_due (by rw [hd, h])]
  simp only [State.lane] at hl hn ⊢
  have hs := (u.activate_spec l n (by simp only [State.lane, hl, hn])).1
  rw [hs, PerLane.get_set_same]
  simp only [State.lane, hl, hc]

/-- A lane not due at a clock report stays as it is. -/
theorem State.reportClock_not {s : State} {l : Lane} (h : s.activationDue l = false) :
    s.reportClock.lane l = s.lane l := by
  obtain ⟨u, hl, -, hd, he⟩ := s.reportClock_lane l
  rw [he, State.testActivation_not (by rw [hd, h]), hl]

/-! ### Rollback (R42) -/

/-- A rollback's completion in full, but for the scanner's records and the uplink. -/
theorem State.completeRollback_spec (s : State) (l : Lane) (top : HistoryRecord)
    (below : List HistoryRecord) (hh : (s.lane l).history = top :: below) :
    (s.completeRollback l).lanes = s.lanes.set l
      { s.lane l with
        floor := max (s.lane l).floor (s.lane l).active, active := top.generation,
        activeDigest := top.digest, history := below }
    ∧ (s.completeRollback l).ctl.flags = s.ctl.flags ||| (EventFlag.activated l).bit
    ∧ (s.completeRollback l).sweeper = (s.requestSweep l .reclaim false).sweeper := by
  simp only [State.completeRollback, hh]
  refine ⟨?_, ?_, ?_⟩ <;> simp [State.requestSweep]

/-! ### The scanner's records -/

@[simp] theorem State.beginRound_records (s : State) (n : Nat) :
    (s.beginRound n).scan.records = s.scan.records := by
  simp only [State.beginRound, State.pause]
  split
  all_goals simp

@[simp] theorem State.nextRound_records (s : State) : s.nextRound.scan.records = s.scan.records := by
  simp only [State.nextRound]
  split
  all_goals simp

@[simp] theorem State.endRound_records (s : State) : s.endRound.scan.records = s.scan.records := by
  simp only [State.endRound, State.pause]
  split
  all_goals simp

@[simp] theorem State.settleScan_records (s : State) :
    s.settleScan.scan.records = s.scan.records := by
  simp only [State.settleScan]
  repeat (any_goals split)
  all_goals simp

@[simp] theorem State.noteReport_records (s : State) :
    s.noteReport.scan.records = s.scan.records := rfl

@[simp] theorem State.wakeScan_records (s : State) : s.wakeScan.scan.records = s.scan.records := by
  simp only [State.wakeScan]
  split
  all_goals simp

@[simp] theorem State.checkWalk_records (s : State) : s.checkWalk.scan.records = s.scan.records := by
  simp only [State.checkWalk]
  repeat (any_goals split)
  all_goals simp

@[simp] theorem State.reportStaging_records (s : State) :
    s.reportStaging.scan.records = s.scan.records := by
  simp [State.reportStaging]

@[simp] theorem State.onWaitingSwitches_records (s : State) (f : List Switch → List Switch) :
    (s.onWaitingSwitches f).scan.records = s.scan.records := by
  simp [State.onWaitingSwitches]

/-! ### ANSWERs -/

/-- After an ANSWER the command state is AVAILABLE or PLACING. -/
theorem State.answer_command (s : State) (h : CommandHead) (r : CommandResult) (b : List Byte) :
    (s.answer h r b).ctl.command = .available
    ∨ (s.answer h r b).ctl.command =
      .placing { head := h, body := answerBody h r b, addressing := none, restart := false } := by
  simp only [State.answer, State.deliverAnswer, State.placeAnswer]
  split
  · left; simp
  · right; rfl

/-- A report of a lane's completion answers the command that waits for the lane. -/
theorem State.laneCommandDone_waiting {s : State} {h : CommandHead} {l : Lane}
    (hc : s.ctl.command = .carryingOut h (.lane l)) : s.laneCommandDone l = s.answer h .done [] := by
  simp [State.laneCommandDone, hc]

end Sys2Proof.Machine
end

