-- ==== Sys2Proof/Laws/Memory.lean ====
section
/-! SUPPORT. Regions of the entry store: reading after writing and freeing, the canonical form, the
allocation of the lowest free slot. -/

namespace Sys2Proof.Machine

/-! ### Reading -/

theorem Memory.read_write (m : Memory) (a b : Nat) (x : Entry) :
    (m.write a x).read b = if b = a then some x else m.read b := by
  induction m with
  | nil => simp [Memory.write, Memory.read, eq_comm]
  | cons p m ih =>
    obtain ⟨k, e⟩ := p
    simp only [Memory.write]
    split
    · simp [Memory.read, eq_comm]
    · split
      · subst_vars
        simp only [Memory.read]
        split <;> simp_all [eq_comm]
      · simp only [Memory.read, ih]
        split <;> split <;> simp_all

@[simp] theorem Memory.read_write_same (m : Memory) (a : Nat) (x : Entry) :
    (m.write a x).read a = some x := by
  simp [Memory.read_write]

theorem Memory.read_write_ne (m : Memory) (a b : Nat) (x : Entry) (h : b ≠ a) :
    (m.write a x).read b = m.read b := by
  simp [Memory.read_write, h]

/-! ### The canonical form -/

theorem Memory.risingFrom_mono {n k : Nat} {m : Memory} (h : m.risingFrom n = true) (hk : k ≤ n) :
    m.risingFrom k = true := by
  cases m with
  | nil => rfl
  | cons p m =>
    simp only [Memory.risingFrom, Bool.and_eq_true, decide_eq_true_eq] at h ⊢
    exact ⟨Nat.le_trans hk h.1, h.2⟩

theorem Memory.read_below {n : Nat} {m : Memory} (h : m.risingFrom n = true) {a : Nat} (ha : a < n) :
    m.read a = none := by
  induction m generalizing n with
  | nil => rfl
  | cons p m ih =>
    obtain ⟨k, e⟩ := p
    simp only [Memory.risingFrom, Bool.and_eq_true, decide_eq_true_eq] at h
    have hk : k ≠ a := by omega
    simp only [Memory.read, hk, if_false]
    exact ih h.2 (by omega)

theorem Memory.risingFrom_write {n : Nat} {m : Memory} (h : m.risingFrom n = true) {a : Nat}
    (ha : n ≤ a) (x : Entry) : (m.write a x).risingFrom n = true := by
  induction m generalizing n with
  | nil => simp [Memory.write, Memory.risingFrom, ha]
  | cons p m ih =>
    obtain ⟨k, e⟩ := p
    simp only [Memory.risingFrom, Bool.and_eq_true, decide_eq_true_eq] at h
    simp only [Memory.write]
    split
    · simp [Memory.risingFrom, ha, h.2]
      omega
    · split
      · simp_all [Memory.risingFrom]
      · simp only [Memory.risingFrom, Bool.and_eq_true, decide_eq_true_eq]
        exact ⟨h.1, ih h.2 (by omega)⟩

theorem Memory.risingFrom_erase {n : Nat} {m : Memory} (h : m.risingFrom n = true) (a : Nat) :
    (m.erase a).risingFrom n = true := by
  induction m generalizing n with
  | nil => rfl
  | cons p m ih =>
    obtain ⟨k, e⟩ := p
    simp only [Memory.risingFrom, Bool.and_eq_true, decide_eq_true_eq] at h
    simp only [Memory.erase]
    split
    · exact Memory.risingFrom_mono h.2 (by omega)
    · simp only [Memory.risingFrom, Bool.and_eq_true, decide_eq_true_eq]
      exact ⟨h.1, ih h.2⟩

theorem Memory.wf_write {m : Memory} (h : m.wf = true) (a : Nat) (x : Entry) :
    (m.write a x).wf = true :=
  Memory.risingFrom_write h (Nat.zero_le a) x

theorem Memory.wf_erase {m : Memory} (h : m.wf = true) (a : Nat) : (m.erase a).wf = true :=
  Memory.risingFrom_erase h a

theorem Memory.read_erase {m : Memory} (h : m.wf = true) (a b : Nat) :
    (m.erase a).read b = if b = a then none else m.read b := by
  have key : ∀ n, m.risingFrom n = true →
      (m.erase a).read b = if b = a then none else m.read b := by
    clear h
    induction m with
    | nil => intro n _; simp [Memory.erase, Memory.read]
    | cons p m ih =>
      obtain ⟨k, e⟩ := p
      intro n h
      simp only [Memory.risingFrom, Bool.and_eq_true, decide_eq_true_eq] at h
      simp only [Memory.erase]
      split
      · subst_vars
        split
        · subst_vars
          exact Memory.read_below h.2 (Nat.lt_succ_self _)
        · simp only [Memory.read]
          split <;> simp_all
      · simp only [Memory.read, ih _ h.2]
        split <;> split <;> simp_all
  exact key 0 h

@[simp] theorem Memory.read_nil (a : Nat) : Memory.read [] a = none := rfl

@[simp] theorem Memory.wf_nil : Memory.wf [] = true := rfl

/-! ### Sizes -/

theorem Memory.length_write_occupied {m : Memory} (h : m.wf = true) {a : Nat}
    (ha : m.read a ≠ none) (x : Entry) : (m.write a x).length = m.length := by
  have key : ∀ n, m.risingFrom n = true → (m.write a x).length = m.length := by
    clear h
    induction m with
    | nil => simp at ha
    | cons p m ih =>
      obtain ⟨k, e⟩ := p
      intro n h
      simp only [Memory.risingFrom, Bool.and_eq_true, decide_eq_true_eq] at h
      simp only [Memory.write]
      split
      · exfalso
        apply ha
        have hk : k ≠ a := by omega
        simp only [Memory.read, hk, if_false]
        exact Memory.read_below h.2 (by omega)
      · split
        · rfl
        · rename_i hk
          simp only [Memory.read, hk, if_false] at ha
          simp [ih ha _ h.2]
  exact key 0 h

theorem Memory.length_write_free {m : Memory} {a : Nat} (ha : m.read a = none) (x : Entry) :
    (m.write a x).length = m.length + 1 := by
  induction m with
  | nil => rfl
  | cons p m ih =>
    obtain ⟨k, e⟩ := p
    simp only [Memory.write]
    split
    · rfl
    · split
      · subst_vars
        simp [Memory.read] at ha
      · rename_i hk
        simp only [Memory.read, hk, if_false] at ha
        simp [ih ha]

theorem Memory.length_erase_occupied {m : Memory} {a : Nat} (ha : m.read a ≠ none) :
    (m.erase a).length + 1 = m.length := by
  induction m with
  | nil => simp at ha
  | cons p m ih =>
    obtain ⟨k, e⟩ := p
    simp only [Memory.erase]
    split
    · rfl
    · rename_i hk
      simp only [Memory.read, hk, if_false] at ha
      simp [ih ha]

theorem Memory.erase_free {m : Memory} {a : Nat} (ha : m.read a = none) : m.erase a = m := by
  induction m with
  | nil => rfl
  | cons p m ih =>
    obtain ⟨k, e⟩ := p
    simp only [Memory.erase]
    split
    · subst_vars
      simp [Memory.read] at ha
    · rename_i hk
      simp only [Memory.read, hk, if_false] at ha
      rw [ih ha]

/-! ### The lowest free slot (R59) -/

theorem Memory.le_lowestFree (m : Memory) (n : Nat) : n ≤ m.lowestFree n := by
  induction m generalizing n with
  | nil => exact Nat.le_refl n
  | cons p m ih =>
    obtain ⟨k, e⟩ := p
    simp only [Memory.lowestFree]
    split
    · exact Nat.le_trans (Nat.le_succ n) (ih (n + 1))
    · split
      · exact ih n
      · exact Nat.le_refl n

/-- The slot allocated is FREE, and every slot between the bound and it is occupied. -/
theorem Memory.lowestFree_spec {m : Memory} (h : m.wf = true) (n : Nat) :
    m.read (m.lowestFree n) = none ∧
      ∀ a, n ≤ a → a < m.lowestFree n → m.read a ≠ none := by
  have key : ∀ b n, m.risingFrom b = true → m.read (m.lowestFree n) = none ∧
      ∀ a, n ≤ a → a < m.lowestFree n → m.read a ≠ none := by
    clear h n
    induction m with
    | nil =>
      intro b n _
      exact ⟨rfl, fun a h1 h2 => absurd h2 (Nat.not_lt.mpr h1)⟩
    | cons p m ih =>
      obtain ⟨k, e⟩ := p
      intro b n h
      simp only [Memory.risingFrom, Bool.and_eq_true, decide_eq_true_eq] at h
      simp only [Memory.lowestFree]
      split
      · rename_i hkn
        obtain ⟨h1, h2⟩ := ih (k + 1) (n + 1) h.2
        have hle := Memory.le_lowestFree m (n + 1)
        refine ⟨?_, ?_⟩
        · have hk : k ≠ Memory.lowestFree m (n + 1) := by omega
          simpa only [Memory.read, hk, if_false] using h1
        · intro a ha hb
          by_cases hk : k = a
          · simp [Memory.read, hk]
          · simpa only [Memory.read, hk, if_false] using h2 a (by omega) hb
      · split
        · rename_i hk
          obtain ⟨h1, h2⟩ := ih (k + 1) n h.2
          have hle := Memory.le_lowestFree m n
          refine ⟨?_, ?_⟩
          · have hk : k ≠ Memory.lowestFree m n := by omega
            simpa only [Memory.read, hk, if_false] using h1
          · intro a ha hb
            have hk : k ≠ a := by omega
            simpa only [Memory.read, hk, if_false] using h2 a ha hb
        · rename_i h1 h2
          refine ⟨?_, fun a h3 h4 => absurd h4 (Nat.not_lt.mpr h3)⟩
          have hk : k ≠ n := by omega
          simp only [Memory.read, hk, if_false]
          exact Memory.read_below h.2 (by omega)
  exact key 0 n h

/-! ### The lookups (R58, R69) -/

/-- What a region in canonical form lists is what it reads. -/
theorem Memory.mem_iff_read {m : Memory} (h : m.wf = true) (a : Nat) (x : Entry) :
    (a, x) ∈ m ↔ m.read a = some x := by
  have key : ∀ n, m.risingFrom n = true → ((a, x) ∈ m ↔ m.read a = some x) := by
    clear h
    induction m with
    | nil => simp [Memory.read]
    | cons p m ih =>
      obtain ⟨k, y⟩ := p
      intro n h
      simp only [Memory.risingFrom, Bool.and_eq_true, decide_eq_true_eq] at h
      simp only [Memory.read, List.mem_cons, Prod.mk.injEq, ih _ h.2]
      split
      · rename_i hk
        subst hk
        simp [Memory.read_below h.2 (Nat.lt_succ_self k), eq_comm]
      · rename_i hk
        simp [Ne.symm hk]
  exact key 0 h

theorem stampsVisible_iff (added : Nat) (removed : Option Nat) (v : Nat) :
    stampsVisible added removed v = true ↔ added ≤ v ∧ ∀ r, removed = some r → v < r := by
  cases removed <;> simp [stampsVisible]

/-- The entry found is a visible one of the token, at its slot. -/
theorem Memory.findToken_some {m : Memory} (h : m.wf = true) {s token a : Nat} {e : BlockEntry}
    (hf : m.findToken s token = some (a, e)) :
    m.read a = some (.block e) ∧ e.token = token ∧ stampsVisible e.added e.removed s = true := by
  obtain ⟨⟨c, x⟩, hx, hy⟩ := List.exists_of_findSome?_eq_some hf
  rcases x with b | _ | _ <;> simp at hy
  obtain ⟨⟨h1, h2⟩, rfl, rfl⟩ := hy
  exact ⟨(Memory.mem_iff_read h _ _).1 hx, h1, h2⟩

/-- Where none is found, no entry of the token is visible. -/
theorem Memory.findToken_none {m : Memory} (h : m.wf = true) {s token a : Nat} {e : BlockEntry}
    (hf : m.findToken s token = none) (hr : m.read a = some (.block e)) (ht : e.token = token) :
    stampsVisible e.added e.removed s = false := by
  have := List.findSome?_eq_none_iff.1 hf (a, .block e) ((Memory.mem_iff_read h _ _).2 hr)
  simpa [ht] using this

/-- A code is found where a head visible in S has it. -/
theorem Memory.hasCode_iff {m : Memory} (h : m.wf = true) (s code : Nat) :
    m.hasCode s code = true ↔ ∃ a e, m.read a = some (.head e) ∧ e.code = code
      ∧ e.added ≤ s ∧ ∀ r, e.removed = some r → s < r := by
  simp only [Memory.hasCode, List.any_eq_true]
  constructor
  · rintro ⟨⟨a, x⟩, hx, hy⟩
    rcases x with _ | b | _ <;> simp at hy
    exact ⟨a, b, (Memory.mem_iff_read h _ _).1 hx, hy.1, (stampsVisible_iff _ _ _).1 hy.2⟩
  · rintro ⟨a, b, h1, h2, h3⟩
    exact ⟨(a, .head b), (Memory.mem_iff_read h _ _).2 h1, by simp [h2, (stampsVisible_iff _ _ _).2 h3]⟩

/-! ### Every memory operation keeps the canonical form -/

theorem Memory.wf_freeEntry {m : Memory} (h : m.wf = true) (a : Nat) : (m.freeEntry a).wf = true := by
  simp only [Memory.freeEntry]
  repeat (any_goals split)
  all_goals first
    | exact Memory.wf_erase (Memory.wf_erase h _) _
    | exact Memory.wf_erase h _

theorem Memory.wf_sweepSlot {m : Memory} (h : m.wf = true) (k : SweepKind) (g : List Nat) (a : Nat) :
    (sweepSlot k g m a).wf = true := by
  simp only [sweepSlot]
  repeat (any_goals split)
  all_goals first
    | exact h
    | exact Memory.wf_write h _ _
    | exact Memory.wf_freeEntry h _

theorem Memory.wf_addBlock {m : Memory} (h : m.wf = true) (s token : Nat) (p : Fin 8) :
    (m.addBlock s token p).wf = true :=
  Memory.wf_write h _ _

theorem Memory.wf_addRecord {m : Memory} (h : m.wf = true) (s : Nat) (r : ProductRecord) :
    (m.addRecord s r).wf = true := by
  simp only [Memory.addRecord]
  split
  · exact Memory.wf_write h _ _
  · exact Memory.wf_write (Memory.wf_write h _ _) _ _

theorem applyBlockItem_wf {m m' : Memory} (h : m.wf = true) {s free : Nat} {image : Bool}
    {i : BlockItem} {c : DigestChange} (ho : applyBlockItem s image free m i = .applied m' c) :
    m'.wf = true := by
  simp only [applyBlockItem, addItem, dropItem] at ho
  repeat' split at ho
  all_goals simp_all only [ItemOutcome.applied.injEq, reduceCtorEq]
  all_goals
    obtain ⟨rfl, -⟩ := ho
    first
      | exact Memory.wf_addBlock h _ _ _
      | exact Memory.wf_addBlock (Memory.wf_write h _ _) _ _ _
      | exact Memory.wf_write h _ _
      | exact Memory.wf_erase h _

theorem applyRecord_wf {m m' : Memory} (h : m.wf = true) {s free : Nat} {r : ProductRecord}
    {c : DigestChange} (ho : applyRecord s free m r = .applied m' c) : m'.wf = true := by
  simp only [applyRecord] at ho
  repeat' split at ho
  all_goals simp_all only [ItemOutcome.applied.injEq, reduceCtorEq]
  obtain ⟨rfl, -⟩ := ho
  exact Memory.wf_addRecord h _ _

theorem reset_regions_wf (l : Lane) : (State.reset.region l).wf = true := by
  cases l <;> rfl

end Sys2Proof.Machine
end

