-- ==== Sys2Proof/Laws/Records.lean ====
section
/-! SUPPORT. What the shared operations do to one validator record. -/

namespace Sys2Proof.Machine

theorem State.validator_of_records {s t : State} (h : t.scan.records = s.scan.records)
    (pos : Fin 16) : t.validator pos = s.validator pos := by
  simp only [State.validator, h]

theorem State.validator_setValidator (s : State) (p q : Fin 16) (v : Validator) :
    (s.setValidator p v).validator q = if q = p then v else s.validator q := by
  simp only [State.validator, State.setValidator]
  by_cases h : q = p
  · subst h
    simp
  · have hne : p.val ≠ q.val := fun e => h (Fin.ext e.symm)
    simp only [h, if_false]
    exact Vector.getElem_set_ne _ _ hne

@[simp] theorem State.validator_rise (s : State) (f : EventFlag) (c : AlertContext) (q : Fin 16) :
    (s.rise f c).validator q = s.validator q := by
  simp [State.validator]

@[simp] theorem State.validator_settleScan (s : State) (q : Fin 16) :
    s.settleScan.validator q = s.validator q := by
  simp [State.validator]

@[simp] theorem State.validator_wakeScan (s : State) (q : Fin 16) :
    s.wakeScan.validator q = s.validator q := by
  simp [State.validator]

@[simp] theorem State.validator_answer (s : State) (h : CommandHead) (r : CommandResult)
    (b : List Byte) (q : Fin 16) : (s.answer h r b).validator q = s.validator q := by
  simp [State.validator]

/-- An abandonment empties the sub-records it names and leaves every other record (R160). -/
theorem State.validator_abandonWhere (s : State) (l : Lane) (test : Fin 16 → Delivery → Bool)
    (q : Fin 16) :
    (s.abandonWhere l test).validator q =
      if s.abandons l test q then
        (s.validator q).setLane l { (s.validator q).lane l with delivery := Delivery.idleWith 0 }
      else s.validator q := by
  have h : (s.abandonWhere l test).scan.records =
      (s.eachValidator fun pos v =>
        if s.abandons l test pos then
          v.setLane l { v.lane l with delivery := Delivery.idleWith 0 } else v).scan.records := by
    simp only [State.abandonWhere]
    repeat (any_goals split)
    all_goals rfl
  rw [State.validator_of_records h, State.validator_eachValidator]

/-- With nothing on the line an abandonment leaves the bus alone. -/
theorem State.abandonWhere_idle {s : State} (h : s.bus.link = .idle) (l : Lane)
    (test : Fin 16 → Delivery → Bool) : (s.abandonWhere l test).bus = s.bus := by
  simp only [State.abandonWhere, h]
  repeat (any_goals split)
  all_goals simp [State.dropBuild, State.setLink, Link.mapAddressed, ← h]

/-- Beginning a tally walk changes no record, no lane and no round number. -/
@[simp] theorem State.validator_beginWalk (s : State) (p q : Fin 16) :
    (s.beginWalk p).validator q = s.validator q := by
  unfold State.beginWalk
  repeat (any_goals split)
  all_goals rfl

@[simp] theorem State.beginWalk_roundNo (s : State) (p : Fin 16) :
    (s.beginWalk p).scan.roundNo = s.scan.roundNo := by
  unfold State.beginWalk
  repeat (any_goals split)
  all_goals rfl

theorem Validator.goodPresence_lanes (v : Validator) : v.goodPresence.lanes = v.lanes := by
  unfold Validator.goodPresence
  repeat (any_goals split)
  all_goals rfl

end Sys2Proof.Machine
end

