-- ==== Sys2Proof/Laws/Reports.lean ====
section
/-! SUPPORT. What the lane reports do to the validator records, the exchange on the line, the tally table
and the broadcast list (section 9.4). -/

namespace Sys2Proof.Machine

/-! ### One record -/

@[simp] theorem Validator.lane_setLane (v : Validator) (l : Lane) (x : ValidatorLane) :
    (v.setLane l x).lane l = x := by
  cases l <;> rfl

@[simp] theorem Validator.setLane_setLane (v : Validator) (l : Lane) (x y : ValidatorLane) :
    (v.setLane l x).setLane l y = v.setLane l y := by
  cases l <;> rfl

@[simp] theorem Validator.setLane_lane (v : Validator) (l : Lane) : v.setLane l (v.lane l) = v := by
  cases l <;> rfl

@[simp] theorem Validator.setLane_presence (v : Validator) (l : Lane) (x : ValidatorLane) :
    (v.setLane l x).presence = v.presence := rfl

theorem State.validator_eachLaneRecord (s : State) (l : Lane) (f : ValidatorLane → ValidatorLane)
    (q : Fin 16) :
    (s.eachLaneRecord l f).validator q =
      if (s.validator q).presence = .vacant then s.validator q
      else (s.validator q).setLane l (f ((s.validator q).lane l)) := by
  simp only [State.eachLaneRecord, State.validator_eachValidator]

@[simp] theorem State.validator_checkWalk (s : State) (q : Fin 16) :
    s.checkWalk.validator q = s.validator q := by
  simp [State.validator]

@[simp] theorem State.validator_onWaitingSwitches (s : State) (f : List Switch → List Switch)
    (q : Fin 16) : (s.onWaitingSwitches f).validator q = s.validator q := by
  simp [State.validator]

theorem Delivery.confirmed_eq (d : Delivery) :
    d.confirmed = if d.state = .idle then d.target else 0 := by
  unfold Delivery.confirmed
  split <;> simp_all

/-! ### The stale test (R165) -/

theorem staleCopy_iff {r : LaneRec} (h : r.state ≠ .ready) (y : ValidatorLane) :
    staleCopy r y = true ↔ y.staleAgainst r.active := by
  have hr : r.readyWith y.pending = false := by simp [LaneRec.readyWith, h]
  simp only [staleCopy, ValidatorLane.staleAgainst, hr, Delivery.confirmed_eq]
  by_cases hs : y.delivery.state = .idle
  · by_cases ha : y.pending = r.active <;> simp [hs, ha]
  · simp only [hs, if_false]
    by_cases hp : y.pending = 0 <;> simp [hp]

/-- What the stale test does in a lane that is not READY. -/
theorem staleTest_spec {r : LaneRec} (h : r.state ≠ .ready) (y : ValidatorLane) :
    (y.staleAgainst r.active → staleTest r y = { y with dropOwed := y.pending })
    ∧ (¬ y.staleAgainst r.active → staleTest r y = y) := by
  rw [← staleCopy_iff h]
  constructor <;> intro hs <;> simp [staleTest, hs]

theorem staleAgainst_congr {x y : ValidatorLane} (hp : x.pending = y.pending)
    (hd : x.delivery = y.delivery) (a : Nat) : x.staleAgainst a ↔ y.staleAgainst a := by
  simp only [ValidatorLane.staleAgainst, hp, hd]

/-! ### The reports on one record -/

/-- The marks cleared and the stale test made, with the deliveries that end abandoned (R163, R170,
R171). -/
theorem isWhenMoved_of {r : LaneRec} (h : r.state ≠ .ready) (y : ValidatorLane) (ends : Nat → Prop)
    [DecidablePred ends] :
    (staleTest r (ValidatorLane.clearMarks
      (if y.delivery.state ≠ .idle ∧ ends y.delivery.target then
        { y with delivery := Delivery.idleWith 0 } else y))).isWhenMoved y r.active ends := by
  generalize hz : ValidatorLane.clearMarks (if y.delivery.state ≠ .idle ∧ ends y.delivery.target then
        { y with delivery := Delivery.idleWith 0 } else y) = z
  have h1 : z.held = y.held ∧ z.pending = y.pending ∧ z.ready = y.ready ∧ z.faulty = 0 ∧ z.unfit = 0
      ∧ z.dropOwed = y.dropOwed := by
    subst hz
    simp only [ValidatorLane.clearMarks]
    split <;> simp
  have h2 : (y.delivery.state ≠ .idle → ends y.delivery.target → z.delivery = Delivery.idleWith 0)
      ∧ (¬(y.delivery.state ≠ .idle ∧ ends y.delivery.target) → z.delivery = y.delivery) := by
    subst hz
    constructor
    · intro hb he
      simp [ValidatorLane.clearMarks, hb, he]
    · intro hn
      simp only [ValidatorLane.clearMarks, if_neg hn]
  obtain ⟨hh, hp, hr, hf, hu, ho⟩ := h1
  by_cases hs : z.staleAgainst r.active
  · rw [(staleTest_spec h z).1 hs]
    refine ⟨hh, hp, hr, h2.1, h2.2, hf, hu, fun _ => hp, fun hn => ?_⟩
    exact absurd ((staleAgainst_congr rfl rfl _).2 hs) hn
  · rw [(staleTest_spec h z).2 hs]
    exact ⟨hh, hp, hr, h2.1, h2.2, hf, hu, fun hn => absurd hn hs, fun _ => ho⟩

/-- The report that S is gone as one update, before the stale test (R164). -/
theorem goneIn_eq (r : LaneRec) (g : Nat) (w : ValidatorLane) :
    goneIn r g w = staleTest r
      { w with
        delivery := { w.delivery with
          target := if w.delivery.state = .idle ∧ w.delivery.target = g then 0 else w.delivery.target },
        faulty := if w.faulty = g then 0 else w.faulty,
        unfit := if w.unfit = g then 0 else w.unfit } := by
  simp only [goneIn]
  congr 1
  repeat (any_goals split)
  all_goals simp_all

/-- What the report that S is gone does to a record's part of a lane that is not READY (R164). -/
theorem isWhenGone_of {r : LaneRec} (h : r.state ≠ .ready) (g : Nat) (y : ValidatorLane) :
    (goneIn r g
      (if y.delivery.state ≠ .idle ∧ y.delivery.target = g then
        { owedForDelivery g y with delivery := Delivery.idleWith 0 } else owedForDelivery g y)
      ).isWhenGone y r.active g := by
  rw [goneIn_eq]
  generalize hz : ({ (if y.delivery.state ≠ .idle ∧ y.delivery.target = g then
      ({ owedForDelivery g y with delivery := Delivery.idleWith 0 } : ValidatorLane)
      else owedForDelivery g y) with
    delivery := _, faulty := _, unfit := _ } : ValidatorLane) = z
  have key : z.held = y.held ∧ z.pending = y.pending ∧ z.ready = y.ready
      ∧ (y.delivery.state ≠ .idle → y.delivery.target = g → z.delivery = Delivery.idleWith 0)
      ∧ (y.delivery.state ≠ .idle → y.delivery.target ≠ g → z.delivery = y.delivery)
      ∧ (¬ y.delivery.state ≠ .idle → z.delivery =
          { y.delivery with target := if y.delivery.target = g then 0 else y.delivery.target })
      ∧ z.faulty = (if y.faulty = g then 0 else y.faulty)
      ∧ z.unfit = (if y.unfit = g then 0 else y.unfit)
      ∧ (y.delivery.state ≠ .idle → y.delivery.target = g → z.dropOwed = g)
      ∧ (¬(y.delivery.state ≠ .idle ∧ y.delivery.target = g) → z.dropOwed = y.dropOwed) := by
    subst hz
    by_cases hb : y.delivery.state = .idle <;> by_cases ht : y.delivery.target = g <;>
      simp [hb, ht, owedForDelivery, Delivery.idleWith]
  obtain ⟨h1, h2, h3, h4, h5, h6, h7, h8, h9, h10⟩ := key
  by_cases hs : z.staleAgainst r.active
  · rw [(staleTest_spec h z).1 hs]
    have hx := (staleAgainst_congr (x := { z with dropOwed := z.pending }) rfl rfl r.active).2 hs
    exact ⟨h1, h2, h3, h4, h5, h6, h7, h8, fun _ => h2, fun hn => absurd hx hn,
      fun hn => absurd hx hn⟩
  · rw [(staleTest_spec h z).2 hs]
    exact ⟨h1, h2, h3, h4, h5, h6, h7, h8, fun hn => absurd hn hs, fun _ => h9, fun _ => h10⟩

/-! ### The reports on every record -/

theorem State.validator_abandon_then (s : State) (l : Lane) (test : Fin 16 → Delivery → Bool)
    (f : ValidatorLane → ValidatorLane) (q : Fin 16)
    (hq : (s.validator q).presence ≠ .vacant) :
    ((s.abandonWhere l test).eachLaneRecord l f).validator q =
      (s.validator q).setLane l (f (if ((s.validator q).lane l).delivery.state ≠ .idle
          ∧ test q ((s.validator q).lane l).delivery = true then
        { (s.validator q).lane l with delivery := Delivery.idleWith 0 }
        else (s.validator q).lane l)) := by
  rw [State.validator_eachLaneRecord, State.validator_abandonWhere]
  simp only [State.abandons, Bool.and_eq_true, decide_eq_true_eq]
  split <;> simp [hq]

/-- The report that S is gone on the records of a lane that is not READY (R164). -/
theorem State.reportGone_records (s : State) (l : Lane) (g : Nat) (h : (s.lane l).state ≠ .ready) :
    s.changesLaneRecords (s.reportGone l g) l
      (fun x y => x.isWhenGone y (s.lane l).active g) := by
  intro q hq
  have hv : (s.reportGone l g).validator q = (s.validator q).setLane l
      (goneIn (s.lane l) g
        (if ((s.validator q).lane l).delivery.state ≠ .idle
            ∧ ((s.validator q).lane l).delivery.target = g then
          { owedForDelivery g ((s.validator q).lane l) with delivery := Delivery.idleWith 0 }
        else owedForDelivery g ((s.validator q).lane l))) := by
    have hl : ∀ t : State, (t.abandonWhere l fun _ d => decide (d.target = g)).lane l = t.lane l := by
      intro t; simp [State.lane]
    have ho : (owedForDelivery g ((s.validator q).lane l)).delivery =
        ((s.validator q).lane l).delivery := by
      unfold owedForDelivery; split <;> rfl
    have h1 : ((s.eachLaneRecord l (owedForDelivery g)).validator q) =
        (s.validator q).setLane l (owedForDelivery g ((s.validator q).lane l)) := by
      rw [State.validator_eachLaneRecord, if_neg hq]
    have h2 := State.validator_abandon_then (s.eachLaneRecord l (owedForDelivery g)) l
      (fun _ d => decide (d.target = g)) (goneIn (s.lane l) g) q (by rw [h1]; exact hq)
    rw [h1] at h2
    simp only [Validator.lane_setLane, Validator.setLane_setLane, ho, decide_eq_true_eq] at h2
    rw [← h2]
    cases l <;> simp [State.reportGone, State.lane, State.validator]
  refine ⟨?_, ?_⟩
  · rw [hv, Validator.lane_setLane]
    exact isWhenGone_of h g _
  · rw [hv, Validator.lane_setLane]

/-- An abandonment, the marks cleared and the stale test, on the records of a lane that is not READY. -/
theorem State.movedRecords (s t : State) (l : Lane) (r : LaneRec) (h : r.state ≠ .ready)
    (test : Nat → Bool)
    (ht : ∀ q, t.validator q = ((s.abandonWhere l fun _ d => test d.target).eachLaneRecord l
      fun v => staleTest r v.clearMarks).validator q) :
    s.changesLaneRecords t l (fun x y => x.isWhenMoved y r.active (fun g => test g = true)) := by
  intro q hq
  have hv := State.validator_abandon_then s l (fun _ d => test d.target)
    (fun v => staleTest r v.clearMarks) q hq
  refine ⟨?_, ?_⟩
  · rw [ht, hv, Validator.lane_setLane]
    exact isWhenMoved_of h _ (fun g => test g = true)
  · rw [ht, hv, Validator.lane_setLane]

/-! ### The exchange on the line -/

theorem Link.addressed_none_map {k : Link} (h : k.addressed = none) (f : Addressed → Addressed) :
    k.mapAddressed f = k := by
  rcases k with _ | (x | w) | x | x | x | w | _ <;> first | rfl | simp [Link.addressed] at h

theorem Link.addressed_map {k : Link} {x : Addressed} (h : k.addressed = some x)
    (f : Addressed → Addressed) :
    (k.mapAddressed f).addressed = some (f x) ∧ (f x = x → k.mapAddressed f = k) := by
  rcases k with _ | (y | w) | y | y | y | w | _ <;> simp [Link.addressed] at h <;> subst h <;>
    simp [Link.mapAddressed, Link.addressed]

theorem State.abandonWhere_link (s : State) (l : Lane) (test : Fin 16 → Delivery → Bool) :
    (s.abandonWhere l test).bus.link = s.bus.link.mapAddressed fun x =>
      if x.frame.deliveryLane = some l ∧ s.abandons l test x.pos then { x with deliveryGone := true }
      else x := by
  simp only [State.abandonWhere]
  repeat (any_goals split)
  all_goals simp

/-- Of the bus, an abandonment touches the link alone. -/
theorem State.abandonWhere_bus (s : State) (l : Lane) (test : Fin 16 → Delivery → Bool) :
    (s.abandonWhere l test).bus = { s.bus with link := (s.abandonWhere l test).bus.link } := by
  simp only [State.abandonWhere, State.dropBuild]
  repeat (any_goals split)
  all_goals simp

theorem Link.mapAddressed_comp (k : Link) (f g : Addressed → Addressed) :
    (k.mapAddressed f).mapAddressed g = k.mapAddressed (g ∘ f) := by
  rcases k with _ | (x | w) | x | x | x | w | _ <;> rfl

/-- The deliveries of some positions abandoned on both lanes: the exchange of one of them is marked
(R136, R138, R161). -/
theorem State.abandonBoth_link (s : State) (test : Fin 16 → Bool) :
    ((s.abandonWhere .b fun pos _ => test pos).abandonWhere .p fun pos _ => test pos).bus.link =
      s.bus.link.mapAddressed fun x =>
        if ∃ l, x.frame.deliveryLane = some l ∧ ((s.validator x.pos).lane l).delivery.state ≠ .idle
          ∧ test x.pos = true
        then { x with deliveryGone := true } else x := by
  have hv : ∀ pos, ((s.abandonWhere .b fun pos _ => test pos).validator pos).lane .p =
      (s.validator pos).lane .p := by
    intro pos
    rw [State.validator_abandonWhere]
    split <;> rfl
  rw [State.abandonWhere_link, State.abandonWhere_link, Link.mapAddressed_comp]
  simp only [State.abandons, hv]
  congr 1
  funext x
  simp only [Function.comp]
  have frames : x.frame.deliveryLane = none ∨ x.frame.deliveryLane = some .b
      ∨ x.frame.deliveryLane = some .p := by
    rcases x.frame.deliveryLane with _ | (_ | _) <;> simp
  rcases frames with hx | hx | hx
  · simp [hx]
  · by_cases h : ((s.validator x.pos).lane .b).delivery.state ≠ .idle ∧ test x.pos = true <;>
      simp [hx, h]
  · simp [hx]

/-- An abandonment marks the exchange on the line of a delivery that ends (R160, R161). -/
theorem State.abandonWhere_marks (s t : State) (l : Lane) (test : Nat → Bool)
    (ht : t.bus.link = (s.abandonWhere l fun _ d => test d.target).bus.link) :
    s.marksExchange t l (fun g => test g = true) := by
  rw [State.abandonWhere_link] at ht
  refine ⟨fun h => by rw [ht, Link.addressed_none_map h], fun x hx => ?_⟩
  have ha := Link.addressed_map hx (fun x =>
    if x.frame.deliveryLane = some l ∧ s.abandons l (fun _ d => test d.target) x.pos then
      { x with deliveryGone := true } else x)
  simp only [State.abandons, Bool.and_eq_true, decide_eq_true_eq] at ha ht
  refine ⟨fun he => ?_, fun he => ?_⟩
  · rw [ht, ha.1, if_pos he]
  · rw [ht]
    exact ha.2 (if_neg he)

/-! ### The tally table and the broadcast list -/

@[simp] theorem State.beginRound_lists (s : State) (n : Nat) :
    (s.beginRound n).scan.tally = s.scan.tally
    ∧ (s.beginRound n).scan.broadcast = s.scan.broadcast := by
  simp only [State.beginRound, State.pause]
  split <;> simp

@[simp] theorem State.pause_nextVisit (s : State) : s.pause.nextVisit = s.nextVisit := rfl

/-- A round of a number begins at position 1, and ends as it begins where nobody is to be visited (R145,
R147). -/
theorem State.beginRound_spec (s : State) (n : Nat) :
    (s.beginRound n).scan.roundNo = n ∧ (s.beginRound n).scan.nextPos = 0
    ∧ (s.beginRound n).scan.exchanged = false ∧ (s.beginRound n).scan.reported = false
    ∧ (s.beginRound n).scan.phase =
      (if (s.beginRound n).nextVisit.isSome then .visiting else .paused (quietMs s.settings.quiet)) := by
  generalize ht : s.beginRound n = t
  simp only [State.beginRound] at ht
  split at ht
  · next h => subst ht; exact ⟨rfl, rfl, rfl, rfl, by rw [if_pos h]⟩
  · next h => subst ht; exact ⟨rfl, rfl, rfl, rfl, (if_neg h).symm⟩

@[simp] theorem State.wakeScan_lists (s : State) :
    s.wakeScan.scan.tally = s.scan.tally ∧ s.wakeScan.scan.broadcast = s.scan.broadcast := by
  simp only [State.wakeScan, State.nextRound, State.noteReport]
  repeat (any_goals split)
  all_goals simp

@[simp] theorem State.checkWalk_lists (s : State) :
    s.checkWalk.scan.tally = s.scan.tally ∧ s.checkWalk.scan.broadcast = s.scan.broadcast := by
  simp only [State.checkWalk]
  repeat (any_goals split)
  all_goals simp

@[simp] theorem State.abandonWhere_lists (s : State) (l : Lane) (test : Fin 16 → Delivery → Bool) :
    (s.abandonWhere l test).scan.tally = s.scan.tally
    ∧ (s.abandonWhere l test).scan.broadcast = s.scan.broadcast := by
  simp only [State.abandonWhere, State.dropBuild]
  repeat (any_goals split)
  all_goals simp

@[simp] theorem State.eachLaneRecord_lists (s : State) (l : Lane) (f : ValidatorLane → ValidatorLane) :
    (s.eachLaneRecord l f).scan.tally = s.scan.tally
    ∧ (s.eachLaneRecord l f).scan.broadcast = s.scan.broadcast := by
  simp [State.eachLaneRecord]

theorem State.onWaitingSwitches_broadcast (s : State) (f : List Switch → List Switch) :
    (s.bus.link.broadcastOnLine = none →
      (s.onWaitingSwitches f).scan.broadcast = f s.scan.broadcast)
    ∧ ∀ w x xs, s.bus.link.broadcastOnLine = some w → s.scan.broadcast = x :: xs →
      (s.onWaitingSwitches f).scan.broadcast = x :: f xs := by
  refine ⟨fun h => by simp [State.onWaitingSwitches, h], fun w x xs h hx => ?_⟩
  simp [State.onWaitingSwitches, h, hx]

/-! ### The BATCH being built, the walk and the reads -/

@[simp] theorem State.checkWalk_round (s : State) :
    s.checkWalk.scan.phase = s.scan.phase ∧ s.checkWalk.scan.roundNo = s.scan.roundNo := by
  simp only [State.checkWalk]
  repeat (any_goals split)
  all_goals simp

@[simp] theorem State.abandonWhere_round (s : State) (l : Lane) (test : Fin 16 → Delivery → Bool) :
    (s.abandonWhere l test).scan.phase = s.scan.phase
    ∧ (s.abandonWhere l test).scan.roundNo = s.scan.roundNo := by
  simp only [State.abandonWhere, State.dropBuild]
  repeat (any_goals split)
  all_goals simp

@[simp] theorem State.eachLaneRecord_round (s : State) (l : Lane) (f : ValidatorLane → ValidatorLane) :
    (s.eachLaneRecord l f).scan.phase = s.scan.phase
    ∧ (s.eachLaneRecord l f).scan.roundNo = s.scan.roundNo := by
  simp [State.eachLaneRecord]

/-- What an abandonment does to the BATCH being built and to the reads (R61, R160). -/
theorem State.abandonWhere_reading (s : State) (l : Lane) (test : Fin 16 → Delivery → Bool) :
    (s.abandonWhere l test).scan.walk = s.scan.walk
    ∧ (∀ b, s.scan.build = some b → b.lane = l → s.abandons l test b.pos = true →
      (s.abandonWhere l test).scan.build = none ∧ (s.abandonWhere l test).scan.nextPos = b.pos.val
      ∧ (s.abandonWhere l test).scan.read =
        if s.scan.read = some .batch then s.scan.walk.map fun _ => .tally else s.scan.read)
    ∧ ((∀ b, s.scan.build = some b → ¬(b.lane = l ∧ s.abandons l test b.pos = true)) →
      (s.abandonWhere l test).scan.build = s.scan.build
      ∧ (s.abandonWhere l test).scan.read = s.scan.read
      ∧ (s.abandonWhere l test).scan.nextPos = s.scan.nextPos) := by
  rcases hb : s.scan.build with _ | b
  · simp [State.abandonWhere, hb]
  · by_cases he : b.lane = l ∧ s.abandons l test b.pos = true
    · refine ⟨?_, ?_, fun h => absurd he (h b rfl)⟩
      · simp [State.abandonWhere, hb, he, State.dropBuild]
      · intro b' h1 _ _
        cases h1
        rcases hr : s.scan.read with _ | (_ | _) <;> rcases hw : s.scan.walk with _ | w <;>
          simp [State.abandonWhere, hb, he, State.dropBuild, hr, hw]
    · refine ⟨?_, ?_, fun _ => ?_⟩
      · simp [State.abandonWhere, hb, he]
      · intro b' h1 h2 h3
        cases h1
        exact absurd ⟨h2, h3⟩ he
      · simp [State.abandonWhere, hb, he]

/-- What the walk's test at a lane report does (R153). -/
theorem State.checkWalk_reading (s : State) :
    let p := s.lane .p
    s.checkWalk.scan.build = s.scan.build ∧ s.checkWalk.scan.nextPos = s.scan.nextPos
    ∧ (s.scan.walk = none → s.checkWalk.scan.walk = none ∧ s.checkWalk.scan.read = s.scan.read)
    ∧ ∀ w, s.scan.walk = some w →
      let live : Prop := w.generation = p.active ∨ (p.state = .ready ∧ w.generation = p.stagedGen)
      (live → s.checkWalk.scan.walk = some w ∧ s.checkWalk.scan.read = s.scan.read)
      ∧ (¬ live → s.checkWalk.scan.walk = none ∧ s.checkWalk.scan.read =
        if s.scan.read = some .tally then s.scan.build.map fun _ => .batch else s.scan.read) := by
  have hl : s.lanes.p = s.lane .p := rfl
  rcases hw : s.scan.walk with _ | w
  · simp [State.checkWalk, hw]
  · have hy : (s.lane .p).readyWith w.generation = true ↔
        ((s.lane .p).state = .ready ∧ w.generation = (s.lane .p).stagedGen) := by
      simp only [LaneRec.readyWith, Bool.and_eq_true, decide_eq_true_eq]
      exact and_congr_right fun _ => eq_comm
    by_cases hlive : w.generation = (s.lane .p).active
        ∨ ((s.lane .p).state = .ready ∧ w.generation = (s.lane .p).stagedGen)
    · have hc : s.checkWalk = s := by
        unfold State.checkWalk
        rw [hw]
        exact if_pos (hlive.imp id hy.2)
      rw [hc]
      refine ⟨rfl, rfl, by simp, fun w' h => ?_⟩
      cases h
      exact ⟨fun _ => ⟨hw, rfl⟩, fun hn => absurd hlive hn⟩
    · refine ⟨?_, ?_, by simp, fun w' h => ?_⟩
      · simp only [State.checkWalk, hw, hl, hy, if_neg hlive]
      · simp only [State.checkWalk, hw, hl, hy, if_neg hlive]
      · cases h
        refine ⟨fun hn => absurd hn hlive, fun _ => ?_⟩
        rcases hr : s.scan.read with _ | (_ | _) <;> rcases hb : s.scan.build with _ | b <;>
          simp [State.checkWalk, hw, hl, hy, if_neg hlive, hr, hb]

@[simp] theorem State.beginRound_reading (s : State) (n : Nat) :
    (s.beginRound n).scan.build = s.scan.build ∧ (s.beginRound n).scan.walk = s.scan.walk
    ∧ (s.beginRound n).scan.read = s.scan.read := by
  simp only [State.beginRound, State.pause]
  split <;> simp

@[simp] theorem State.wakeScan_reading (s : State) :
    s.wakeScan.scan.build = s.scan.build ∧ s.wakeScan.scan.walk = s.scan.walk
    ∧ s.wakeScan.scan.read = s.scan.read := by
  simp only [State.wakeScan, State.nextRound, State.noteReport]
  repeat (any_goals split)
  all_goals simp

theorem State.wakeScan_nextPos {s : State} (h : s.scan.phase = .visiting) :
    s.wakeScan.scan.nextPos = s.scan.nextPos := by
  simp [State.wakeScan, h, State.noteReport]

/-- A report on a state whose BATCH goes on: the walk's test (R153, R162). -/
theorem State.keepsWalk_of_check {s u t : State} (hb : u.scan.build = s.scan.build)
    (hw : u.scan.walk = s.scan.walk) (hr : u.scan.read = s.scan.read)
    (htb : t.scan.build = u.checkWalk.scan.build) (htw : t.scan.walk = u.checkWalk.scan.walk)
    (htr : t.scan.read = u.checkWalk.scan.read) (ha : (t.lane .p).active = (u.lane .p).active)
    (hst : (t.lane .p).state = (u.lane .p).state)
    (hg : (t.lane .p).stagedGen = (u.lane .p).stagedGen) :
    s.keepsWalk t ∧ t.scan.build = s.scan.build := by
  obtain ⟨c1, -, c3, c4⟩ := u.checkWalk_reading
  have e : t.scan.build = s.scan.build := by rw [htb, c1, hb]
  refine ⟨?_, e⟩
  rw [hw] at c3 c4
  rw [hr] at c3
  simp only [hr, hb] at c4
  rcases hsw : s.scan.walk with _ | w
  · obtain ⟨d1, d2⟩ := c3 hsw
    simp only [State.keepsWalk, htw, htr, d1, d2, e, hsw, ha, hst, hg]
    refine ⟨by simp, by simp, by simp, ?_, by simp⟩
    intro h1 h2; simp [h1, h2]
  · obtain ⟨d1, d2⟩ := c4 w hsw
    simp only [State.keepsWalk, htw, htr, e, hsw, ha, hst, hg]
    by_cases hl : w.generation = (u.lane .p).active
        ∨ ((u.lane .p).state = .ready ∧ w.generation = (u.lane .p).stagedGen)
    · obtain ⟨f1, f2⟩ := d1 hl
      simp only [f1, f2]
      refine ⟨by simp, ?_, by simp, ?_, ?_⟩
      · intro w' h; cases h; exact ⟨fun _ => trivial, fun h => absurd hl h⟩
      · intro h1 h2; simp [h1, h2]
      · intro h1 _; simp [h1]
    · obtain ⟨f1, f2⟩ := d2 hl
      simp only [f1, f2]
      refine ⟨by simp, ?_, ?_, ?_, ?_⟩
      · intro w' h; cases h; exact ⟨fun h => absurd h hl, fun _ => trivial⟩
      · intro h; simp [h]
      · intro h1 h2; simp [h1, h2]
      · intro h1 _; simp [h1]

/-- An abandonment and the walk's test (R61, R153, R160). -/
theorem State.keepsWalk_of_abandon {s u t : State} {l : Lane} {test : Fin 16 → Delivery → Bool}
    (ub : u.scan.build = (s.abandonWhere l test).scan.build)
    (uw : u.scan.walk = (s.abandonWhere l test).scan.walk)
    (ur : u.scan.read = (s.abandonWhere l test).scan.read)
    (htb : t.scan.build = u.checkWalk.scan.build) (htw : t.scan.walk = u.checkWalk.scan.walk)
    (htr : t.scan.read = u.checkWalk.scan.read) (ha : (t.lane .p).active = (u.lane .p).active)
    (hst : (t.lane .p).state = (u.lane .p).state)
    (hg : (t.lane .p).stagedGen = (u.lane .p).stagedGen) :
    s.keepsWalk t := by
  obtain ⟨a1, a2, a3⟩ := s.abandonWhere_reading l test
  by_cases he : ∃ b, s.scan.build = some b ∧ b.lane = l ∧ s.abandons l test b.pos = true
  · obtain ⟨b, h1, h2, h3⟩ := he
    obtain ⟨b1, -, b3⟩ := a2 b h1 h2 h3
    obtain ⟨c1, -, c3, c4⟩ := u.checkWalk_reading
    rw [b1] at ub
    rw [b3] at ur
    rw [a1] at uw
    have e : t.scan.build = none := by rw [htb, c1, ub]
    rw [uw, ur] at c3
    simp only [uw, ur, ub] at c4
    rcases hsw : s.scan.walk with _ | w
    · obtain ⟨d1, d2⟩ := c3 hsw
      simp only [State.keepsWalk, htw, htr, d1, d2, e, hsw, ha, hst, hg]
      refine ⟨by simp, by simp, ?_, ?_, by simp⟩
      · intro h; simp [h]
      · intro h1 h2; simp [h1]
    · obtain ⟨d1, d2⟩ := c4 w hsw
      simp only [State.keepsWalk, htw, htr, e, hsw, ha, hst, hg]
      by_cases hl : w.generation = (u.lane .p).active
          ∨ ((u.lane .p).state = .ready ∧ w.generation = (u.lane .p).stagedGen)
      · obtain ⟨f1, f2⟩ := d1 hl
        simp only [f1, f2]
        refine ⟨by simp, ?_, ?_, ?_, ?_⟩
        · intro w' h; cases h; exact ⟨fun _ => trivial, fun h => absurd hl h⟩
        · intro h; simp [h]
        · intro h1 h2; simp [h1, hsw]
        · intro h1 _; simp [h1]
      · obtain ⟨f1, f2⟩ := d2 hl
        simp only [f1, f2]
        refine ⟨by simp, ?_, ?_, ?_, ?_⟩
        · intro w' h; cases h; exact ⟨fun h => absurd h hl, fun _ => trivial⟩
        · intro h; simp [h]
        · intro h1 h2; simp [h1, hsw]
        · intro h1 _; simp [h1]
  · have hno : ∀ b, s.scan.build = some b → ¬(b.lane = l ∧ s.abandons l test b.pos = true) :=
      fun b hb h => he ⟨b, hb, h⟩
    obtain ⟨a4, a5, -⟩ := a3 hno
    exact (State.keepsWalk_of_check (ub.trans a4) (uw.trans a1) (ur.trans a5) htb htw htr ha hst hg).1

/-- An abandonment gives up the BATCH being built for a delivery that ends (R61, R160). -/
theorem State.givesUpBuild_of {s t : State} {l : Lane} {test : Nat → Bool}
    (hb : t.scan.build = (s.abandonWhere l fun _ d => test d.target).scan.build)
    (hp : s.scan.phase = .visiting →
      t.scan.nextPos = (s.abandonWhere l fun _ d => test d.target).scan.nextPos) :
    s.givesUpBuild t l (fun g => test g = true) := by
  obtain ⟨-, a2, a3⟩ := s.abandonWhere_reading l fun _ d => test d.target
  refine ⟨fun h => ?_, fun b h => ⟨fun he => ?_, fun he => ?_⟩⟩
  · rw [hb, (a3 fun b hb' => by simp [h] at hb').1, h]
  · obtain ⟨b1, b2, -⟩ := a2 b h he.1 (by simp [State.abandons, he.2.1, he.2.2])
    exact ⟨hb.trans b1, fun hv => (hp hv).trans b2⟩
  · rw [hb, (a3 fun b' hb' hh => ?_).1]
    rw [h] at hb'
    cases hb'
    simp only [State.abandons, Bool.and_eq_true, decide_eq_true_eq] at hh
    exact he ⟨hh.1, hh.2⟩

@[simp] theorem State.eachLaneRecord_reading (s : State) (l : Lane) (f : ValidatorLane → ValidatorLane) :
    (s.eachLaneRecord l f).scan.build = s.scan.build
    ∧ (s.eachLaneRecord l f).scan.walk = s.scan.walk
    ∧ (s.eachLaneRecord l f).scan.read = s.scan.read
    ∧ (s.eachLaneRecord l f).scan.nextPos = s.scan.nextPos := by
  simp [State.eachLaneRecord]

/-- A BATCH given up is told by the records alone. -/
theorem State.givesUpBuild_congr {s s' t t' : State} {l : Lane} {ends : Nat → Prop}
    (h : s'.givesUpBuild t' l ends) (hb : s.scan.build = s'.scan.build)
    (hd : ∀ pos, ((s.validator pos).lane l).delivery = ((s'.validator pos).lane l).delivery)
    (hp : s.scan.phase = s'.scan.phase) (htb : t.scan.build = t'.scan.build)
    (htn : t.scan.nextPos = t'.scan.nextPos) : s.givesUpBuild t l ends := by
  simpa only [State.givesUpBuild, hb, hd, hp, htb, htn] using h

/-- The report that a staging has begun or is READY (R153, R162). -/
theorem State.reportStaging_keeps (s : State) :
    s.keepsWalk s.reportStaging ∧ s.reportStaging.scan.build = s.scan.build :=
  State.keepsWalk_of_check rfl rfl rfl (by simp [State.reportStaging]) (by simp [State.reportStaging])
    (by simp [State.reportStaging]) (by simp [State.reportStaging, State.lane])
    (by simp [State.reportStaging, State.lane]) (by simp [State.reportStaging, State.lane])

/-- What a walk and its reads become looks at the scanner's reading and at lane P alone. -/
theorem State.keepsWalk_congr {s s' t t' : State} (h : s'.keepsWalk t')
    (hs : s.scan.build = s'.scan.build ∧ s.scan.walk = s'.scan.walk ∧ s.scan.read = s'.scan.read)
    (ht : t.scan.build = t'.scan.build ∧ t.scan.walk = t'.scan.walk ∧ t.scan.read = t'.scan.read)
    (hp : (t.lane .p).active = (t'.lane .p).active ∧ (t.lane .p).state = (t'.lane .p).state
      ∧ (t.lane .p).stagedGen = (t'.lane .p).stagedGen) : s.keepsWalk t := by
  simpa only [State.keepsWalk, hs.1, hs.2.1, hs.2.2, ht.1, ht.2.1, ht.2.2, hp.1, hp.2.1, hp.2.2] using h

/-- Two reports one after another: what the last leaves live was live at the first (R61, R153). -/
theorem State.keepsWalk_trans {s u t : State} (h : s.keepsWalk u) (k : u.keepsWalk t)
    (hb : u.scan.build = none → t.scan.build = none)
    (hl : ∀ w, s.scan.walk = some w →
      (w.generation = (t.lane .p).active
        ∨ ((t.lane .p).state = .ready ∧ w.generation = (t.lane .p).stagedGen)) →
      w.generation = (u.lane .p).active
        ∨ ((u.lane .p).state = .ready ∧ w.generation = (u.lane .p).stagedGen)) :
    s.keepsWalk t := by
  obtain ⟨h1, h2, h3, h4, h5⟩ := h
  obtain ⟨k1, k2, k3, k4, k5⟩ := k
  refine ⟨fun hw => k1 (h1 hw), fun w hw => ⟨fun hv => ?_, fun hv => ?_⟩, fun hr => k3 (h3 hr),
    fun hr hs => ?_, fun hr hs => ?_⟩
  · have e := (h2 w hw).1 (hl w hw hv)
    rw [hw] at e
    rw [(k2 w e).1 hv, e, hw]
  · by_cases hu : w.generation = (u.lane .p).active
        ∨ ((u.lane .p).state = .ready ∧ w.generation = (u.lane .p).stagedGen)
    · have e := (h2 w hw).1 hu
      rw [hw] at e
      exact (k2 w e).2 hv
    · exact k1 ((h2 w hw).2 hu)
  · have e := h4 hr hs
    rcases hub : u.scan.build with _ | b
    · rw [hb hub]
      rcases huw : u.scan.walk with _ | w
      · rw [k1 huw, k3 (by simpa [hub, huw] using e)]; rfl
      · have f := k5 (by simpa [hub, huw] using e) (by simp [huw])
        rw [f, hb hub]
        rcases t.scan.walk <;> rfl
    · exact k4 (by simpa [hub] using e) (by simp [hub])
  · have e := h5 hr hs
    rcases huw : u.scan.walk with _ | w
    · rw [k1 huw]
      rcases hub : u.scan.build with _ | b
      · rw [hb hub, k3 (by simpa [hub, huw] using e)]; rfl
      · have f := k4 (by simpa [hub, huw] using e) (by simp [hub])
        rw [f, k1 huw]
        rcases t.scan.build <;> rfl
    · exact k5 (by simpa [huw] using e) (by simp [huw])

/-- A report that abandons deliveries by their target, on the BATCH being built, the walk and the reads: `v`
is the state before the walk's test. -/
theorem State.report_reading {s v : State} {l : Lane} {test : Nat → Bool}
    (hb : v.scan.build = (s.abandonWhere l fun _ d => test d.target).scan.build)
    (hw : v.scan.walk = (s.abandonWhere l fun _ d => test d.target).scan.walk)
    (hr : v.scan.read = (s.abandonWhere l fun _ d => test d.target).scan.read)
    (hn : v.scan.nextPos = (s.abandonWhere l fun _ d => test d.target).scan.nextPos)
    (hp : v.scan.phase = s.scan.phase) :
    s.givesUpBuild v.checkWalk.wakeScan l (fun g => test g = true)
    ∧ s.keepsWalk v.checkWalk.wakeScan := by
  obtain ⟨c1, c2, -⟩ := v.checkWalk_reading
  refine ⟨State.givesUpBuild_of (by simp [c1, hb]) fun h => ?_,
    State.keepsWalk_of_abandon hb hw hr (by simp) (by simp) (by simp) ?_ ?_ ?_⟩
  · rw [State.wakeScan_nextPos (by simp [hp, h]), c2, hn]
  all_goals simp [State.lane]

/-! ### The reports in full -/

/-- The report that S is gone (R164). -/
theorem State.reportGone_spec (s : State) (l : Lane) (g : Nat) (h : (s.lane l).state ≠ .ready) :
    s.reportsGone (s.reportGone l g) l g
    ∧ (s.reportGone l g).scan.broadcast = s.scan.broadcast := by
  have ho : ∀ q, (((s.eachLaneRecord l (owedForDelivery g)).validator q).lane l).delivery =
      ((s.validator q).lane l).delivery := by
    intro q
    rw [State.validator_eachLaneRecord]
    split
    · rfl
    · rw [Validator.lane_setLane]
      unfold owedForDelivery; split <;> rfl
  have hw : (s.eachLaneRecord l (owedForDelivery g)).givesUpBuild (s.reportGone l g) l
        (fun d => decide (d = g) = true)
      ∧ (s.eachLaneRecord l (owedForDelivery g)).keepsWalk (s.reportGone l g) := by
    cases l <;> exact State.report_reading (by simp) (by simp) (by simp) (by simp) (by simp)
  refine ⟨⟨s.reportGone_records l g h, ?_, ?_, ?_, ?_⟩, ?_⟩
  · have hm := State.abandonWhere_marks (s.eachLaneRecord l (owedForDelivery g))
      (s.reportGone l g) l (fun d => decide (d = g)) (by cases l <;> simp [State.reportGone])
    simpa [State.marksExchange, ho] using hm
  · have := State.givesUpBuild_congr (s := s) hw.1 (by simp) (fun q => (ho q).symm) (by simp) rfl rfl
    simpa using this
  · exact State.keepsWalk_congr hw.2 (by simp) ⟨rfl, rfl, rfl⟩ ⟨rfl, rfl, rfl⟩
  · cases l <;> simp [State.reportGone]
  · cases l <;> simp [State.reportGone]

/-- The activation report (R163). -/
theorem State.reportActivated_spec (s : State) (l : Lane) (g : Nat) (h : (s.lane l).state ≠ .ready) :
    s.reportsMoved (s.reportActivated l g) l (s.lane l).active g
    ∧ (s.reportActivated l g).scan.broadcast = (s.onWaitingSwitches fun xs =>
        joinBroadcast xs { lane := l, generation := (s.lane l).active }).scan.broadcast := by
  obtain ⟨u, hu⟩ : ∃ u, u = s.onWaitingSwitches fun xs =>
    joinBroadcast xs { lane := l, generation := (s.lane l).active } := ⟨_, rfl⟩
  have hw : u.givesUpBuild (s.reportActivated l g) l (fun d => decide (d = g) = true)
      ∧ u.keepsWalk (s.reportActivated l g) := by
    subst hu
    exact State.report_reading (by simp) (by simp) (by simp) (by simp) (by simp [State.onWaitingSwitches])
  have hs : s.scan.build = u.scan.build ∧ s.scan.walk = u.scan.walk ∧ s.scan.read = u.scan.read
      ∧ s.scan.phase = u.scan.phase := by
    subst hu; simp [State.onWaitingSwitches]
  refine ⟨⟨?_, ?_, ?_, ?_, ?_⟩, ?_⟩
  · have := State.movedRecords s (s.reportActivated l g) l (s.lane l) h (fun d => decide (d = g))
      (fun q => by
        rw [State.validator_eachLaneRecord, State.validator_abandonWhere]
        simp [State.reportActivated, State.validator_eachLaneRecord, State.validator_abandonWhere,
          State.abandons, State.lane])
    simpa using this
  · have := State.abandonWhere_marks (s.onWaitingSwitches fun xs =>
        joinBroadcast xs { lane := l, generation := (s.lane l).active }) (s.reportActivated l g) l
      (fun d => decide (d = g)) (by simp [State.reportActivated])
    simpa [State.marksExchange] using this
  · have := State.givesUpBuild_congr (s := s) hw.1 hs.1 (fun q => by simp [hu]) hs.2.2.2 rfl rfl
    simpa using this
  · exact State.keepsWalk_congr hw.2 ⟨hs.1, hs.2.1, hs.2.2.1⟩ ⟨rfl, rfl, rfl⟩ ⟨rfl, rfl, rfl⟩
  · simp [State.reportActivated, State.onWaitingSwitches]
  · simp [State.reportActivated]

/-- What the removal of a waiting SWITCH leaves of the scanner's reading. -/
theorem State.removeSwitch_reading (s : State) (l : Lane) :
    s.scan.build = (s.removeSwitch l).scan.build ∧ s.scan.walk = (s.removeSwitch l).scan.walk
    ∧ s.scan.read = (s.removeSwitch l).scan.read ∧ s.scan.phase = (s.removeSwitch l).scan.phase
    ∧ ∀ q, s.validator q = (s.removeSwitch l).validator q := by
  simp [State.removeSwitch, State.onWaitingSwitches, State.validator]

/-- The rollback report (R170). -/
theorem State.reportRollback_spec (s : State) (l : Lane) (g : Nat) (h : (s.lane l).state ≠ .ready) :
    s.reportsMoved (s.reportRollback l g) l (s.lane l).active g
    ∧ s.dropsSwitch (s.reportRollback l g) l := by
  obtain ⟨r1, r2, r3, r4, r5⟩ := s.removeSwitch_reading l
  have hw : (s.removeSwitch l).givesUpBuild (s.reportRollback l g) l (fun d => decide (d = g) = true)
      ∧ (s.removeSwitch l).keepsWalk (s.reportRollback l g) :=
    State.report_reading (by simp) (by simp) (by simp) (by simp) (by simp)
  refine ⟨⟨?_, ?_, ?_, ?_, ?_⟩, ?_⟩
  · have := State.movedRecords s (s.reportRollback l g) l (s.lane l) h (fun d => decide (d = g))
      (fun q => by
        rw [State.validator_eachLaneRecord, State.validator_abandonWhere]
        simp [State.reportRollback, State.removeSwitch, State.validator_eachLaneRecord,
          State.validator_abandonWhere, State.abandons, State.lane])
    simpa using this
  · have := State.abandonWhere_marks (s.removeSwitch l) (s.reportRollback l g) l
      (fun d => decide (d = g)) (by simp [State.reportRollback])
    simpa [State.marksExchange, State.removeSwitch] using this
  · have := State.givesUpBuild_congr (s := s) hw.1 r1 (fun q => by rw [r5]) r4 rfl rfl
    simpa using this
  · exact State.keepsWalk_congr hw.2 ⟨r1, r2, r3⟩ ⟨rfl, rfl, rfl⟩ ⟨rfl, rfl, rfl⟩
  · simp [State.reportRollback, State.removeSwitch, State.onWaitingSwitches]
  · have hb := s.onWaitingSwitches_broadcast
      (fun xs => xs.filter fun w => decide (w.lane ≠ l))
    simpa [State.dropsSwitch, State.reportRollback, State.removeSwitch] using hb

/-- The lane-cleared report (R171). -/
theorem State.reportCleared_spec (s : State) (l : Lane) (h : (s.lane l).state ≠ .ready) :
    s.changesLaneRecords (s.reportCleared l) l
      (fun x y => x.isWhenMoved y (s.lane l).active (fun _ => True))
    ∧ s.marksExchange (s.reportCleared l) l (fun _ => True) ∧ s.dropsSwitch (s.reportCleared l) l
    ∧ (s.reportCleared l).scan.tally = (if l = .p then [] else s.scan.tally)
    ∧ s.givesUpBuild (s.reportCleared l) l (fun _ => True) ∧ s.keepsWalk (s.reportCleared l) := by
  obtain ⟨r1, r2, r3, r4, r5⟩ := s.removeSwitch_reading l
  have hw : (s.removeSwitch l).givesUpBuild (s.reportCleared l) l (fun _ => true = true)
      ∧ (s.removeSwitch l).keepsWalk (s.reportCleared l) := by
    cases l <;>
      exact State.report_reading (test := fun _ => true) (by simp) (by simp) (by simp) (by simp) (by simp)
  refine ⟨?_, ?_, ?_, ?_, ?_, ?_⟩
  · have := State.movedRecords s (s.reportCleared l) l (s.lane l) h (fun _ => true)
      (fun q => by
        have hr : (s.reportCleared l).scan.records =
            (((s.removeSwitch l).abandonWhere l fun _ _ => true).eachLaneRecord l
              fun v => staleTest ((s.removeSwitch l).lane l) v.clearMarks).scan.records := by
          cases l <;> simp [State.reportCleared, State.lane]
        rw [State.validator_of_records hr]
        simp [State.removeSwitch, State.validator_eachLaneRecord, State.validator_abandonWhere,
          State.abandons, State.lane])
    simpa using this
  · have := State.abandonWhere_marks (s.removeSwitch l) (s.reportCleared l) l
      (fun _ => true) (by cases l <;> simp [State.reportCleared])
    simpa [State.marksExchange, State.removeSwitch] using this
  · have hb := s.onWaitingSwitches_broadcast
      (fun xs => xs.filter fun w => decide (w.lane ≠ l))
    cases l <;> simpa [State.dropsSwitch, State.reportCleared, State.removeSwitch] using hb
  · cases l <;> simp [State.reportCleared, State.removeSwitch, State.onWaitingSwitches]
  · have := State.givesUpBuild_congr (s := s) hw.1 r1 (fun q => by rw [r5]) r4 rfl rfl
    simpa using this
  · exact State.keepsWalk_congr hw.2 ⟨r1, r2, r3⟩ ⟨rfl, rfl, rfl⟩ ⟨rfl, rfl, rfl⟩

/-! ### The lane controller's procedures -/

/-- The report relations look at the scanner, the link, the lane's ACTIVE before and lane P after. -/
theorem State.reportsGone_congr {s s' t t' : State} {l : Lane} {g : Nat} (h : s'.reportsGone t' l g)
    (hs : s.scan = s'.scan) (hb : s.bus.link = s'.bus.link)
    (ha : (s.lane l).active = (s'.lane l).active) (ht : t.scan = t'.scan)
    (htb : t.bus.link = t'.bus.link) (hp : (t.lane .p).active = (t'.lane .p).active
      ∧ (t.lane .p).state = (t'.lane .p).state ∧ (t.lane .p).stagedGen = (t'.lane .p).stagedGen) :
    s.reportsGone t l g := by
  simpa only [State.reportsGone, State.changesLaneRecords, State.marksExchange, State.givesUpBuild,
    State.keepsWalk, State.validator, hs, ht, hb, ha, htb, hp.1, hp.2.1, hp.2.2] using h

theorem State.reportsMoved_congr {s s' t t' : State} {l : Lane} {a g : Nat}
    (h : s'.reportsMoved t' l a g) (hs : s.scan = s'.scan) (hb : s.bus.link = s'.bus.link)
    (ht : t.scan = t'.scan) (htb : t.bus.link = t'.bus.link)
    (hp : (t.lane .p).active = (t'.lane .p).active
      ∧ (t.lane .p).state = (t'.lane .p).state ∧ (t.lane .p).stagedGen = (t'.lane .p).stagedGen) :
    s.reportsMoved t l a g := by
  simpa only [State.reportsMoved, State.changesLaneRecords, State.marksExchange, State.givesUpBuild,
    State.keepsWalk, State.validator, hs, ht, hb, htb, hp.1, hp.2.1, hp.2.2] using h

/-- A discard tells the scanner that S is gone (R33, R164). -/
theorem State.discard_reports (s : State) (l : Lane) (r : DiscardReason) (k : SweepKind) :
    s.reportsGone (s.discard l r k) l (s.lane l).stagedGen
    ∧ (s.discard l r k).scan.broadcast = s.scan.broadcast := by
  have hd : ∀ t : State, ((t.setLane l ((s.lane l).discarded r)).lane l).state ≠ .ready := by
    intro t
    simp [State.lane, LaneRec.discarded]
  have h := State.reportGone_spec
    (((s.abandonSegment l).setLane l ((s.lane l).discarded r)).rise (.discarded l)
      { lane := laneCode l, generation := (s.lane l).stagedGen, detail := r.code }) l
    (s.lane l).stagedGen (by rw [State.lane_of_lanes (State.rise_frame _ _ _).2.2.2.2.2.2.1]; exact hd _)
  refine ⟨State.reportsGone_congr h.1 ?_ ?_ ?_ ?_ ?_ ?_, ?_⟩
  · simp
  · simp
  · simp [State.lane, LaneRec.discarded]
  · simp only [State.discard]; split <;> simp
  · simp only [State.discard]; split <;> simp
  · simp only [State.discard]; split <;> simp [State.lane]
  · have hb := h.2
    simp only [State.rise_frame, State.setLane_scan, State.abandonSegment_frame] at hb
    rw [← hb]
    simp only [State.discard]; split <;> simp

/-- What a discard leaves of the apply engine and the sweeper's list (R34, R61, R63). -/
theorem State.discard_gives (s : State) (l : Lane) (r : DiscardReason) (k : SweepKind) :
    s.givesUpSegment (s.discard l r k) l k := by
  obtain ⟨-, -, hs, hw⟩ := s.discard_spec l r k
  refine ⟨fun he => ?_, fun seg pos he hl => ?_,
    fun seg pos retry he hl => ⟨fun hg => ?_, fun hg hc => ?_⟩⟩
  · rw [State.abandonSegment_free he] at hs hw
    have hf : s.store.engine.finishes l = false := by
      rw [← Bool.not_eq_true]
      exact fun h => he (Engine.lane_of_finishes h)
    simpa [hs, State.afterAsking, hf] using hw
  · subst hl
    rw [State.abandonSegment_waiting he] at hs hw
    have hx : ((s.setEngine .empty).clearWaiter.requestSweep seg.lane k false).sweeper =
        (s.clearWaiter.requestSweep seg.lane k false).sweeper :=
      State.requestSweep_of rfl _ _ _
    refine ⟨hs, ?_⟩
    rw [hw, hx]
    simp [State.afterAsking, State.clearWaiter, State.setEngine]
  · subst hl
    have ha : (s.abandonSegment seg.lane).store = { s.store with engine := .empty }
        ∧ (s.abandonSegment seg.lane).sweeper = s.sweeper := by
      by_cases hn : s.nextGrant = some .apply
      · rw [State.abandonSegment_granted he hn]
        rcases hg with hg | hg
        · exact absurd hn hg
        · simp [hg]
      · rw [State.abandonSegment_withdrawn he hn]
        exact ⟨rfl, rfl⟩
    refine ⟨hs.trans ha.1, ?_⟩
    rw [hw, State.requestSweep_of ha.2, ha.1, ha.2]
    simp [State.afterAsking]
  · subst hl
    rw [State.abandonSegment_granted he hg] at hs hw
    simp [hc, Engine.finishes] at hs hw
    exact ⟨hs, hw⟩

/-- The state after an activation and its history push is not READY. -/
theorem LaneRec.activated_state (r : LaneRec) (n : StagedNotice) (c : Nat) :
    (r.activated n c).state = .idle := rfl

/-- An activation tells the scanner (R38, R163). -/
theorem State.activate_reports (s : State) (l : Lane) (n : StagedNotice)
    (hn : (s.lane l).staged = some n) :
    s.reportsMoved (s.activate l) l n.g (s.lane l).active
    ∧ (s.activate l).scan.broadcast =
      (s.onWaitingSwitches fun xs => joinBroadcast xs { lane := l, generation := n.g }).scan.broadcast := by
  obtain ⟨u, hu⟩ : ∃ u, u = ((s.setLane l ((s.lane l).activated n s.clock.value)).requestSweep l
      .reclaim false).rise (.activated l) { lane := laneCode l, generation := n.g, detail := 1 } :=
    ⟨_, rfl⟩
  have ha : s.activate l = u.reportActivated l (s.lane l).active := by
    simp only [State.activate, hn, hu]
  have hl : u.lane l = (s.lane l).activated n s.clock.value := by
    simp [hu, State.lane]
  have hs : u.scan = s.scan ∧ u.bus = s.bus := by
    simp [hu, State.requestSweep]
  have h := u.reportActivated_spec l (s.lane l).active (by rw [hl]; simp [LaneRec.activated_state])
  rw [hl] at h
  rw [ha]
  refine ⟨State.reportsMoved_congr h.1 hs.1.symm (by rw [hs.2]) rfl rfl ⟨rfl, rfl, rfl⟩, ?_⟩
  rw [h.2]
  simp [State.onWaitingSwitches, hs.1, hs.2, LaneRec.activated]

/-- A rollback's completion tells the scanner (R42, R170). -/
theorem State.completeRollback_reports (s : State) (l : Lane) (top : HistoryRecord)
    (below : List HistoryRecord) (hh : (s.lane l).history = top :: below)
    (hs : (s.lane l).state ≠ .ready) :
    s.reportsMoved (s.completeRollback l) l top.generation (s.lane l).active
    ∧ s.dropsSwitch (s.completeRollback l) l := by
  obtain ⟨u, hu⟩ : ∃ u, u = ((s.setLane l { s.lane l with
      floor := max (s.lane l).floor (s.lane l).active, active := top.generation,
      activeDigest := top.digest, history := below }).requestSweep l .reclaim false).rise
      (.activated l) { lane := laneCode l, generation := top.generation, detail := 2 } := ⟨_, rfl⟩
  have ha : s.completeRollback l = u.reportRollback l (s.lane l).active := by
    simp only [State.completeRollback, hh, hu]
  have hl : (u.lane l).active = top.generation ∧ (u.lane l).state ≠ .ready := by
    simp [hu, State.lane]
    exact hs
  have he : u.scan = s.scan ∧ u.bus = s.bus := by
    simp [hu, State.requestSweep]
  have h := u.reportRollback_spec l (s.lane l).active hl.2
  rw [hl.1] at h
  rw [ha]
  refine ⟨State.reportsMoved_congr h.1 he.1.symm (by rw [he.2]) rfl rfl ⟨rfl, rfl, rfl⟩, ?_⟩
  have h2 := h.2
  simpa only [State.dropsSwitch, he.1, he.2] using h2

/-! ### What a report does to the round (R145 to R148) -/

/-- A round of a number has begun after `beginRound`. -/
theorem State.beginRound_begins (s : State) (n : Nat) : (s.beginRound n).beginsRound n := by
  have h := s.beginRound_spec n
  refine ⟨h.1, h.2.1, h.2.2.1, h.2.2.2.1, ?_⟩
  rw [h.2.2.2.2]
  simp [quietMs]

/-- A round that has begun looks at the scanner, the roster and the quiet interval alone. -/
theorem State.beginsRound_congr {t t' : State} {n : Nat} (h : t'.beginsRound n)
    (hs : t.scan = t'.scan) (hr : t.settings.roster = t'.settings.roster)
    (hq : t.settings.quiet = t'.settings.quiet) : t.beginsRound n := by
  have hv : t.nextVisit = t'.nextVisit := by
    simp only [State.nextVisit, State.visitable, State.validator, hs, hr]
  simpa only [State.beginsRound, hs, hv, hq] using h

/-- What `wakeScan` does is what a report does (R145 to R148). -/
theorem State.wakeScan_hears (u : State) : u.hearsReport u.wakeScan := by
  have hn : ∀ s : State, (s.nextRound.scan.broadcast = [] →
        s.nextRound.beginsRound ((s.scan.roundNo + 1) % 65536))
      ∧ (s.nextRound.scan.broadcast ≠ [] → s.nextRound.scan.phase = .roundDue
        ∧ s.nextRound.scan.roundNo = s.scan.roundNo) := by
    intro s
    simp only [State.nextRound]
    split
    · next h =>
      have hb := (s.beginRound_lists ((s.scan.roundNo + 1) % 65536)).2
      exact ⟨fun _ => s.beginRound_begins _, fun hne => absurd (by rw [hb]; simpa using h) hne⟩
    · next h => exact ⟨fun he => absurd (by simpa using he) h, fun _ => ⟨rfl, rfl⟩⟩
  unfold State.wakeScan
  refine ⟨fun h => ?_, fun h => ?_, fun h => ?_⟩
  · rw [h]; exact ⟨h, rfl, rfl⟩
  · rw [h]; exact ⟨h, rfl⟩
  · rcases h with h | ⟨ms, h⟩ <;> rw [h] <;> exact hn u

/-- A report looks at the phase and number before it, and at the scanner, the roster and the quiet interval
after. -/
theorem State.hearsReport_congr {s s' t t' : State} (h : s'.hearsReport t')
    (hp : s.scan.phase = s'.scan.phase) (hn : s.scan.roundNo = s'.scan.roundNo)
    (ht : t.scan = t'.scan) (hr : t.settings.roster = t'.settings.roster)
    (hq : t.settings.quiet = t'.settings.quiet) : s.hearsReport t := by
  have hb : ∀ n, t'.beginsRound n → t.beginsRound n := fun n h => State.beginsRound_congr h ht hr hq
  simp only [State.hearsReport, hp, hn, ht] at *
  exact ⟨h.1, h.2.1, fun hx => ⟨fun he => hb _ ((h.2.2 hx).1 he), (h.2.2 hx).2⟩⟩

/-- A state woken is a state that has heard a report. -/
theorem State.hears_of_wake {s u : State} (hp : u.scan.phase = s.scan.phase)
    (hn : u.scan.roundNo = s.scan.roundNo) : s.hearsReport u.wakeScan :=
  State.hearsReport_congr u.wakeScan_hears hp.symm hn.symm rfl rfl rfl

theorem State.reportStaging_hears (s : State) : s.hearsReport s.reportStaging :=
  State.hears_of_wake (by simp) (by simp)

theorem State.reportGone_hears (s : State) (l : Lane) (g : Nat) : s.hearsReport (s.reportGone l g) := by
  cases l <;> exact State.hears_of_wake (by simp) (by simp)

theorem State.reportActivated_hears (s : State) (l : Lane) (g : Nat) :
    s.hearsReport (s.reportActivated l g) :=
  State.hears_of_wake (by simp [State.onWaitingSwitches]) (by simp [State.onWaitingSwitches])

theorem State.reportRollback_hears (s : State) (l : Lane) (g : Nat) :
    s.hearsReport (s.reportRollback l g) :=
  State.hears_of_wake (by simp [State.removeSwitch, State.onWaitingSwitches])
    (by simp [State.removeSwitch, State.onWaitingSwitches])

theorem State.reportCleared_hears (s : State) (l : Lane) : s.hearsReport (s.reportCleared l) := by
  cases l <;> exact State.hears_of_wake (by simp [State.removeSwitch, State.onWaitingSwitches])
    (by simp [State.removeSwitch, State.onWaitingSwitches])

theorem State.discard_hears (s : State) (l : Lane) (r : DiscardReason) (k : SweepKind) :
    s.hearsReport (s.discard l r k) := by
  have h := State.reportGone_hears
    (((s.abandonSegment l).setLane l ((s.lane l).discarded r)).rise (.discarded l)
      { lane := laneCode l, generation := (s.lane l).stagedGen, detail := r.code }) l (s.lane l).stagedGen
  refine State.hearsReport_congr h (by simp) (by simp) ?_ ?_ ?_
  all_goals simp only [State.discard]; split <;> simp

/-- The report of a discard leaves the broadcast list alone (R164). -/
theorem State.discard_broadcast (s : State) (l : Lane) (r : DiscardReason) (k : SweepKind) :
    (s.discard l r k).scan.broadcast = s.scan.broadcast := by
  have h := (State.reportGone_spec
    (((s.abandonSegment l).setLane l ((s.lane l).discarded r)).rise (.discarded l)
      { lane := laneCode l, generation := (s.lane l).stagedGen, detail := r.code })
    l (s.lane l).stagedGen
    (by cases l <;> simp [LaneRec.discarded, State.lane, State.setLane, PerLane.get, PerLane.set])).2
  simp only [State.discard]
  split <;> simp [h]

/-- No presence changes at a change of lane parts, at an abandonment, and at the report that S is gone. -/
@[simp] theorem State.presence_eachLaneRecord (s : State) (l : Lane) (f : ValidatorLane → ValidatorLane)
    (q : Fin 16) : ((s.eachLaneRecord l f).validator q).presence = (s.validator q).presence := by
  rw [State.validator_eachLaneRecord]
  split <;> simp

@[simp] theorem State.presence_abandonWhere (s : State) (l : Lane) (test : Fin 16 → Delivery → Bool)
    (q : Fin 16) : ((s.abandonWhere l test).validator q).presence = (s.validator q).presence := by
  rw [State.validator_abandonWhere]
  split <;> simp

@[simp] theorem State.presence_reportGone (s : State) (l : Lane) (g : Nat) (q : Fin 16) :
    ((s.reportGone l g).validator q).presence = (s.validator q).presence := by
  let owed := (s.eachLaneRecord l (owedForDelivery g)).abandonWhere l fun _ d => decide (d.target = g)
  have records : (s.reportGone l g).scan.records =
      (owed.eachLaneRecord l (goneIn (owed.lane l) g)).scan.records := by
    cases l <;> simp [State.reportGone, owed]
  rw [State.validator_of_records records]
  simp [owed]

@[simp] theorem State.presence_discard (s : State) (l : Lane) (r : DiscardReason) (k : SweepKind)
    (q : Fin 16) : ((s.discard l r k).validator q).presence = (s.validator q).presence := by
  have asked : (s.discard l r k).scan.records =
      ((((s.abandonSegment l).setLane l ((s.lane l).discarded r)).rise (.discarded l)
        { lane := laneCode l, generation := (s.lane l).stagedGen, detail := r.code }).reportGone l
        (s.lane l).stagedGen).scan.records := by
    simp only [State.discard]; split <;> simp
  rw [State.validator_of_records asked, State.presence_reportGone, State.validator_rise]
  simp [State.validator]

/-- A CLEAR or SUBSCRIBE accepted tells the scanner once, and first of the discard of a staging (R43,
R44). -/
theorem State.acceptClear_hears (s : State) (l : Lane) (cmd : LaneCommand) :
    ((s.lane l).state.holdsStaging = true → s.hearsTwoReports (s.acceptClear l cmd)
      fun u => (u.lane l).state = .discarding ∧ (u.lane l).active = (s.lane l).active
        ∧ u.lane l.other = s.lane l.other ∧ s.reportsGone u l (s.lane l).stagedGen)
    ∧ ((s.lane l).state.holdsStaging = false → s.hearsReport (s.acceptClear l cmd)) := by
  constructor <;> intro h
  · refine ⟨s.discard l .aborted .clear, by simp, s.discard_broadcast l _ _,
      fun pos => s.presence_discard l _ _ pos, ⟨?_, ?_, ?_, (s.discard_reports l _ _).1⟩,
      State.discard_hears s l _ _, ?_⟩
    · simp [State.lane, (s.discard_spec l .aborted .clear).1, LaneRec.discarded]
    · simp [State.lane, (s.discard_spec l .aborted .clear).1, LaneRec.discarded]
    · simp [State.lane, (s.discard_spec l .aborted .clear).1]
    simp only [State.acceptClear, h, if_true]
    refine State.hearsReport_congr (State.reportCleared_hears _ l) ?_ ?_ rfl rfl rfl <;> simp
  · simp only [State.acceptClear, h]
    refine State.hearsReport_congr (State.reportCleared_hears _ l) ?_ ?_ rfl rfl rfl <;>
      simp [State.clearIdle]
    all_goals split <;> simp

theorem State.activate_hears (s : State) (l : Lane) (n : StagedNotice)
    (hn : (s.lane l).staged = some n) : s.hearsReport (s.activate l) := by
  simp only [State.activate, hn]
  refine State.hearsReport_congr (State.reportActivated_hears _ l _) ?_ ?_ rfl rfl rfl
  all_goals simp

theorem State.completeRollback_hears (s : State) (l : Lane) (top : HistoryRecord)
    (below : List HistoryRecord) (hh : (s.lane l).history = top :: below) :
    s.hearsReport (s.completeRollback l) := by
  simp only [State.completeRollback, hh]
  refine State.hearsReport_congr (State.reportRollback_hears _ l _) ?_ ?_ rfl rfl rfl
  all_goals simp

/-! ### SWITCHes -/

theorem joinBroadcast_joins (xs : List Switch) (w : Switch) : joinsList w xs (joinBroadcast xs w) := by
  induction xs with
  | nil =>
    refine ⟨fun _ => rfl, fun before x after h => ?_⟩
    cases before <;> simp at h
  | cons x xs ih =>
    refine ⟨fun h => ?_, fun before y after h hb hy => ?_⟩
    · have hx := h x List.mem_cons_self
      simp only [joinBroadcast, if_neg hx, List.cons_append]
      rw [ih.1 fun y hy => h y (List.mem_cons_of_mem _ hy)]
    · cases before with
      | nil =>
        simp only [List.nil_append, List.cons.injEq] at h
        obtain ⟨rfl, rfl⟩ := h
        simp [joinBroadcast, hy]
      | cons z zs =>
        simp only [List.cons_append, List.cons.injEq] at h
        obtain ⟨rfl, rfl⟩ := h
        have hx := hb x List.mem_cons_self
        simp only [joinBroadcast, if_neg hx, List.cons_append]
        rw [ih.2 zs y after rfl (fun v hv => hb v (List.mem_cons_of_mem _ hv)) hy]

theorem State.onWaiting_joins {s t : State} {w : Switch}
    (h : t.scan.broadcast = (s.onWaitingSwitches fun xs => joinBroadcast xs w).scan.broadcast) :
    s.joinsSwitch t w := by
  have hb := s.onWaitingSwitches_broadcast fun xs => joinBroadcast xs w
  refine ⟨fun hn => ?_, fun v online rest hv hx => ⟨_, joinBroadcast_joins rest w, ?_⟩⟩
  · rw [h, hb.1 hn]; exact joinBroadcast_joins _ _
  · rw [h, hb.2 v online rest hv hx]

/-! ### Verification (R29, R30) -/

/-- The segment map gains one index. -/
theorem mem_insertIndex (xs : List Nat) (i j : Nat) : j ∈ insertIndex xs i ↔ j = i ∨ j ∈ xs := by
  induction xs with
  | nil => simp [insertIndex]
  | cons x xs ih =>
    simp only [insertIndex]
    split
    · simp
    · split
      · next h => subst h; simp
      · simp only [List.mem_cons, ih]
        constructor
        · rintro (h | h | h) <;> simp [h]
        · rintro (h | h | h) <;> simp [h]

/-- A full map holds every index of the staging. -/
theorem mapFull_iff (map : List Nat) (n : Nat) : mapFull map n = true ↔ ∀ i < n, i ∈ map := by
  simp [mapFull]

/-- A rise and a change of a lane record do not meet. -/
theorem State.rise_setLane (s : State) (l : Lane) (r : LaneRec) (f : EventFlag) (c : AlertContext) :
    (s.setLane l r).rise f c = (s.rise f c).setLane l r := by
  by_cases he : s.settings.enables.getLsbD f.number = true
  · by_cases hr : s.uplink.egress.length < 8 <;>
      simp [State.rise, State.alert, State.egressRoom, State.countUplink, State.place, State.setLane,
        State.alertBody, he, hr]
  · simp [State.rise, State.setLane, he]

/-- A comparison that fails discards with reason DIGEST (R30). -/
theorem State.verify_discards {s : State} {l : Lane} {n : StagedNotice}
    (hn : (s.lane l).staged = some n)
    (h : ¬((s.lane l).stagedDigest.count = n.count ∧ (s.lane l).stagedDigest.sum = n.sum)) :
    s.verify l = s.discardUndo l .digest := by
  simp only [State.verify, hn, if_neg h]

/-- A comparison that holds makes the lane READY, tells the scanner, and tests the activation (R30, R37). -/
theorem State.verify_ready {s : State} {l : Lane} {n : StagedNotice}
    (hn : (s.lane l).staged = some n)
    (h : (s.lane l).stagedDigest.count = n.count ∧ (s.lane l).stagedDigest.sum = n.sum) :
    ∃ u : State, s.verify l = u.testActivation l
    ∧ u.lanes = s.lanes.set l { s.lane l with state := .ready } ∧ u.store = s.store
    ∧ u.sweeper = s.sweeper ∧ u.clock = s.clock ∧ u.settings = s.settings ∧ u.bus = s.bus
    ∧ u.scan.records = s.scan.records ∧ u.scan.broadcast = s.scan.broadcast
    ∧ u.scan.tally = s.scan.tally ∧ s.hearsReport u
    ∧ u.ctl.flags = s.ctl.flags ||| (EventFlag.stagedReady l).bit
    ∧ s.keepsWalk u ∧ u.scan.build = s.scan.build
    ∧ (let raised := s.rise (.stagedReady l) { lane := laneCode l, generation := n.g }
      u.ctl = raised.ctl ∧ u.uplink = raised.uplink) := by
  refine ⟨_, by simp only [State.verify, hn, if_pos h]; rfl, ?_, ?_, ?_, ?_, ?_, ?_, ?_, ?_, ?_,
    State.hearsReport_congr (State.reportStaging_hears _) (by simp) (by simp) rfl rfl rfl, ?_,
    State.keepsWalk_congr (State.reportStaging_keeps _).1 (by simp) ⟨rfl, rfl, rfl⟩
      ⟨rfl, rfl, rfl⟩, ?_, ?_, ?_⟩
  all_goals simp [State.reportStaging, hn]
  · exact (State.checkWalk_reading _).1.trans (by simp)
  · rw [State.rise_setLane]; simp
  · rw [State.rise_setLane]; simp

end Sys2Proof.Machine
end

