-- ==== Sys2Proof/Laws/Requests.lean ====
section
/-! SUPPORT. The sweeper's list: what joins, what merges, what starts; and which generations are
retained. -/

namespace Sys2Proof.Machine

/-- Two requests are for the same work when lane and kind agree, whatever their generations (R75). -/
theorem SweepRequest.sameWork_iff (x new : SweepRequest) :
    x.sameWork new = true ↔ x.lane = new.lane
      ∧ ((∃ g h, x.kind = .retire g ∧ new.kind = .retire h)
        ∨ (∃ g h, x.kind = .undo g ∧ new.kind = .undo h)
        ∨ (x.kind = .reclaim ∧ new.kind = .reclaim) ∨ (x.kind = .clear ∧ new.kind = .clear)) := by
  obtain ⟨l, k, w⟩ := x
  obtain ⟨l', k', w'⟩ := new
  cases k <;> cases k' <;> simp [SweepRequest.sameWork, SweepKind.code]

/-- A request with no like request waiting joins the tail. -/
theorem joinRequests_joins {waiting : List SweepRequest} {new : SweepRequest}
    (h : ∀ x ∈ waiting, x.sameWork new = false) : joinRequests waiting new = waiting ++ [new] := by
  induction waiting with
  | nil => rfl
  | cons y ys ih =>
    rw [joinRequests, if_neg (by simp [h y]), ih fun x hx => h x (by simp [hx])]
    rfl

/-- A request merges with the first like request waiting, which keeps its place and its generation. -/
theorem joinRequests_merges {before after : List SweepRequest} {x new : SweepRequest}
    (h : ∀ y ∈ before, y.sameWork new = false) (hx : x.sameWork new = true) :
    joinRequests (before ++ x :: after) new =
      before ++ { x with waiter := x.waiter || new.waiter } :: after := by
  induction before with
  | nil => simp [joinRequests, hx]
  | cons y ys ih =>
    rw [List.cons_append, joinRequests, if_neg (by simp [h y]), ih fun x hx => h x (by simp [hx])]
    rfl

theorem Sweeper.start_of_sweep {w : Sweeper} {x : Sweep} (h : w.sweep = some x) : w.start = w := by
  simp [Sweeper.start, h]

theorem Sweeper.start_of_nil {w : Sweeper} (h : w.requests = []) : w.start = w := by
  simp only [Sweeper.start, h]
  rcases w.sweep with _ | _ <;> rfl

theorem Sweeper.start_of_cons {w : Sweeper} {x : SweepRequest} {rest : List SweepRequest}
    (h : w.sweep = none) (hr : w.requests = x :: rest) :
    w.start = { requests := rest, sweep := some { request := x, cursor := 0 } } := by
  simp [Sweeper.start, h, hr]

/-- The retained generations: ACTIVE, the history, and S in RETIRING, STAGING and READY. -/
theorem LaneRec.mem_retained (r : LaneRec) (v : Nat) :
    v ∈ r.retained ↔ (r.active ≠ 0 ∧ v = r.active) ∨ (∃ h ∈ r.history, v = h.generation)
      ∨ ((r.state = .retiring ∨ r.state = .staging ∨ r.state = .ready)
        ∧ ∃ n, r.staged = some n ∧ v = n.g) := by
  simp only [LaneRec.retained, List.mem_append, List.mem_map, or_assoc]
  refine or_congr ?_ (or_congr ?_ ?_)
  · split <;> simp_all
  · simp [eq_comm]
  · cases r.state <;> cases r.staged <;> simp

end Sys2Proof.Machine
end

