-- ==== Sys2Proof/Laws/Rises.lean ====
section
/-! SUPPORT. What the events of a step leave at the control unit (R180, R181): the rises of discards,
activations and rollbacks. -/

namespace Sys2Proof.Machine

/-- Two states agree on what a rise reads and writes. -/
def State.sameOutbound (s t : State) : Prop :=
  t.ctl.flags = s.ctl.flags ∧ t.ctl.alertNo = s.ctl.alertNo ∧ t.uplink.egress = s.uplink.egress
  ∧ t.uplink.counters = s.uplink.counters

/-- A rise reads the flags, the alert number, the egress queue, the counters, the settings and the clock
alone. -/
theorem State.rise_sameOutbound {s t : State} (h : s.sameOutbound t) (hs : t.settings = s.settings)
    (hc : t.clock = s.clock) (f : EventFlag) (c : AlertContext) :
    (s.rise f c).sameOutbound (t.rise f c) := by
  obtain ⟨h1, h2, h3, h4⟩ := h
  simp only [State.sameOutbound, State.rise, State.alert, State.egressRoom, State.place,
    State.alertBody, State.countUplink, h1, h2, h3, h4, hs, hc]
  by_cases he : s.settings.enables.getLsbD f.number = true
  · by_cases hr : s.uplink.egress.length < 8 <;> simp [he, hr]
  · simp [he, h3, h4]

/-- No rise. -/
theorem State.raises_nil {s t : State} (h : s.sameOutbound t) : s.raises t [] := h

/-- Rises one after another, of two states that agree on what a rise reads. -/
theorem State.rises_sameOutbound (rises : List (EventFlag × AlertContext)) :
    ∀ {s t : State}, s.sameOutbound t → t.settings = s.settings → t.clock = s.clock →
      (rises.foldl (fun u x => u.rise x.1 x.2) s).sameOutbound
        (rises.foldl (fun u x => u.rise x.1 x.2) t) := by
  induction rises with
  | nil => intro s t h _ _; exact h
  | cons x rises ih =>
    intro s t h hs hc
    exact ih (State.rise_sameOutbound h hs hc x.1 x.2) (by simpa using hs) (by simpa using hc)

/-- What a step raises depends on the state before by what a rise reads alone, and on the state after by
what a rise writes and its clock. -/
theorem State.raises_congr {s s' t t' : State} {rises : List (EventFlag × AlertContext)}
    (h : s'.raises t' rises) (hs : s.sameOutbound s') (he : s'.settings = s.settings)
    (ht : t'.sameOutbound t) (hc : t'.clock = t.clock) : s.raises t rises := by
  have k := State.rises_sameOutbound rises (s := { s with clock := t.clock })
    (t := { s' with clock := t'.clock }) hs he hc
  exact ⟨ht.1.trans (h.1.trans k.1), ht.2.1.trans (h.2.1.trans k.2.1),
    ht.2.2.1.trans (h.2.2.1.trans k.2.2.1), ht.2.2.2.trans (h.2.2.2.trans k.2.2.2)⟩

/-- Rises touch neither the settings nor the clock. -/
theorem State.rises_frame (rises : List (EventFlag × AlertContext)) :
    ∀ s : State, (rises.foldl (fun u x => u.rise x.1 x.2) s).settings = s.settings
      ∧ (rises.foldl (fun u x => u.rise x.1 x.2) s).clock = s.clock := by
  induction rises with
  | nil => intro s; exact ⟨rfl, rfl⟩
  | cons x rises ih =>
    intro s
    obtain ⟨h, k⟩ := ih (s.rise x.1 x.2)
    exact ⟨h.trans (by simp), k.trans (by simp)⟩

/-- The rises of two acts of one step, one after another. -/
theorem State.raises_append {s u t : State} {xs ys : List (EventFlag × AlertContext)}
    (h : s.raises u xs) (k : u.raises t ys) (hs : u.settings = s.settings) (hc : u.clock = t.clock) :
    s.raises t (xs ++ ys) := by
  have hf := State.rises_frame xs { s with clock := t.clock }
  have hu : ({ u with clock := t.clock } : State) = u := by rw [← hc]
  simp only [State.raises, hc] at h
  simp only [State.raises, hu] at k
  have e := State.rises_sameOutbound ys h (hs.trans hf.1.symm) (hc.trans hf.2.symm)
  simp only [State.raises, List.foldl_append]
  exact ⟨k.1.trans e.1, k.2.1.trans e.2.1, k.2.2.1.trans e.2.2.1, k.2.2.2.trans e.2.2.2⟩

/-- One rise, of a state `u` that agrees with the one before. -/
theorem State.raises_one {s u t : State} {f : EventFlag} {c : AlertContext} (hu : s.sameOutbound u)
    (hs : u.settings = s.settings) (hc : u.clock = t.clock) (ht : (u.rise f c).sameOutbound t) :
    s.raises t [(f, c)] := by
  have h := State.rise_sameOutbound (s := { s with clock := t.clock }) (t := u) hu hs hc f c
  exact ⟨ht.1.trans h.1, ht.2.1.trans h.2.1, ht.2.2.1.trans h.2.2.1, ht.2.2.2.trans h.2.2.2⟩

/-- A discard raises DISCARDED with the lane, S and the reason (R33). -/
theorem State.discard_raises (s : State) (l : Lane) (r : DiscardReason) (k : SweepKind) :
    s.raises (s.discard l r k)
      [(.discarded l, { lane := laneCode l, generation := (s.lane l).stagedGen, detail := r.code })] := by
  refine State.raises_one
    (u := (s.abandonSegment l).setLane l ((s.lane l).discarded r)) ⟨?_, ?_, ?_, ?_⟩ ?_ ?_ ?_
  · simp
  · simp
  · simp
  · simp
  · simp
  · simp
  · simp only [State.discard]
    split <;> simp [State.sameOutbound]

/-- An activation raises ACTIVATED with the lane and the new ACTIVE, by activation (R38). -/
theorem State.activate_raises (s : State) (l : Lane) (n : StagedNotice)
    (hn : (s.lane l).staged = some n) :
    s.raises (s.activate l)
      [(.activated l, { lane := laneCode l, generation := n.g, detail := 1 })] := by
  simp only [State.activate, hn]
  refine State.raises_one (u := (s.setLane l ((s.lane l).activated n s.clock.value)).requestSweep l
    .reclaim false) ⟨rfl, rfl, rfl, rfl⟩ rfl ?_ ?_
  · simp
  · simp [State.sameOutbound]

/-- A rollback's completion raises ACTIVATED with the lane and the new ACTIVE, by rollback (R42). -/
theorem State.completeRollback_raises (s : State) (l : Lane) (top : HistoryRecord)
    (below : List HistoryRecord) (hh : (s.lane l).history = top :: below) :
    s.raises (s.completeRollback l)
      [(.activated l, { lane := laneCode l, generation := top.generation, detail := 2 })] := by
  simp only [State.completeRollback, hh]
  refine State.raises_one (u := (s.setLane l { s.lane l with
      floor := max (s.lane l).floor (s.lane l).active, active := top.generation,
      activeDigest := top.digest, history := below }).requestSweep l .reclaim false)
    ⟨rfl, rfl, rfl, rfl⟩ rfl ?_ ?_
  · simp
  · simp [State.sameOutbound]

end Sys2Proof.Machine
end

