-- ==== Sys2Proof/Laws/Standing.lean ====
section
/-! SUPPORT. The length and the layout of each part of a STANDING. -/

namespace Sys2Proof.Machine

theorem encodeDigest_length (d : Digest) : (encodeDigest d).length = 54 := by
  simp [encodeDigest, List.map_const']

theorem encodeHistoryPlace_length (o : Option HistoryRecord) :
    (encodeHistoryPlace o).length = 57 := by
  cases o <;> simp [encodeHistoryPlace, encodeDigest_length]

theorem encodeStaged_length (o : Option StagedNotice) : (encodeStaged o).length = 18 := by
  cases o <;> simp [encodeStaged]

theorem encodeSegmentMap_length (m : List Nat) : (encodeSegmentMap m).length = 128 := by
  simp only [encodeSegmentMap]
  simp [List.map_const']

theorem encodeLaneCommand_length (unused : Nat) (o : Option LaneCommand) :
    (encodeLaneCommand unused o).length = 3 := by
  rcases o with _ | (_ | _ | _) <;> simp [encodeLaneCommand]

/-- A lane record takes 398 bytes. -/
theorem encodeLane_length (r : LaneRec) (unused : Nat) : (encodeLane r unused).length = 398 := by
  unfold encodeLane
  rw [List.length_append]
  simp only [List.length_append, be_length, encodeDigest_length, encodeHistoryPlace_length,
    encodeStaged_length, encodeSegmentMap_length, encodeLaneCommand_length]

/-- A validator record takes 90 bytes. -/
theorem encodeValidator_length (e : Option (Fin 8)) (v : Validator) :
    (encodeValidator e v).length = 90 := by
  simp [encodeValidator, encodeValidatorLane, encodeDelivery]

theorem encodeValidators_length (s : State) : (encodeValidators s).length = 1440 := by
  simp [encodeValidators, List.length_flatMap, encodeValidator_length, List.map_const']

theorem encodeCommand_length (c : CommandState) : (encodeCommand c).length = 2 := by
  cases c <;> simp [encodeCommand]

theorem encodeEngine_length (e : Engine) : (encodeEngine e).length = 2 := by
  cases e <;> simp [encodeEngine]

theorem encodeSweep_length (unused : BitVec 24) (o : Option Sweep) :
    (encodeSweep unused o).length = 4 := by
  cases o <;> simp [encodeSweep]

theorem encodeRequest_length (o : Option SweepRequest) : (encodeRequest o).length = 2 := by
  cases o <;> simp [encodeRequest]

theorem encodeSweeper_length (w : Sweeper) (unused : BitVec 24) :
    (encodeSweeper w unused).length = 21 := by
  simp [encodeSweeper, encodeSweep_length, encodeRequest_length]

/-! ### The layout

Each part in the form in which Safety spells it. -/

theorem append_eq {a a' b b' : List Byte} (h : a = a') (k : b = b') : a ++ b = a' ++ b' := by
  rw [h, k]

theorem append_pair_eq {a b h c c' : List Byte} (e : a ++ b = h) (k : c = c') :
    a ++ (b ++ c) = h ++ c' := by rw [← e, k, List.append_assoc]

theorem be_one (b : Byte) : be 1 b.toNat = [b] := by simp [be]

theorem encodeDigest_eq (d : Digest) : encodeDigest d = d.bytes := by
  obtain ⟨c, s, ⟨⟨l⟩, hl⟩⟩ := d
  simp only [encodeDigest, Digest.bytes]
  match l, hl with
  | [_, _, _, _, _, _, _, _], _ => rfl

theorem encodeHistoryPlace_some (t : HistoryRecord) : encodeHistoryPlace (some t) = t.bytes := by
  simp only [encodeHistoryPlace, HistoryRecord.bytes, encodeDigest_eq]

theorem encodeHistoryPlace_none : encodeHistoryPlace none = List.replicate 57 0 := by decide

theorem encodeHistory_eq (h : List HistoryRecord) :
    encodeHistoryPlace h[0]? ++ encodeHistoryPlace h[1]? = historyBytes h := by
  rcases h with _ | ⟨top, _ | ⟨next, rest⟩⟩
  · simp only [List.getElem?_nil, encodeHistoryPlace_none]; rfl
  · simp only [List.getElem?_nil, List.getElem?_cons_zero, List.getElem?_cons_succ,
      encodeHistoryPlace_none, encodeHistoryPlace_some, historyBytes]
  · simp only [List.getElem?_cons_zero, List.getElem?_cons_succ, encodeHistoryPlace_some,
      historyBytes]

theorem encodeStaged_eq (x : Option StagedNotice) : encodeStaged x = stagedBytes x := by
  rcases x with _ | n
  · decide
  · rfl

theorem encodeLaneCommand_eq (unused : Nat) (x : Option LaneCommand) :
    encodeLaneCommand unused x = pendingBytes (be 2 unused) x := by
  rcases x with _ | (_ | _ | _)
  · rfl
  · exact show be 1 1 ++ be 2 0 = [1, 0, 0] by decide
  · exact show be 1 2 ++ be 2 0 = [2, 0, 0] by decide
  · rfl

theorem encodeSegmentMap_eq (map : List Nat) :
    encodeSegmentMap map = (List.range 128).map fun i => BitVec.ofNat 8 (segmentMapByte map i) := by
  simp only [encodeSegmentMap, be, List.map_eq_flatMap, Nat.pow_zero, Nat.div_one]

/-- Eight figures 2^7 to 2^0, each there or not, are the bits of a byte (R193). -/
theorem figures_bit : ∀ (b0 b1 b2 b3 b4 b5 b6 b7 : Bool) (j : Fin 8),
    (BitVec.ofNat 8 (([if b0 then 2 ^ 7 else 0, if b1 then 2 ^ 6 else 0, if b2 then 2 ^ 5 else 0,
      if b3 then 2 ^ 4 else 0, if b4 then 2 ^ 3 else 0, if b5 then 2 ^ 2 else 0,
      if b6 then 2 ^ 1 else 0, if b7 then 2 ^ 0 else 0] : List Nat).foldl (· + ·) 0)).getLsbD
        (7 - j.val) = [b0, b1, b2, b3, b4, b5, b6, b7][j.val]! := by decide +kernel

theorem segmentMapByte_bit (map : List Nat) (i : Nat) :
    (BitVec.ofNat 8 (segmentMapByte map (i / 8))).getLsbD (7 - i % 8) = map.contains i := by
  have whole : 8 * (i / 8) + i % 8 = i := by omega
  refine Eq.trans (figures_bit (map.contains (8 * (i / 8) + 0)) (map.contains (8 * (i / 8) + 1))
    (map.contains (8 * (i / 8) + 2)) (map.contains (8 * (i / 8) + 3))
    (map.contains (8 * (i / 8) + 4)) (map.contains (8 * (i / 8) + 5))
    (map.contains (8 * (i / 8) + 6)) (map.contains (8 * (i / 8) + 7))
    ⟨i % 8, Nat.mod_lt _ (by omega)⟩) ?_
  have place : i % 8 = 0 ∨ i % 8 = 1 ∨ i % 8 = 2 ∨ i % 8 = 3 ∨ i % 8 = 4 ∨ i % 8 = 5 ∨ i % 8 = 6
    ∨ i % 8 = 7 := by omega
  rcases place with h | h | h | h | h | h | h | h <;> simp only [h] at whole ⊢ <;> simp [whole]

theorem encodeSegmentMap_bit (map : List Nat) (i : Nat) (hi : i < 1024) (x : Byte)
    (hx : (encodeSegmentMap map)[i / 8]? = some x) : x.getLsbD (7 - i % 8) = true ↔ i ∈ map := by
  rw [encodeSegmentMap_eq, List.getElem?_map,
    List.getElem?_range (show i / 8 < 128 by omega)] at hx
  cases hx
  rw [segmentMapByte_bit, List.contains_iff_mem]

theorem encodeLane_isSent (r : LaneRec) (unused : Nat) :
    r.isSent (be 2 unused) (encodeLane r unused) := by
  refine ⟨encodeSegmentMap r.segmentMap, encodeSegmentMap_length _, encodeSegmentMap_bit _, ?_⟩
  unfold encodeLane
  simp only [List.append_assoc]
  refine append_eq (by cases r.state <;> rfl) (append_eq rfl (append_eq (encodeDigest_eq _) ?_))
  refine append_eq rfl (append_pair_eq (encodeHistory_eq _) (append_eq rfl ?_))
  refine append_eq (encodeStaged_eq _) (append_eq (encodeDigest_eq _) (append_eq rfl ?_))
  refine append_eq (by cases r.undoDeferred <;> rfl) (append_eq (encodeLaneCommand_eq _ _) ?_)
  refine append_eq rfl (append_eq rfl (append_eq (by cases r.hold <;> rfl) (append_eq ?_ rfl)))
  cases r.lastReason <;> rfl

theorem encodeValidatorLane_eq (y : ValidatorLane) : encodeValidatorLane y = y.bytes := by
  simp only [encodeValidatorLane, encodeDelivery, ValidatorLane.bytes, List.append_assoc]
  refine append_eq rfl (append_eq rfl (append_eq (by cases y.ready <;> rfl) ?_))
  refine append_eq (by cases y.delivery.state <;> rfl) (append_eq rfl (append_eq rfl ?_))
  exact append_eq rfl (append_eq (by cases y.delivery.truncated <;> rfl) rfl)

theorem encodeValidator_eq (entry : Option (Fin 8)) (v : Validator) :
    encodeValidator entry v = v.bytes entry := by
  simp only [encodeValidator, Validator.bytes, List.append_assoc, encodeValidatorLane_eq]
  exact append_eq (by cases entry <;> rfl) (append_eq (by cases v.presence <;> rfl) rfl)

theorem SweepKind.be_code (k : SweepKind) : be 1 k.code = [k.byte] := by
  cases k <;> simp [be, SweepKind.code, SweepKind.byte]

theorem encodeSweeper_eq (w : Sweeper) (unused : BitVec 24) :
    encodeSweeper w unused = w.bytes (be 3 unused.toNat) := by
  simp only [encodeSweeper, Sweeper.bytes]
  refine append_eq (append_eq ?_ rfl)
    (congrArg (List.flatMap · (List.range 8)) (funext fun i => ?_))
  · rcases w.sweep with _ | x
    · rfl
    · simp only [encodeSweep, SweepKind.be_code]
  · rcases w.requests[i]? with _ | x
    · rfl
    · simp only [encodeRequest, SweepKind.be_code]

theorem encodeUnit_eq (s : State) : encodeUnit s =
    [s.settings.addressing.unitId] ++ be 1 (match s.ctl.cause with | .cold => 1 | .warm => 2)
    ++ (match s.ctl.command with
      | .available => [0, 0]
      | .carryingOut h _ => [1, h.code]
      | .placing a => [2, a.head.code])
    ++ be 2 s.ctl.alertNo := by
  simp only [encodeUnit, be_one]
  refine append_eq (append_eq (append_eq rfl (by cases s.ctl.cause <;> rfl)) ?_) rfl
  rcases s.ctl.command with _ | ⟨h, w⟩ | a
  · rfl
  · exact congrArg ([1] ++ ·) (be_one _)
  · exact congrArg ([2] ++ ·) (be_one _)

/-- A STANDING has the fields of section 11.3 in their order. -/
theorem State.standing_isStanding (s : State) :
    s.isStanding (encodeLane (s.lane .b) (s.unusedStream .b))
      (encodeLane (s.lane .p) (s.unusedStream .p))
      (be 3 (Config.noSweepBytes s.choices).toNat) s.standing := by
  have records : encodeValidators s =
      (List.finRange 16).flatMap fun pos => (s.validator pos).bytes s.settings.roster[pos] :=
    congrArg (List.flatMap · (List.finRange 16)) (funext fun _ => encodeValidator_eq _ _)
  have clock : be 1 s.clock.state.code =
      be 1 (match s.clock.state with | .unset => 0 | .locked => 1 | .holdover => 2) := by
    cases s.clock.state <;> rfl
  have engine : encodeEngine s.store.engine = (match s.store.engine with
      | .empty => [0, 0]
      | .applying seg _ _ | .finishing seg _ => [1] ++ be 1 (laneCode seg.lane)
      | .waiting seg _ => [2] ++ be 1 (laneCode seg.lane)) := by cases s.store.engine <;> rfl
  simp only [State.isStanding, State.standing, encodeUnit_eq, encodeSettings, encodeClock,
    encodeUplink, encodeCounters, encodeStore, encodeBus, records, encodeSweeper_eq,
    List.append_assoc]
  rw [clock, engine]
  rfl

end Sys2Proof.Machine
end

