-- ==== Sys2Proof/Laws/Steps.lean ====
section
/-! SUPPORT. What a command's `exec` is when its step is due: one rewriting for each kind of step. -/

namespace Sys2Proof.Machine

theorem exec_notice {s : State} {l : Lane} {x : Notice} (h : s.noticeAtHead l x) :
    exec .notice s = .next (s.popIngress.takeNotice l x) := by
  obtain ⟨hp, ⟨body, hb, hx⟩, hl, hw⟩ := h
  have hlen : body.length = 27 := by
    unfold parseNotice at hx
    split at hx
    · assumption
    · simp at hx
  have hst : field body 0 2 = x.stream := by
    simp only [parseNotice, hlen, if_true] at hx
    split at hx
    · simp at hx
    · simp only [Option.some.injEq] at hx
      rw [← hx]
  have h2 : (2 : Nat) ≤ 27 := by omega
  simp [exec, execNotice, State.whileRunning, hp, noticeStep, hb, streamIdOf, hlen, hst, hl, hx, hw, h2]

theorem exec_applyItem {s : State} {seg : Segment} {pos : Nat} {retry : Bool} {o : ItemOutcome}
    (h : s.applies seg pos retry) (ho : s.itemOutcome seg pos = some o) :
    exec .applyItem s = .next ((s.granted .apply).takeOutcome seg pos retry o) := by
  obtain ⟨hp, hg, he⟩ := h
  simp [exec, execApplyItem, State.whileRunning, hp, applyItemStep, hg, he, ho]

/-- The end of an item granted before its lane left STAGING (R63). -/
theorem exec_applyItem_finishing {s : State} {seg : Segment} {pos : Nat} (hp : s.power = .running)
    (he : s.store.engine = .finishing seg pos) :
    exec .applyItem s = .next ((s.finishItem seg pos).segmentAbandoned seg.lane) := by
  simp [exec, execApplyItem, State.whileRunning, hp, applyItemStep, State.nextGrant_finishing he, he]

/-- No sweep takes a step while an item is being finished (R60, R63). -/
theorem State.sweeps_not_finishing {s : State} {w : Sweep} (h : s.sweeps w) (seg : Segment)
    (pos : Nat) : s.store.engine ≠ .finishing seg pos := by
  intro he
  have hg := h.2.1
  rw [State.nextGrant_finishing he] at hg
  simp at hg

theorem exec_sweep {s : State} {w : Sweep} (h : s.sweeps w) :
    exec (commandOfSweep w.request.kind) s = .next (s.sweepStep w) := by
  obtain ⟨hp, hg, hs⟩ := h
  have hgs : s.grantedSweep = some w := by simp [State.grantedSweep, hg, hs]
  cases hk : w.request.kind <;>
    simp [commandOfSweep, exec, execRetireSlot, execUndoSlot, execReclaimSlot, execClearSlot,
      State.whileRunning, hp, retireSlotStep, undoSlotStep, reclaimSlotStep, clearSlotStep, hgs, hk]

theorem exec_scannerVisit {s : State} {pos : Fin 16} (h : s.visits pos) :
    exec .scannerVisit s = .next (s.visit pos) := by
  obtain ⟨hp, hd, hn⟩ := h
  simp [exec, execScannerVisit, State.whileRunning, hp, scannerVisitStep, hd, hn]

theorem exec_turnaroundGapEnd {s : State} {x : Addressed} {o : ExchangeOutcome} (h : s.ends x o) :
    exec .turnaroundGapEnd s = .next
      ((({ s with bus := { s.bus.countOutcome o with link := .idle } } : State).applyOutcome x
        o).settleScan) := by
  obtain ⟨hp, hl, -⟩ := h
  simp [exec, execTurnaroundGapEnd, State.whileRunning, hp, turnaroundGapEndStep, hl]

/-- A sweeper that has started one request starts no other. -/
@[simp] theorem Sweeper.start_start (w : Sweeper) : w.start.start = w.start := by
  obtain ⟨r, sw⟩ := w
  cases sw <;> cases r <;> rfl

end Sys2Proof.Machine
end

