-- ==== Sys2Proof/Laws/Weights.lean ====
section
/-! SUPPORT. The weight of a well-formed product record stays below 2^32 (R91). -/

namespace Sys2Proof.Machine

/-- Eight zones in rising order sum to no more than 248 + … + 255. -/
theorem zonesSum_le {zones : List Nat} (ordered : zones.Pairwise (· < ·))
    (small : ∀ z ∈ zones, z < 256) (few : zones.length ≤ 8) : zones.sum ≤ 2012 := by
  have h : ∀ z ∈ zones, z ≤ 255 := fun z hz => Nat.le_of_lt_succ (small z hz)
  clear small
  rcases zones with
    _ | ⟨a, _ | ⟨b, _ | ⟨c, _ | ⟨d, _ | ⟨e, _ | ⟨f, _ | ⟨g, _ | ⟨i, _ | ⟨j, t⟩⟩⟩⟩⟩⟩⟩⟩⟩
  all_goals
    simp only [List.pairwise_cons, List.mem_cons, forall_eq_or_imp, List.not_mem_nil, false_implies,
      implies_true, and_true, List.Pairwise.nil, List.sum_cons, List.sum_nil, List.length_cons,
      List.length_nil] at *
    omega

/-- The weight of a well-formed record before it is cut to 32 bits: no bit is lost. -/
theorem productWeight_le {r : ProductRecord} {last concession transfer : Nat} (h : r.fits)
    (ordered : r.zones.Pairwise (· < ·)) (hl : last ≤ 65536) (hc : concession ≤ 65536)
    (ht : transfer ≤ 255) :
    (r.code + 1) * (r.fare + 40503)
      + 977 * (r.firstDay + last + r.zones.sum + concession + transfer) ≤ 628631546 := by
  obtain ⟨code, fare, first, -, -, -, -, few, zones⟩ := h
  have sum := zonesSum_le ordered (fun z hz => (zones z hz).2) few
  have product : (r.code + 1) * (r.fare + 40503) ≤ 434331648 :=
    Nat.mul_le_mul (Nat.succ_le_succ code) (Nat.add_le_add_right (Nat.le_of_lt_succ fare) 40503)
  have all : ∀ x y : Nat, x ≤ 434331648 → y ≤ 2012 →
      x + 977 * (r.firstDay + last + y + concession + transfer) ≤ 628631546 := by omega
  exact all _ _ product sum

/-- The weight as section 5.1 writes it, with the substitutes of the fields a record leaves out. -/
theorem productWeight_toNat (r : ProductRecord) :
    (productWeight r).toNat =
      ((r.code + 1) * (r.fare + 40503)
        + 977 * (r.firstDay + r.lastDay.getD 65536 + r.zones.sum + r.concession.getD 65536
          + r.transfer.getD 0)) % 2 ^ 32 := by
  have h : r.zones.foldl (· + ·) 0 = r.zones.sum := by rw [List.sum_eq_foldl]
  simp only [productWeight, productTerms, h, BitVec.toNat_ofNat]

end Sys2Proof.Machine
end

