-- ==== Sys2Proof/WellFormed.lean ====
section
/-! DEFINITION. The checks on a command's operands. -/

namespace Sys2Proof

/-- A frame that arrives holds at least one byte (R1), and characters received are at least one
(R123). A command that fails this spells no event of the part. -/
def Instr.wellFormed : Instr → Bool
  | .frameArrival frame => !frame.isEmpty
  | .replyReceived chars => !chars.isEmpty
  | .coldReset _ | .resetAsserted => true
  | .beacon | .notice | .segmentCheck | .segmentMatch | .applyItem => true
  | .retireSlot | .undoSlot | .reclaimSlot | .clearSlot => true
  | .localSecond | .holdoverEntry => true
  | .scannerVisit | .tallySlotRead | .batchSlotRead | .broadcastSwitch => true
  | .busFrameSent | .replyStart | .replyWindowEnd | .lineIdleGap | .turnaroundGapEnd => true
  | .quietIntervalEnd | .postBroadcastGapEnd | .postResetGapEnd => true
  | .status | .setSplit | .subscribe | .setClass | .setPosition | .setTiming | .setAddressing => true
  | .events | .acknowledge | .hold | .release | .rollback | .clear => true
  | .inspect | .inspectNext | .inspectSlotRead | .save | .saveWriteComplete | .restart => true
  | .egressFrameSent | .periodicStanding => true

end Sys2Proof
end

