-- ==== Sys2Proof/Tests/Slice0.lean ====
section
/-! SUPPORT. Small tests: the checks on operands, figures of the spec's worked sequences, and for every
obligation with hypotheses a state that meets them, clause by clause. -/

namespace Sys2Proof.Tests

open Sys2Proof Sys2Proof.Machine

/-! ### Helpers -/

/-- The state after a command. -/
def after (c : Instr) (s : State) : State :=
  match exec c s with
  | .next t => t
  | .fault _ => s
  | .refused _ => s

/-- The state after reset with lane B's record replaced. -/
def laneB (r : LaneRec) : State := State.reset.setLane .b r

def setSt (s : State) (st : Settings) : State := { s with settings := st }

/-- Lane B subscribed to stream 410 and lane P to stream 411. -/
def subscribed (s : State) : State :=
  { s with settings := { s.settings with subs := { b := 410, p := 411 } } }

def message (restart : Bool) : OutboundMessage :=
  { kind := .answer, body := [], unitMac := 0, gatewayMac := 0, etherType := 0, restart := restart }

/-- A state with a number of messages on the egress queue. -/
def queued (n : Nat) (s : State) : State :=
  { s with uplink := { s.uplink with egress := List.replicate n (message false) } }

def enabled (s : State) : State :=
  { s with settings := { s.settings with enables := BitVec.allOnes 16 } }

/-- A state with one CONTROL on the control queue. -/
def ctrl (code : Byte) (args : List Byte) (s : State) : State :=
  { s with uplink := { s.uplink with
      control := [{ unitId := 0, tag := 9, code := code, args := args }] } }

def cm (code : Byte) (args : List Byte) : ControlMessage :=
  { unitId := 0, tag := 9, code := code, args := args }

def head (code : Byte) : CommandHead := { unitId := 0, tag := 9, code := code }

/-- A state with one message on the ingress queue. -/
def arrived (k : CarouselKind) (body : List Byte) (s : State) : State :=
  { s with uplink := { s.uplink with ingress := [{ kind := k, body := body }] } }

def clocked (c : ClockState) (value timer : Nat) (s : State) : State :=
  { s with clock := { value := value, state := c, debt := 0, timer := timer, rejected := 0 } }

def group : List Byte := [0xFF, 0xFF, 0xFF, 0xFF, 0xFF, 0xFF]

/-- A state at the grant of a requester. -/
def granting (r : Requester) (s : State) : State :=
  { s with store := { s.store with lastGranted :=
      match r with
      | .apply => .control
      | .sweeper => .apply
      | .scanner => .sweeper
      | .control => .scanner } }

def setV (pos : Fin 16) (v : Validator) (s : State) : State := s.setValidator pos v

def link (k : Link) (s : State) : State := s.setLink k

/-! ### The checks on operands refuse an ill-formed term -/

theorem test_wellFormed_refuses_empty_frame : (Instr.frameArrival []).wellFormed = false := rfl

theorem test_wellFormed_refuses_no_characters : (Instr.replyReceived []).wellFormed = false := rfl

theorem test_wellFormed_admits_a_byte_and_a_character :
    (Instr.frameArrival [0]).wellFormed = true
    ∧ (Instr.replyReceived [{ byte := 0, framingError := false }]).wellFormed = true := ⟨rfl, rfl⟩

theorem test_no_row_gives_bits :
    decodeTableWord 8 1 = none ∧ State.reset.withFetchWord 8 1 = State.reset := ⟨rfl, rfl⟩

/-! ### Figures of the worked sequences -/

/-- The weights of the worked sequences of chapters 2, 3 and 5. -/
theorem test_weights :
    blockWeight 805306371 5 = 166909 ∧ blockWeight 805306371 7 = 168863
    ∧ blockWeight 805306371 2 = 163978 ∧ blockWeight 536870911 0 = 2147483648
    ∧ blockWeight 268435455 7 = 1879055031 ∧ blockWeight 1000000000000 2 = 1965093990 := by decide

/-- The region of the worked sequence of chapter 3, before its segment. -/
def region20 : Memory :=
  [(0, .block { token := 805306371, priority := 5, added := 18, removed := none }),
   (1, .block { token := 268435455, priority := 7, added := 19, removed := none }),
   (3, .block { token := 536870911, priority := 0, added := 17, removed := some 20 })]

def digest20 : Digest := digestOfBlocks (region20.visibleBlocks 20)

/-- The region and digest after one item of generation 21. -/
def item21 (x : Memory × Digest) (op : BlockOp) (priority token : Nat) : Memory × Digest :=
  match applyBlockItem 21 false 100 x.1 { op := op, priority := priority, token := token } with
  | .applied m c => (m, x.2.change c)
  | _ => x

/-- Items 1 to 5 of the worked sequence of chapter 3. -/
def after5 : Memory × Digest :=
  item21 (item21 (item21 (item21 (item21 (region20, digest20) .add 7 805306371) .add 0 536870911)
    .add 2 805306371) .add 0 536870911) .drop 0 536870911

theorem test_worked_segment :
    (digest20.count = 2 ∧ digest20.sum = 1879221940) ∧
    after5.1 =
      [(0, .block { token := 805306371, priority := 5, added := 18, removed := some 21 }),
       (1, .block { token := 268435455, priority := 7, added := 19, removed := none }),
       (2, .block { token := 805306371, priority := 2, added := 21, removed := none }),
       (3, .block { token := 536870911, priority := 0, added := 17, removed := some 20 })]
    ∧ after5.2.count = 2 ∧ after5.2.sum = 1879219009
    ∧ after5.2.levels[7] = { count := 1, sum := 1879055031 }
    ∧ after5.2.levels[2] = { count := 1, sum := 163978 }
    ∧ after5.2 = digestOfBlocks (after5.1.visibleBlocks 21)
    ∧ applyBlockItem 21 false 100 after5.1 { op := .drop, priority := 0, token := 1234 } =
      .absentDrop := by decide +kernel

/-- The UNDO of 21 puts the region back. -/
theorem test_worked_undo :
    ([0, 1, 2, 3].foldl (fun m a => sweepSlot (.undo 21) [20, 19, 18] m a) after5.1) = region20 := by
  decide +kernel

/-! ### Witnesses: the queue, flags, ANSWERs, the arbiter -/

theorem test_witness_StepRunsFrontCommand :
    State.reset.pending = []
    ∧ step { State.reset with pending := [.localSecond] } = exec .localSecond State.reset :=
  ⟨rfl, rfl⟩

theorem test_witness_EveryCommandAnswersNext :
    (after .resetAsserted State.reset).power = .heldInReset
    ∧ after .localSecond (after .resetAsserted (clocked .locked 5 0 State.reset))
      = after .resetAsserted (clocked .locked 5 0 State.reset) := by decide

/-- Each clause, at 7 and at 8 messages. -/
theorem test_witness_RiseSetsFlagAndMakesAlert :
    (State.reset.settings.enables.getLsbD EventFlag.holdover.number = false)
    ∧ ((queued 7 (enabled State.reset)).settings.enables.getLsbD EventFlag.holdover.number = true
      ∧ (queued 7 (enabled State.reset)).uplink.egress.length < 8
      ∧ ((queued 7 (enabled State.reset)).rise .holdover {}).uplink.egress.length = 8)
    ∧ (8 ≤ (queued 8 (enabled State.reset)).uplink.egress.length
      ∧ ((queued 8 (enabled State.reset)).rise .holdover {}).uplink.counters.alertsDropped = 1
      ∧ ((queued 8 (enabled State.reset)).rise .holdover {}).ctl.alertNo = 1) := by decide

def waitingAnswer : PendingAnswer :=
  { head := head 17, body := [1], addressing := none, restart := true }

theorem test_witness_AnswersArePlacedInTurn :
    ((queued 7 State.reset).answer (head 8) .done [5]).ctl.command = .available
    ∧ ((queued 8 State.reset).answer (head 8) .done [5]).ctl.command =
      .placing { head := head 8, body := [0, 9, 8, 0, 5], addressing := none, restart := false }
    ∧ (after .egressFrameSent (queued 8 State.reset)).uplink.egress.length = 7
    ∧ (after .egressFrameSent
        { queued 8 State.reset with
          ctl := { State.reset.ctl with command := .placing waitingAnswer } }).ctl.command =
      .carryingOut (head 17) .restart := by decide

/-! ### Witnesses: resets and the settings memory -/

def savedWith (number : Nat) (enables : BitVec 16) : SavedRecord :=
  { settings := { Settings.default 7 with enables := enables }, number := number }

/-- A saved record whose roster is VACANT throughout. -/
def savedVacant : SavedRecord :=
  { settings := { Settings.default 7 with roster := Vector.replicate 16 none }, number := 1 }

def memoryOf (a b : Option SavedRecord) : SettingsMemory :=
  { place1 := a, place2 := b, lastPlace := none }

/-- A cold reset with RESTARTED off, and with it on; round 0 of a roster, and of one that is empty. -/
theorem test_witness_ColdResetValues :
    ((after (.coldReset 0x17) (after .resetAsserted State.reset)).settings.addressing.unitId = 0x17)
    ∧ (after (.coldReset 0x17) (after .resetAsserted State.reset)).uplink.egress = []
    ∧ (let t := after (.coldReset 0x17)
        { State.reset with
          power := .heldInReset, settingsMemory := memoryOf (some (savedWith 1 0x8000)) none };
      t.uplink.egress.map OutboundMessage.body =
        [[7, 0, 1, 15, 0, 0, 0, 0, 0, 1, 0, 0, 0x80, 0, 0, 0, 0, 0, 0]]
      ∧ t.settingsMemory.lastPlace = some .first ∧ t.scan.phase = .visiting)
    ∧ (after (.coldReset 0) { State.reset with
        power := .heldInReset, settingsMemory := memoryOf none (some savedVacant) }).scan.phase =
      .paused 1000 := by decide

theorem test_witness_ColdResetLoadsLatestRecord :
    ((memoryOf (some (savedWith 1 2)) none).load 0).enables = 2
    ∧ ((memoryOf none (some (savedWith 1 2))).load 0).enables = 2
    ∧ ((memoryOf (some (savedWith 1 2)) (some (savedWith 65535 3))).load 0).enables = 2
    ∧ ((memoryOf (some (savedWith 65535 2)) (some (savedWith 1 3))).load 0).enables = 3
    ∧ ((memoryOf (some (savedWith 65535 2)) (some (savedWith 65534 3))).load 0).enables = 2
    ∧ ((memoryOf (some (savedWith 1 2)) (some (savedWith 2 3))).load 0).enables = 3
    ∧ (memoryOf none none).load 5 = Settings.default 5
    ∧ (memoryOf none (some (savedWith 1 2))).newest = some .second
    ∧ (memoryOf (some (savedWith 1 2)) (some (savedWith 65535 3))).newest = some .first
    ∧ (memoryOf none none).newest = none := by decide

/-- A state with a SAVE to the first place in flight. -/
def saving : State :=
  { State.reset with
    ctl := { State.reset.ctl with command := .carryingOut (head 16) (.save .first (savedWith 1 2)) } }

theorem test_saving_is_a_save : saving.savingTo .first (savedWith 1 2) := ⟨_, rfl⟩

theorem test_not_saving (p : Place) (r : SavedRecord) : ¬ State.reset.savingTo p r := by
  rintro ⟨h, e⟩
  simp [State.reset] at e

theorem test_witness_ResetAssertedEndsEveryOperation :
    saving.power = .running ∧ State.reset.power = .running
    ∧ (after .resetAsserted (queued 3 State.reset)).uplink.egress = []
    ∧ (after .resetAsserted State.reset).settingsMemory = State.reset.settingsMemory := by decide

theorem test_witness_CommandsTouchOnlyTheirBlocks :
    (after .localSecond saving).settingsMemory = saving.settingsMemory
    ∧ (after .saveWriteComplete saving).settingsMemory.place1 = some (savedWith 1 2)
    ∧ (after .saveWriteComplete State.reset).settingsMemory = State.reset.settingsMemory
    ∧ (after .resetAsserted State.reset).scan.phase = State.reset.scan.phase
    ∧ (after .hold (ctrl 10 [1] State.reset)).uplink.egress.length = 1
    ∧ (after .hold (ctrl 10 [1] State.reset)).scan = State.reset.scan
    ∧ (after .scannerVisit State.reset).uplink = State.reset.uplink := by decide

def staged (g b n e : Nat) : StagedNotice := { g := g, b := b, n := n, count := 0, sum := 0, e := e }

def record (state : LaneState) (active : Nat) (n : Option StagedNotice) : LaneRec :=
  { LaneRec.cold with state := state, active := active, staged := n }

/-- A state about to send the ANSWER of a RESTART, its lanes as given. -/
def restarting (b p : LaneRec) : State :=
  { State.reset with
    uplink := { State.reset.uplink with egress := [message true] },
    lanes := { b := b, p := p } }

/-- Lanes both IDLE, one not, and both not. -/
theorem test_witness_WarmResetValues :
    ((after .egressFrameSent (restarting LaneRec.cold LaneRec.cold)).sweeper.sweep = none
      ∧ (after .egressFrameSent (restarting LaneRec.cold LaneRec.cold)).ctl.cause = .warm)
    ∧ (after .egressFrameSent
        (restarting (record .staging 4 (some (staged 5 4 1 0))) LaneRec.cold)).sweeper.sweep =
      some { request := { lane := .b, kind := .undo 5, waiter := false }, cursor := 0 }
    ∧ ((after .egressFrameSent (restarting (record .staging 4 (some (staged 5 4 1 0)))
          (record .ready 2 (some (staged 3 0 1 0))))).sweeper.requests =
        [{ lane := .p, kind := .undo 3, waiter := false }])
    ∧ (after .egressFrameSent (enabled (restarting LaneRec.cold LaneRec.cold))).ctl.alertNo = 1 := by
  decide

/-! ### Witnesses: the uplink port -/

/-- The bytes of a frame before its check sequence. -/
def frontOf (destination payload : List Byte) : List Byte :=
  destination ++ [1, 2, 3, 4, 5, 6] ++ [0x88, 0xB5] ++ padTo 46 payload

/-- The frame with those bytes. -/
def frameOf (front : List Byte) : List Byte := front ++ fcsBytes front

def beaconFront : List Byte := frontOf group (envelope 3 (be 4 9))

def controlFront (unit : Byte) : List Byte := frontOf group (envelope 4 [unit, 9, 1])

/-- Every such frame passes the frame check; its payload and fields are those of its front. -/
theorem test_frameOf_checked (front : List Byte) (h : 60 ≤ front.length) :
    64 ≤ (frameOf front).length
    ∧ (frameOf front).drop ((frameOf front).length - 4) =
      fcsBytes ((frameOf front).take ((frameOf front).length - 4)) := by
  have h4 : (fcsBytes front).length = 4 := by simp [fcsBytes, be_length]
  have hl : (frameOf front).length - 4 = front.length := by simp [frameOf, h4]
  rw [hl]
  simp [frameOf, h4]; omega

theorem test_frameOf_payload (front : List Byte) (h : 14 ≤ front.length) :
    ((frameOf front).drop 14).take ((frameOf front).length - 18) = front.drop 14 := by
  have h4 : (fcsBytes front).length = 4 := by simp [fcsBytes, be_length]
  have hl : (frameOf front).length - 18 = (front.drop 14).length := by simp [frameOf, h4]
  rw [hl, frameOf, List.drop_append_of_le_length h, List.take_left]

theorem test_frameOf_field (front : List Byte) (o n : Nat) (h : o + n ≤ front.length) :
    field (frameOf front) o n = field front o n := by
  simp only [field, frameOf]
  rw [List.drop_append_of_le_length (by omega), List.take_append_of_le_length (by simp; omega)]

/-- The figure of the frame check sequence over 60 zero bytes. -/
theorem test_fcs_of_zeros : fcsBytes (List.replicate 60 0) = [8, 137, 18, 4] := by
  have e : List.replicate 60 (0 : Byte) = List.replicate 30 0 ++ List.replicate 30 0 := rfl
  have h1 : (List.replicate 30 (0 : Byte)).foldl fcsByte (BitVec.allOnes 32) = 0xFFFBC14A#32 := by
    decide +kernel
  have h2 : (List.replicate 30 (0 : Byte)).foldl fcsByte 0xFFFBC14A#32 = 0xFBED76F7#32 := by
    decide +kernel
  simp only [fcsBytes, fcs, e, List.foldl_append, h1, h2]
  decide

/-- The addresses and EtherType of a front are those of a unit after reset. -/
def ours (front : List Byte) : Bool :=
  let a := State.reset.settings.addressing
  (field front 0 6 == a.unitMac.toNat || field front 0 6 == a.groupMac.toNat)
    && field front 12 2 == a.etherType.toNat

/-- A payload's kind and length are those of a message of the uplink. -/
def sound (payload : List Byte) : Bool :=
  let kind := field payload 0 1
  let n := field payload 1 2
  1 ≤ kind && kind ≤ 7
    && (payload.length == 3 + n || (3 + n < 46 && payload.length == 46)) && (kind != 4 || 3 ≤ n)

/-- A short frame, and 64 bytes with a bad check sequence. -/
theorem test_witness_RefusedFrameIsCountedOnce :
    (after (.frameArrival (List.replicate 63 0)) State.reset).uplink.counters.checkFailures = 1
    ∧ (let f : List Byte := List.replicate 64 0;
      f.drop (f.length - 4) ≠ fcsBytes (f.take (f.length - 4))) := by
  refine ⟨by decide, ?_⟩
  intro f
  have e : fcsBytes (f.take (f.length - 4)) = [8, 137, 18, 4] := test_fcs_of_zeros
  rw [e]; decide

/-- Fronts of a foreign address and of a foreign EtherType; of a bad kind, a bad length, bad padding and a
short CONTROL; of an outbound kind and of another unit's CONTROL. -/
theorem test_witness_refused_fronts :
    [frontOf [2, 0, 0, 0, 0, 1] (envelope 3 (be 4 9)),
        group ++ [1, 2, 3, 4, 5, 6] ++ [0x08, 0x00] ++ padTo 46 (envelope 3 (be 4 9))].all
        (fun f => f.length == 60 && !ours f) = true
    ∧ [envelope 9 [], [3, 0, 60] ++ be 4 9, [3, 0, 4] ++ List.replicate 44 0, envelope 4 [0, 9]].all
        (fun payload =>
          let f := frontOf group payload
          60 ≤ f.length && ours f && !sound (f.drop 14)) = true
    ∧ [frontOf group (envelope 6 []), frontOf group (envelope 5 [1]), controlFront 1].all
        (fun f => f.length == 60 && ours f && sound (f.drop 14)
          && (5 ≤ field f 14 1 || (field f 14 1 == 4 && field f 17 1 != 0))) = true := by decide

/-- A state with messages on both inbound queues. -/
def crowded (ingress control : Nat) : State :=
  { State.reset with uplink := { State.reset.uplink with
      ingress := List.replicate ingress { kind := .beacon, body := [] },
      control := List.replicate control (cm 1 []) } }

/-- A padded BEACON, an unpadded SEGMENT and a CONTROL of the unit; 15 and 16 messages, 3 and 4
CONTROLs. -/
theorem test_witness_AcceptedFrameQueuedOrDropped :
    [beaconFront, frontOf group (envelope 2 (List.replicate 43 7)), controlFront 0].all
        (fun f => f.length == 60 && ours f) = true
    ∧ beaconFront.drop 14 = be 1 3 ++ be 2 4 ++ be 4 9 ++ List.replicate 39 0
    ∧ (frontOf group (envelope 2 (List.replicate 43 7))).drop 14 =
      be 1 2 ++ be 2 43 ++ List.replicate 43 7 ++ []
    ∧ (controlFront 0).drop 14 = be 1 4 ++ be 2 3 ++ [0, 9, 1] ++ List.replicate 40 0
    ∧ ((cm 1 []).unitId = State.reset.settings.addressing.unitId
      ∧ [(cm 1 []).unitId, (cm 1 []).tag, (cm 1 []).code] ++ (cm 1 []).args = [0, 9, 1])
    ∧ (crowded 15 0).uplink.ingress.length < 16 ∧ 16 ≤ (crowded 16 0).uplink.ingress.length
    ∧ (crowded 0 3).uplink.control.length < 4 ∧ 4 ≤ (crowded 0 4).uplink.control.length := by
  decide

/-! ### Witnesses: the head of the ingress queue -/

/-- A body of 3 bytes; a first beacon; a step of 0; a hold of 600; and 601 behind. -/
theorem test_witness_beacon :
    (arrived .beacon [0, 0, 9] State.reset).headOf .beacon = some [0, 0, 9]
    ∧ (after .beacon (arrived .beacon [0, 0, 9] State.reset)).uplink.counters.malformed = 1
    ∧ (after .beacon (arrived .beacon (be 4 7) State.reset)).clock.value = 7
    ∧ (after .beacon (arrived .beacon (be 4 1000) (clocked .holdover 1000 300 State.reset))).clock
      = { value := 1000, state := .locked, debt := 0, timer := 0, rejected := 0 }
    ∧ (after .beacon (arrived .beacon (be 4 400) (clocked .locked 1000 5 State.reset))).clock
      = { value := 1000, state := .locked, debt := 600, timer := 0, rejected := 0 }
    ∧ (after .beacon (arrived .beacon (be 4 399) (clocked .locked 1000 5 State.reset))).clock
      = { value := 1000, state := .locked, debt := 0, timer := 5, rejected := 1 } := by decide

/-- The body of a NOTICE. -/
def noticeBody (kind g b n e newest oldest : Nat) : List Byte :=
  be 2 410 ++ be 1 kind ++ be 3 g ++ be 3 b ++ be 2 n ++ be 2 0 ++ be 4 0 ++ be 4 e ++ be 3 newest
    ++ be 3 oldest

def noticeOf (kind : Lane) (g b n e newest oldest : Nat) : Notice :=
  { stream := 410, kind := kind, g := g, b := b, n := n, count := 0, sum := 0, e := e,
    newest := newest, oldest := oldest }

/-- The body of a NOTICE of stream 410 by its form alone. -/
def formed (kind g b n count newest oldest : Nat) : List Byte :=
  be 2 410 ++ be 1 kind ++ be 3 g ++ be 3 b ++ be 2 n ++ be 2 count ++ be 4 0 ++ be 4 0
    ++ be 3 newest ++ be 3 oldest

/-- The body of a SEGMENT of stream 410. -/
def segmentBody (g b index count : Nat) (items : List Byte) : List Byte :=
  be 2 410 ++ be 3 g ++ be 3 b ++ be 2 index ++ be 1 count ++ items

/-- Lane P subscribed to stream 410. -/
def subscribedP (s : State) : State :=
  { s with settings := { s.settings with subs := { b := 0, p := 410 } } }

def malformedBy (c : Instr) (s : State) : Bool := (after c s).uplink.counters.malformed == 1

def itemBytes (op : Nat) : List Byte := be 1 op ++ be 1 3 ++ be 7 77

/-- One body for each way of leaving the queue. -/
theorem test_witness_HeadIsFilteredAndChecked :
    (after .notice (arrived .notice [1] State.reset)).uplink.counters.malformed = 1
    ∧ (after .notice (arrived .notice [1, 0] State.reset)).uplink.counters.passedOver = 1
    ∧ (after .notice (arrived .notice [1, 0x9A] (subscribed State.reset))).uplink.counters.malformed
      = 1
    ∧ (parseNotice (noticeBody 1 0 0 1 0 1 0) = some (noticeOf .b 0 0 1 0 1 0)
      ∧ noticeWellFormed .b 57344 (noticeOf .b 0 0 1 0 1 0) = false)
    ∧ (after .segmentCheck (arrived .segment [1] State.reset)).uplink.counters.malformed = 1
    ∧ (after .segmentCheck (arrived .segment [1, 0] State.reset)).uplink.counters.passedOver = 1
    ∧ (after .segmentCheck (arrived .segment [1, 0x9A] (subscribed State.reset))
      ).uplink.counters.malformed = 1 := by decide

/-- A NOTICE that fails each test of R10 by one, and two that pass them all at their bounds. -/
theorem test_witness_malformed_notices :
    [formed 1 5 4 1 0 5 3 ++ [0], formed 2 5 4 1 0 5 3, formed 1 0 0 1 0 5 3, formed 1 5 4 0 0 5 3,
      formed 1 5 4 1025 0 5 3, formed 1 5 3 1 0 5 3, formed 1 5 4 1 0 4 3, formed 1 5 4 1 0 5 5,
      formed 1 5 4 1 57345 5 3].all
        (fun body => malformedBy .notice (arrived .notice body (subscribed State.reset))) = true
    ∧ malformedBy .notice (arrived .notice (formed 2 5 4 1 0 5 3) (subscribedP State.reset)) = true
    ∧ ((after .notice (arrived .notice (formed 1 5 4 1024 57344 5 4) (subscribed State.reset))).lane
      .b).viewNewest = 5
    ∧ ((after .notice (arrived .notice (formed 2 5 0 1 8192 5 0) (subscribedP State.reset))).lane
      .p).state = .retiring := by decide

/-- A SEGMENT too short, or with a figure out of its range by one, on both lanes; and one that stays to
be matched, on each lane. -/
theorem test_witness_malformed_segments :
    [segmentBody 5 4 0 1 [], (segmentBody 5 4 0 1 []).take 10, segmentBody 0 0 0 1 (itemBytes 1),
      segmentBody 5 3 0 1 (itemBytes 1), segmentBody 5 4 1024 1 (itemBytes 1),
      segmentBody 5 4 0 0 [], segmentBody 5 4 0 2 (itemBytes 1), segmentBody 5 4 0 1 (itemBytes 3),
      segmentBody 5 4 0 1 (itemBytes 1 ++ [0])].all
        (fun body => malformedBy .segmentCheck (arrived .segment body (subscribed State.reset))) = true
    ∧ [be 2 4096 ++ be 1 0 ++ be 2 0 ++ be 2 0 ++ be 1 1 ++ be 1 9,
        be 2 9 ++ be 1 8 ++ be 2 0 ++ be 2 0 ++ be 1 1 ++ be 1 9,
        be 2 9 ++ be 1 4 ++ be 2 0 ++ be 2 0 ++ be 1 0 ++ be 1 1 ++ be 1 9,
        be 2 9 ++ be 1 0 ++ be 2 0 ++ be 2 0 ++ be 1 0,
        be 2 9 ++ be 1 0 ++ be 2 0 ++ be 2 0 ++ be 1 1 ++ be 1 0].all
          (fun r => malformedBy .segmentCheck
            (arrived .segment (segmentBody 5 0 0 1 r) (subscribedP State.reset))) = true
    ∧ (after .segmentCheck (arrived .segment (segmentBody 5 4 1023 1 (itemBytes 1))
        (subscribed State.reset))).uplink.checkedHead =
      some { stream := 410, g := 5, b := 4, index := 1023,
             items := .block [{ op := .add, priority := 3, token := 77 }] }
    ∧ (after .segmentCheck (arrived .segment (segmentBody 5 0 0 1
        (be 2 4095 ++ be 1 0 ++ be 2 0 ++ be 2 0 ++ be 1 1 ++ be 1 9)) (subscribedP State.reset))
      ).uplink.checkedHead.isSome = true := by decide

/-- A state with a NOTICE of lane B at the head and lane B's record as given. -/
def noticed (r : LaneRec) (g b n e newest oldest : Nat) : State :=
  subscribed (arrived .notice (noticeBody 1 g b n e newest oldest) (laneB r))

theorem test_noticed (r : LaneRec) :
    (noticed r 5 4 1 0 5 3).noticeAtHead .b (noticeOf .b 5 4 1 0 5 3)
    ∧ (noticed r 5 0 1 0 5 0).noticeAtHead .b (noticeOf .b 5 0 1 0 5 0)
    ∧ (noticed r 5 4 2 0 5 3).noticeAtHead .b (noticeOf .b 5 4 2 0 5 3)
    ∧ (noticed r 5 4 1 0 5 0).noticeAtHead .b (noticeOf .b 5 4 1 0 5 0) :=
  ⟨⟨rfl, ⟨_, rfl, rfl⟩, rfl, rfl⟩, ⟨rfl, ⟨_, rfl, rfl⟩, rfl, rfl⟩, ⟨rfl, ⟨_, rfl, rfl⟩, rfl, rfl⟩,
    ⟨rfl, ⟨_, rfl, rfl⟩, rfl, rfl⟩⟩

/-- A delta, an image, a stale NOTICE, a delta of another base, and the image of lane P. -/
theorem test_witness_IdleLaneJudgesNotices :
    ((after .notice (noticed (record .idle 4 none) 5 4 1 0 5 3)).lane .b).state = .staging
    ∧ ((after .notice (noticed (record .idle 4 none) 5 0 1 0 5 0)).lane .b).state = .retiring
    ∧ (after .notice (noticed (record .idle 5 none) 5 4 1 0 5 3)).uplink.counters.passedOver = 1
    ∧ ((after .notice (noticed (record .idle 3 none) 5 4 1 0 5 3)).lane .b) =
      { record .idle 3 none with viewNewest := 5, viewOldest := 3 }
    ∧ (let s := (arrived .notice (noticeBody 2 5 0 1 0 5 3) State.reset);
      ((after .notice { s with settings := { s.settings with subs := { b := 0, p := 410 } } }).lane
        .p).state = .retiring) := by decide

/-- Overtaken in both forms, revised, and a staging that stands. -/
theorem test_witness_OvertakenOrRevisedIsDiscarded :
    ((after .notice (noticed (record .staging 4 (some (staged 5 4 1 0))) 5 4 1 0 5 0)).lane
      .b).lastReason = .overtaken
    ∧ ((after .notice (noticed (record .retiring 2 (some (staged 4 0 1 0))) 5 4 1 0 5 3)).lane
      .b).undoDeferred = true
    ∧ ((after .notice (noticed (record .staging 4 (some (staged 5 4 1 0))) 5 4 2 0 5 3)).lane
      .b).lastReason = .revised
    ∧ ((after .notice (noticed (record .staging 4 (some (staged 5 4 1 0))) 5 4 1 0 5 3)).lane
      .b).state = .staging := by decide

/-- A segment of generation 5 with one item. -/
def oneItem (index : Nat) : Segment :=
  { stream := 410, g := 5, b := 4, index := index,
    items := .block [{ op := .add, priority := 3, token := 77 }] }

/-- The state of an overtaken staging with a segment in the engine. -/
def overtakenWith (e : Engine) : State :=
  (noticed (record .staging 4 (some (staged 5 4 1 0))) 5 4 1 0 5 0).setEngine e

/-- A waiting segment; an item behind another grant; one next to be granted, by the free value; and a
segment of the other lane. -/
theorem test_witness_overtaken_segment :
    (after .notice (overtakenWith (.waiting (oneItem 0) 0))).store.engine = .empty
    ∧ (let s := overtakenWith (.applying (oneItem 0) 0 false);
      let behind : State := { s with
        store := { s.store with lastGranted := .sweeper },
        scan := { s.scan with read := some .tally } };
      behind.nextGrant ≠ some .apply ∧ (after .notice behind).store.engine = .empty
      ∧ s.nextGrant = some .apply
      ∧ (s.abandonSegment .b).store.engine =
        if Config.itemGrantedFirst s.choices then .finishing (oneItem 0) 0 else .empty)
    ∧ (let other : Segment := { oneItem 0 with items := .product [] };
      (after .notice (overtakenWith (.applying other 0 false))).store.engine =
        .applying other 0 false) := by
  refine ⟨by decide, ⟨by decide, by decide, by decide, ?_⟩, by decide⟩
  have h := State.abandonSegment_granted
    (s := overtakenWith (.applying (oneItem 0) 0 false)) rfl (by decide)
  rw [show Lane.b = (oneItem 0).lane from rfl, h]
  split <;> rfl

theorem test_witness_ReadyOrDiscardingTakesOnlyTheView :
    ((after .notice (noticed (record .ready 4 (some (staged 5 4 1 9))) 5 4 2 0 5 0)).lane .b) =
      { record .ready 4 (some (staged 5 4 1 9)) with viewNewest := 5, viewOldest := 0 }
    ∧ (after .notice (noticed (record .discarding 5 none) 5 4 1 0 5 3)).uplink.counters.passedOver
      = 1 := by decide

/-- A state with a checked SEGMENT at the head. -/
def matching (r : LaneRec) (seg : Segment) : State :=
  let s := noticed r 5 4 1 0 5 3
  { s with uplink := { s.uplink with checkedHead := some seg } }

/-- The five rows of the table; index 0 of 1 and index 1 of 1. -/
theorem test_witness_SegmentMatchTable :
    (after .segmentMatch (matching (record .idle 4 none) (oneItem 0))).uplink.counters.passedOver = 1
    ∧ (after .segmentMatch (matching (record .staging 4 (some (staged 6 5 1 0))) (oneItem 0))
      ).uplink.counters.passedOver = 1
    ∧ (after .segmentMatch (matching (record .staging 4 (some (staged 5 4 1 0))) (oneItem 1))
      ).uplink.counters.malformed = 1
    ∧ ((after .segmentMatch (matching
        { record .staging 4 (some (staged 5 4 1 0)) with segmentMap := [0] } (oneItem 0))).lane
      .b).repeats = 1
    ∧ (after .segmentMatch (matching (record .staging 4 (some (staged 5 4 1 0))) (oneItem 0))
      ).store.engine = .applying (oneItem 0) 0 false := by decide

/-! ### Witnesses: the apply engine and the entry store -/

def addItem (priority token : Nat) : BlockItem := { op := .add, priority := priority, token := token }

def dropItem (token : Nat) : BlockItem := { op := .drop, priority := 0, token := token }

def segOf (items : List BlockItem) : Segment :=
  { stream := 410, g := 5, b := 4, index := 0, items := .block items }

def entry (token : Nat) (priority : Fin 8) (added : Nat) (removed : Option Nat) : Entry :=
  .block { token := token, priority := priority, added := added, removed := removed }

def storing (m : Memory) (free : Nat) (s : State) : State :=
  { s with store := { s.store with regions := { b := m, p := [] }, free := { b := free, p := 8192 } } }

/-- Lane B stages generation 5 on ACTIVE 4, with a total of `n` segments. -/
def staging5 (n : Nat) : LaneRec := record .staging 4 (some (staged 5 4 n 0))

/-- A state whose engine is at an item of a segment of lane B. -/
def applyingB (r : LaneRec) (m : Memory) (free : Nat) (items : List BlockItem) (pos : Nat)
    (retry : Bool) : State :=
  (storing m free (laneB r)).setEngine (.applying (segOf items) pos retry)

theorem test_applyingB (r : LaneRec) (m : Memory) (free : Nat) (items : List BlockItem) (pos : Nat)
    (retry : Bool) :
    (applyingB r m free items pos retry).applies (segOf items) pos retry := ⟨rfl, rfl, rfl⟩

theorem test_witness_BlocklistItemOutcomes :
    applyBlockItem 5 false 1 [] (addItem 3 0) = .contentError
    ∧ applyBlockItem 5 false 1 [] (addItem 8 77) = .contentError
    ∧ applyBlockItem 5 true 1 [] (dropItem 77) = .contentError
    ∧ applyBlockItem 5 true 0 [] (addItem 7 77) = .noSlot
    ∧ applyBlockItem 5 true 1 [] (addItem 7 77) =
      .applied [(0, entry 77 7 5 none)] (.blockIn 77 7)
    ∧ applyBlockItem 5 false 0 [(0, entry 77 7 4 none)] (addItem 7 77) = .duplicate
    ∧ applyBlockItem 5 false 0 [(0, entry 77 7 5 none)] (addItem 0 77) =
      .applied [(0, entry 77 0 5 none)] (.relevel 77 7 0)
    ∧ applyBlockItem 5 false 0 [(0, entry 77 7 4 none)] (addItem 0 77) = .noSlot
    ∧ applyBlockItem 5 false 1 [(0, entry 77 7 4 none)] (addItem 0 77) =
      .applied [(0, entry 77 7 4 (some 5)), (1, entry 77 0 5 none)] (.relevel 77 7 0)
    ∧ applyBlockItem 5 false 0 [] (dropItem 77) = .absentDrop
    ∧ applyBlockItem 5 false 0 [(0, entry 77 7 5 none)] (dropItem 77) = .applied [] (.blockOut 77 7)
    ∧ applyBlockItem 5 false 0 [(0, entry 77 7 4 none)] (dropItem 77) =
      .applied [(0, entry 77 7 4 (some 5))] (.blockOut 77 7)
    ∧ Memory.wf [(0, entry 77 7 4 none)] = true := by decide

def product (code : Nat) (zones : List Nat) : ProductRecord :=
  { code := code, fare := 250, concession := some 125, firstDay := 10, lastDay := some 20,
    transfer := none, zones := zones }

def headOf (added : Nat) (tail : Option Nat) : Entry :=
  .head
    { code := 9, fare := 250, concession := some 125, firstDay := 10, lastDay := some 20,
      transfer := none, zoneCount := 5, zones := [1, 2, 3, 4], added := added, removed := none,
      tail := tail }

/-- A record of five zones: a head and its tail. -/
def fiveZones : Memory := [(0, headOf 5 (some 1)), (1, .tail { zones := [5], head := 0 })]

theorem test_witness_ProductRecordOutcomes :
    applyRecord 5 2 [] (product 0 [1]) = .contentError
    ∧ applyRecord 5 2 [] (product 9 [2, 2]) = .contentError
    ∧ applyRecord 5 2 [] { product 9 [1] with lastDay := some 9 } = .contentError
    ∧ applyRecord 5 2 fiveZones (product 9 [1]) = .contentError
    ∧ applyRecord 5 0 [] (product 9 [1, 2, 3, 4]) = .noSlot
    ∧ applyRecord 5 1 [] (product 9 [1, 2, 3, 4, 5]) = .noSlot
    ∧ (match applyRecord 5 1 [] (product 9 [1, 2, 3, 4]) with
      | .applied m _ => m.length
      | _ => 0) = 1
    ∧ applyRecord 5 2 [] (product 9 [1, 2, 3, 4, 5]) =
      .applied fiveZones (.recordIn (productWeight (product 9 [1, 2, 3, 4, 5])))
    ∧ [1, 2, 3, 4].Pairwise (· < ·) := by decide

/-- Applied, duplicate and absent drop with one item to come. -/
theorem test_witness_AppliedItemGoesOn :
    (let items := [addItem 3 77, addItem 3 78];
      0 + 1 < (segOf items).size
      ∧ (applyingB (staging5 1) [] 57344 items 0 false).itemOutcome (segOf items) 0 =
        some (.applied [(0, entry 77 3 5 none)] (.blockIn 77 3))
      ∧ (applyingB (staging5 1) [(0, entry 77 3 4 none)] 57343 items 0 false).itemOutcome
        (segOf items) 0 = some .duplicate
      ∧ (after .applyItem (applyingB (staging5 1) [] 57344 items 0 false)).store.free.b = 57343)
    ∧ (let items := [dropItem 77, addItem 3 78];
      (applyingB (staging5 1) [] 57344 items 0 false).itemOutcome (segOf items) 0 =
        some .absentDrop) := by decide

/-- A state whose engine finishes an item of a lane that discards. -/
def finishing (cmd : Option LaneCommand) (m : Memory) (free : Nat) (items : List BlockItem) : State :=
  (storing m free (laneB { record .discarding 4 (some (staged 5 4 1 0)) with pendingCommand := cmd })
    ).setEngine (.finishing (segOf items) 0)

/-- The end of an item in hand, applied and not, with no command, a ROLLBACK and a CLEAR pending; and
the arbiter, which serves nothing else. -/
theorem test_witness_finishing_item :
    (let s := finishing none [] 57344 [addItem 3 77];
      s.itemOutcome (segOf [addItem 3 77]) 0 =
        some (.applied [(0, entry 77 3 5 none)] (.blockIn 77 3))
      ∧ s.nextGrant = some .apply ∧ State.reset.nextGrant = none
      ∧ (after .applyItem s).store.free.b = 57343 ∧ (after .applyItem s).store.engine = .empty
      ∧ (after .applyItem s).sweeper.sweep.map Sweep.request =
        some { lane := .b, kind := .undo 5, waiter := false })
    ∧ (let s := finishing (some .rollback) [] 0 [addItem 3 77];
      s.itemOutcome (segOf [addItem 3 77]) 0 = some .noSlot
      ∧ (after .applyItem s).region .b = []
      ∧ (after .applyItem s).sweeper.sweep.map Sweep.request =
        some { lane := .b, kind := .undo 5, waiter := false })
    ∧ (after .applyItem (finishing (some .clear) [] 57344 [addItem 3 77])).sweeper.sweep.map
        Sweep.request = some { lane := .b, kind := .clear, waiter := false } := by decide

/-- A warm reset while an item is in hand, waits, and is next to be granted. -/
theorem test_witness_WarmResetValues_engine :
    (let s := restarting (record .discarding 4 (some (staged 5 4 1 0))) LaneRec.cold;
      (after .egressFrameSent (s.setEngine (.finishing (segOf [addItem 3 77]) 0))).region .b =
        [(0, entry 77 3 5 none)]
      ∧ (after .egressFrameSent (s.setEngine (.finishing (segOf [addItem 3 77]) 0))).store.engine =
        .empty)
    ∧ (let s := restarting (staging5 1) LaneRec.cold;
      (after .egressFrameSent (s.setEngine (.waiting (segOf [addItem 3 77]) 0))).region .b = []
      ∧ (s.setEngine (.applying (segOf [addItem 3 77]) 0 false)).nextGrant = some .apply) := by decide

def noticed77 (n count : Nat) : StagedNotice :=
  { staged 5 4 n 9 with count := count, sum := blockWeight 77 3 }

/-- The map not full; READY, for the effective time or for the hold; a count that differs. -/
theorem test_witness_LastItemIsVerified :
    (let items := [addItem 3 77];
      let at1 (n count : Nat) (hold : Bool) : State := applyingB
        { record .staging 4 (some (noticed77 n count)) with hold := hold } [] 57344 items 0 false;
      0 + 1 = (segOf items).size
      ∧ (at1 2 1 false).itemOutcome (segOf items) 0 =
        some (.applied [(0, entry 77 3 5 none)] (.blockIn 77 3))
      ∧ ((after .applyItem (at1 2 1 false)).lane .b).state = .staging
      ∧ ((after .applyItem (at1 1 1 false)).lane .b).state = .ready
      ∧ ((after .applyItem (at1 1 1 true)).lane .b).state = .ready
      ∧ ((after .applyItem (at1 1 2 false)).lane .b).lastReason = .digest
      ∧ ((after .applyItem (at1 1 2 false)).lane .b).floor = 5) := by decide

/-- A last item that is a duplicate and one that is an absent drop; READY at once activated. -/
theorem test_witness_last_items_and_activation :
    (let items := [addItem 3 77];
      let s := applyingB (staging5 2) [(0, entry 77 3 5 none)] 57343 items 0 false;
      s.itemOutcome (segOf items) 0 = some .duplicate
      ∧ ((after .applyItem s).lane .b).duplicates = 1
      ∧ ((after .applyItem s).lane .b).segmentMap = [0])
    ∧ (let items := [dropItem 77];
      let s := applyingB (staging5 2) [] 57344 items 0 false;
      s.itemOutcome (segOf items) 0 = some .absentDrop
      ∧ ((after .applyItem s).lane .b).absentDrops = 1)
    ∧ (let n := { noticed77 1 1 with e := 0 };
      let s := applyingB (record .staging 4 (some n)) [] 57344 [addItem 3 77] 0 false;
      ((after .applyItem s).lane .b).active = 5 ∧ s.bus.link.broadcastOnLine = none
      ∧ (after .applyItem s).scan.broadcast = [{ lane := .b, generation := 5 }]
      ∧ (after .applyItem s).ctl.flags =
        s.ctl.flags ||| (EventFlag.stagedReady .b).bit ||| (EventFlag.activated .b).bit) := by decide

def withHistory (r : LaneRec) (h : List Nat) : LaneRec :=
  { r with history := h.map fun g => { generation := g, digest := Digest.zero } }

/-- A content error; no slot at the first try, at a retry, and at a retry with history. -/
theorem test_witness_FailedItemDiscardsOrWaits :
    (applyingB (staging5 1) [] 57344 [addItem 3 0] 0 false).itemOutcome (segOf [addItem 3 0]) 0 =
      some .contentError
    ∧ (let items := [addItem 3 77];
      let full (r : LaneRec) (retry : Bool) : State := applyingB r [] 0 items 0 retry;
      (full (staging5 1) true).itemOutcome (segOf items) 0 = some .noSlot
      ∧ (after .applyItem (full (staging5 1) false)).store.engine = .waiting (segOf items) 0
      ∧ ((after .applyItem (full (staging5 1) true)).lane .b).lastReason = .storeFull
      ∧ ((after .applyItem (full (withHistory (staging5 1) [3, 2]) true)).lane .b) =
        withHistory (staging5 1) [3]) := by decide

/-- A staging that goes on, on both lanes. -/
theorem test_witness_StagedDigestFollowsBlocklist :
    (let s := applyingB (staging5 2) [] 57344 [addItem 3 77] 0 false;
      (s.region .b).wf = true
      ∧ (s.lane .b).stagedDigest =
        digestOfBlocks ((s.region .b).visibleBlocks (s.lane .b).stagedGen)
      ∧ ((after .applyItem s).lane .b).state.holdsStaging = true
      ∧ ((after .applyItem s).lane .b).stagedDigest.count = 1) := by decide

def recordsP : Segment :=
  { stream := 410, g := 5, b := 0, index := 0, items := .product [product 9 [1, 2, 3, 4, 5]] }

def applyingP : State :=
  (State.reset.setLane .p (record .staging 4 (some (staged 5 0 2 0)))).setEngine
    (.applying recordsP 0 false)

theorem test_linksOk_empty : LinksOk [] :=
  ⟨fun _ _ _ h => by simp [Memory.read] at h, fun _ _ h => by simp [Memory.read] at h⟩

theorem test_witness_StagedDigestFollowsProducts :
    applyingP.applies recordsP 0 false ∧ LinksOk (applyingP.region .p)
    ∧ (applyingP.region .p).wf = true
    ∧ (applyingP.lane .p).stagedDigest = digestOfRecords
      (((applyingP.region .p).visibleHeads (applyingP.lane .p).stagedGen).map
        (applyingP.region .p).recordAt)
    ∧ ((after .applyItem applyingP).lane .p).state.holdsStaging = true
    ∧ (after .applyItem applyingP).region .p = fiveZones := by
  refine ⟨⟨rfl, rfl, rfl⟩, test_linksOk_empty, ?_⟩
  decide

theorem test_linksOk_fiveZones : LinksOk fiveZones := by
  constructor
  · intro a h t hr ht
    simp only [fiveZones, Memory.read] at hr
    split at hr
    · cases hr
      cases ht
      exact ⟨by omega, { zones := [5], head := 0 }, rfl, by omega⟩
    · split at hr <;> simp at hr
  · intro t x hr
    simp only [fiveZones, Memory.read] at hr
    split at hr
    · simp [headOf] at hr
    · split at hr
      · cases hr
        exact ⟨_, rfl, by simp; omega⟩
      · simp at hr

/-- A generation below S, a retained one, and an item of S that is applied. -/
theorem test_witness_KeptGenerationsAreUntouched :
    fiveZones.wf = true ∧ LinksOk fiveZones ∧ 5 < 6
    ∧ applyBlockItem 6 false 1 [] (addItem 3 77) = .applied [(0, entry 77 3 6 none)] (.blockIn 77 3)
    ∧ sweepSlot (.retire 6) [5] fiveZones 0 ≠ fiveZones
    ∧ ((sweepSlot (.retire 6) [5] fiveZones 0).visibleHeads 5).length = 1
    ∧ sweepSlot .reclaim [5] fiveZones 0 = fiveZones := by
  refine ⟨by decide, test_linksOk_fiveZones, ?_⟩
  decide

/-! ### Witnesses: the sweeper -/

/-- A state with a sweep of lane B at a slot. -/
def sweeping (r : LaneRec) (m : Memory) (k : SweepKind) (waiter : Bool) (cursor : Nat) : State :=
  let w : Sweep := { request := { lane := .b, kind := k, waiter := waiter }, cursor := cursor }
  { storing m (57344 - m.length) (laneB r) with sweeper := { requests := [], sweep := some w } }

theorem test_sweeping (r : LaneRec) (m : Memory) (k : SweepKind) (waiter : Bool) (cursor : Nat) :
    (sweeping r m k waiter cursor).sweeps
      { request := { lane := .b, kind := k, waiter := waiter }, cursor := cursor } :=
  ⟨rfl, rfl, rfl⟩

/-- Each kind at a slot; a FREE slot, a tail, and a head freed with its tail. -/
theorem test_witness_SweepStepChangesItsSlot :
    (57342 + 1 < (sweeping LaneRec.cold [] .reclaim false 57342).size .b)
    ∧ sweepSlot (.retire 5) [] [] 0 = []
    ∧ sweepSlot .clear [] fiveZones 1 = fiveZones
    ∧ sweepSlot (.retire 5) [] [(0, entry 7 1 4 none)] 0 = [(0, entry 7 1 4 (some 5))]
    ∧ sweepSlot (.undo 5) [] [(0, entry 7 1 5 none)] 0 = []
    ∧ sweepSlot (.undo 5) [] [(0, entry 7 1 4 (some 5))] 0 = [(0, entry 7 1 4 none)]
    ∧ sweepSlot .reclaim [4] [(0, entry 7 1 4 (some 5))] 0 = [(0, entry 7 1 4 (some 5))]
    ∧ sweepSlot .reclaim [5] [(0, entry 7 1 4 (some 5))] 0 = []
    ∧ sweepSlot .reclaim [3] [(0, entry 7 1 4 (some 5))] 0 = []
    ∧ sweepSlot .clear [] [(0, entry 7 1 4 none)] 0 = []
    ∧ fiveZones.freeEntry 0 = []
    ∧ (after .retireSlot (sweeping LaneRec.cold [] (.retire 5) false 57342)).sweeper.sweep =
      some { request := { lane := .b, kind := .retire 5, waiter := false }, cursor := 57343 } := by
  decide

def discardingWith (c : Option LaneCommand) (deferred : Bool) : LaneRec :=
  { withHistory (record .discarding 4 (some (staged 5 4 1 0))) [3] with
    pendingCommand := c, undoDeferred := deferred }

/-- A state whose control unit carries out a lane command of lane B. -/
def carrying (w : CommandWork) (s : State) : State :=
  { s with ctl := { s.ctl with command := .carryingOut (head 12) w } }

/-- The last slot, for every kind and what waits for it. -/
theorem test_witness_SweepCompletionIsReported :
    57343 + 1 = (sweeping LaneRec.cold [] .clear false 57343).size .b
    ∧ ((after .retireSlot (sweeping (record .retiring 4 (some (staged 5 0 1 0))) [] (.retire 5) false
        57343)).lane .b).state = .staging
    ∧ (after .retireSlot (sweeping (discardingWith none true) [] (.retire 5) false 57343)
      ).sweeper.sweep.map Sweep.request = some { lane := .b, kind := .undo 5, waiter := false }
    ∧ (after .retireSlot (sweeping (discardingWith (some .clear) true) [] (.retire 5) false 57343)
      ).sweeper.sweep.map Sweep.request = some { lane := .b, kind := .clear, waiter := false }
    ∧ ((after .undoSlot (sweeping (discardingWith none false) [] (.undo 5) false 57343)).lane
      .b).state = .idle
    ∧ ((after .undoSlot (sweeping (discardingWith (some .clear) false) [] (.undo 5) false 57343)
      ).lane .b).state = .discarding
    ∧ ((after .undoSlot (carrying (.lane .b)
        (sweeping (discardingWith (some .rollback) false) [] (.undo 5) false 57343))).lane
      .b).active = 3
    ∧ (after .reclaimSlot ((sweeping (staging5 1) [] .reclaim true 57343).setEngine
        (.waiting (segOf [addItem 3 77]) 0))).store.engine =
      .applying (segOf [addItem 3 77]) 0 true
    ∧ (after .clearSlot (carrying (.lane .b)
        (sweeping (discardingWith (some (.subscribe 7)) false) [] .clear false 57343))
      ).settings.subs.b = 7
    ∧ (after .clearSlot (carrying (.lane .b)
        (sweeping (discardingWith (some .clear) false) [] .clear false 57343))).ctl.command =
      .available := by decide

/-- The result byte of the ANSWER a command leaves. -/
def resultOf (c : Instr) (s : State) : Option Byte :=
  match (after c s).uplink.egress with
  | [m] => m.body[3]?
  | _ => none

/-- A completion that a command waits for is answered DONE, and one that none waits for is not. -/
theorem test_witness_completion_answers :
    (let s := sweeping (discardingWith (some .rollback) false) [] (.undo 5) false 57343;
      resultOf .undoSlot (carrying (.lane .b) s) = some 0 ∧ resultOf .undoSlot s = none
      ∧ ((after .undoSlot s).lane .b).active = 3)
    ∧ (let s := sweeping (discardingWith (some .clear) false) [] .clear false 57343;
      resultOf .clearSlot (carrying (.lane .b) s) = some 0
      ∧ resultOf .clearSlot (carrying (.lane .p) s) = none) := by decide

/-! ### Witnesses: the fleet clock -/

/-- Lane B READY with generation 5 of an effective time, the clock as given. -/
def readyAt (e value : Nat) (hold : Bool) : State :=
  clocked .locked value 0 (laneB { record .ready 4 (some (staged 5 4 1 e)) with hold := hold })

/-- An UNSET clock; timer 298 and 299; a debt; the largest value; READY lanes that activate, wait and
are held. -/
theorem test_witness_LocalSecondAdvancesTheClock :
    (after .localSecond State.reset).clock = State.reset.clock
    ∧ (after .localSecond (clocked .locked 9 298 State.reset)).clock =
      { value := 10, state := .locked, debt := 0, timer := 299, rejected := 0 }
    ∧ (after .localSecond (clocked .locked 9 299 State.reset)).clock =
      { value := 10, state := .holdover, debt := 0, timer := 300, rejected := 0 }
    ∧ (after .holdoverEntry (clocked .locked 9 299 State.reset)).ctl.flags = 0xA000
    ∧ (after .localSecond (clocked .locked 4294967295 0 State.reset)).clock.value = 4294967295
    ∧ ((after .localSecond (readyAt 10 9 false)).lane .b).active = 5
    ∧ ((after .localSecond (readyAt 0 9 false)).lane .b).lateness = 0
    ∧ ((after .localSecond (readyAt 11 9 false)).lane .b).state = .ready
    ∧ ((after .localSecond (readyAt 10 9 true)).lane .b).state = .ready := by decide

/-- A state with a report period of 1 and the report timer as given. -/
def reporting (timer egress : Nat) : State :=
  let s := queued egress State.reset
  { s with settings := { s.settings with period := 1 }, ctl := { s.ctl with reportTimer := timer } }

def timing (quiet period : Nat) (s : State) : State := ctrl 6 (be 1 quiet ++ be 1 period) s

theorem test_takes_timing (s : State) (quiet period : Nat) (h : s.power = .running)
    (hc : s.ctl.command = .available) :
    (timing quiet period s).takes (cm 6 (be 1 quiet ++ be 1 period)) 6 := ⟨h, hc, rfl, rfl⟩

/-- At the report interval with 7 and with 8 messages, and before it. -/
theorem test_witness_PeriodicStandingIsMade :
    2 ^ ((reporting 1 7).settings.period.val - 1) ≤ (reporting 1 7).ctl.reportTimer
    ∧ (after .periodicStanding (reporting 1 7)).uplink.egress.length = 8
    ∧ (after .periodicStanding (reporting 1 8)).uplink.egress.length = 8
    ∧ (after .periodicStanding (reporting 1 8)).ctl.reportTimer = 0
    ∧ (reporting 0 7).standingDue = false
    ∧ (timing 3 12 (reporting 1 7)).settings.period ≠ 0
    ∧ (after .setTiming (timing 3 12 (reporting 1 6))).uplink.egress.length = 8 := by decide

/-- Activated at its time, at once, and for the first time; held, and waiting. -/
theorem test_witness_ActivationMakesItsChanges :
    ((readyAt 9 9 false).testActivation .b).lanes.b.active = 5
    ∧ ((readyAt 0 9 false).testActivation .b).lanes.b.history.length = 1
    ∧ (((readyAt 0 9 false).setLane .b (record .ready 0 (some (staged 5 0 1 0)))).testActivation
      .b).lanes.b.history = []
    ∧ (readyAt 9 9 false).bus.link.broadcastOnLine = none
    ∧ (readyAt 9 9 true).testActivation .b = readyAt 9 9 true
    ∧ (readyAt 10 9 false).testActivation .b = readyAt 10 9 false
    ∧ (let online : Switch := { lane := .b, generation := 4 };
      let s := (readyAt 9 9 false).setLink (.sending (.broadcast online));
      s.bus.link.broadcastOnLine = some online
      ∧ ({ s with scan := { s.scan with broadcast := [online] } }.testActivation .b).scan.broadcast =
        [online, { lane := .b, generation := 5 }]) := by decide

theorem test_witness_ClockNeverDecreases :
    ClockOk State.reset.clock ∧ ClockOk (readyAt 9 9 false).clock
    ∧ (after .localSecond (readyAt 9 9 false)).clock.value = 10 := by
  refine ⟨?_, ?_, by decide⟩ <;> simp only [ClockOk] <;> decide

/-! ### Witnesses: weights, capacity and fit, layouts -/

theorem test_witness_WeightAndEffectiveCapacity :
    (2 ^ 56 - 1 < 2 ^ 56 ∧ blockWeight (2 ^ 56 - 1) 7 = 1610619575)
    ∧ effectiveCapacity 0 5 = 0 ∧ effectiveCapacity 8 0 = 8 ∧ effectiveCapacity 8 9 = 8
    ∧ effectiveCapacity 8 7 = 7 := by decide

/-- The worked record, with its substitutes, and the largest weight of a well-formed one. -/
theorem test_product_weights :
    (productWeight
      { code := 12, fare := 250, concession := none, firstDay := 9000, lastDay := none,
        transfer := some 60, zones := [1, 2, 3] }).toNat = 137444615
    ∧ (let r : ProductRecord :=
        { code := 4095, fare := 65535, concession := none, firstDay := 65535, lastDay := none,
          transfer := some 255, zones := [248, 249, 250, 251, 252, 253, 254, 255] };
      (productWeight r).toNat = 628631546 ∧ r.zones.Pairwise (· < ·)) := by decide

/-- Two tokens of level 7 and one of level 2, at capacities 3, 2 and 1. -/
def digest3 : Digest := digestOfBlocks
  [{ token := 1, priority := 7, added := 1, removed := none },
   { token := 2, priority := 7, added := 1, removed := none },
   { token := 3, priority := 2, added := 1, removed := none }]

theorem test_witness_FitFiguresNeverExceedCapacity :
    ((fitBlock 3 digest3).cutoff = 0 ∧ (fitBlock 3 digest3).expectCount = 3)
    ∧ ((fitBlock 2 digest3).cutoff = 3 ∧ (fitBlock 2 digest3).truncated = false)
    ∧ ((fitBlock 1 digest3).cutoff = 7 ∧ (fitBlock 1 digest3).truncated = true
      ∧ (fitBlock 1 digest3).expectCount = 1) := by decide

/-- The smallest and the largest record; capacities of 61,440 and 61,441. -/
theorem test_witness_RecordsReadBack :
    (let r : ProductRecord :=
        { code := 1, fare := 0, concession := none, firstDay := 0, lastDay := none, transfer := none,
          zones := [1] };
      parseProductRecord (encodeRecord r ++ [5]) = some (r, [5]))
    ∧ (let r : ProductRecord :=
        { code := 4095, fare := 65535, concession := some 65535, firstDay := 65535,
          lastDay := some 65535, transfer := some 255,
          zones := [248, 249, 250, 251, 252, 253, 254, 255] };
      parseProductRecord (encodeRecord r) = some (r, []))
    ∧ (parseReply 0x81 (be 13 0 ++ be 1 1 ++ be 2 61440)).isSome = true
    ∧ parseReply 0x81 (be 14 0 ++ be 2 61441) = none := by decide

/-! ### Witnesses: the scanner -/

def vlane (held pending : Nat) (ready : Bool) : ValidatorLane :=
  { ValidatorLane.anew with held := held, pending := pending, ready := ready }

def present (b p : ValidatorLane) : Validator :=
  { Validator.anew (some 0) with presence := .present, goodRun := 3, lanes := { b := b, p := p } }

/-- A state whose position 1 is PRESENT with the given lanes, lane B ACTIVE 4 and lane P ACTIVE 6, in
round 1. -/
def feeding (b p : ValidatorLane) : State :=
  let s := (laneB (record .idle 4 none)).setLane .p (record .idle 6 none)
  let s := setV 0 (present b p) s
  { s with scan := { s.scan with roundNo := 1 } }

theorem test_feeding_visits (b p : ValidatorLane) : (feeding b p).visits 0 := ⟨rfl, rfl, rfl⟩

theorem test_reset_visits : State.reset.visits 0 ∧ (setV 0 (present (vlane 0 0 true) (vlane 0 0 true))
    State.reset).visits 0 := ⟨⟨rfl, rfl, rfl⟩, rfl, rfl, rfl⟩

/-- A lane with a delivery of a generation in a state, so many items sent of so many. -/
def delivering (state : DeliveryState) (g sent expect : Nat) : ValidatorLane :=
  { vlane 0 0 true with delivery :=
    { Delivery.idleWith g with
      state := state, sent := sent, expectCount := expect, batchNo := 1, capacity := 8192 } }

/-- The frame handed to the bus by a visit. -/
def frameSent (s : State) : Option BusFrame :=
  match (after .scannerVisit s).bus.link with
  | .sending (.addressed x) => some x.frame
  | _ => none

/-- A lane at rest: its ACTIVE held. -/
def still (g : Nat) : ValidatorLane := vlane g 0 true

/-- A delivery with an item to send, its cursor as given; and one whose figures are to be fixed anew. -/
def atCursor (cursor : Nat) : ValidatorLane :=
  let v := delivering .sending 4 1 2
  { v with delivery := { v.delivery with cursor := cursor } }

def refixing : ValidatorLane :=
  let v := delivering .opening 4 0 2
  { v with delivery := { v.delivery with refix := true } }

/-- One visit for each row of the choice. -/
theorem test_witness_VisitChoosesTheFirstFrame :
    frameSent State.reset = some .poll
    ∧ frameSent (feeding { still 4 with dropOwed := 3 } { still 6 with dropOwed := 5 }) =
      some (.drop .b 3)
    ∧ frameSent (feeding (still 4) { still 6 with dropOwed := 5 }) = some (.drop .p 5)
    ∧ frameSent (feeding (delivering .opening 4 0 2) (delivering .opening 6 0 3)) =
      some (.open .b 4 2 0 false)
    ∧ frameSent (feeding (still 4) (delivering .opening 6 0 3)) = some (.open .p 6 3 0 false)
    ∧ frameSent (feeding (delivering .closing 4 2 2) (still 6)) = some (.close .b 4)
    ∧ frameSent (feeding (delivering .sending 4 2 2) (still 6)) = some (.close .b 4)
    ∧ frameSent (feeding (atCursor 57344) (still 6)) = some (.close .b 4)
    ∧ frameSent (feeding (atCursor 57343) (still 6)) = none
    ∧ frameSent (feeding refixing (still 6)) = some (.open .b 4 0 0 false)
    ∧ frameSent (let s := feeding (delivering .sending 4 1 2) (still 6);
        { s with scan := { s.scan with roundNo := 0 } }) = some .poll
    ∧ (after .scannerVisit (feeding (delivering .sending 4 1 2) (still 6))).scan.read = some .batch
    ∧ frameSent (feeding
        { vlane 3 4 true with delivery := Delivery.idleWith 4 } (still 6)) = some (.switch .b 4)
    ∧ frameSent (feeding (still 4)
        { vlane 5 6 true with delivery := Delivery.idleWith 6 }) = some (.switch .p 6) := by decide

def tallied (tally : Nat) (s : State) : State :=
  { s with scan := { s.scan with tally := [{ generation := 6, tally := tally }] } }

/-- Lane B's target; lane P's at the product capacity and above it; a lane not ready; no tally. -/
theorem test_witness_VisitStartsDelivery :
    ((feeding (vlane 0 0 true) (still 6)).target 0 .b = some 4
      ∧ frameSent (feeding (vlane 0 0 true) (still 6)) = some (.open .b 4 0 0 false))
    ∧ frameSent (tallied 1024 (feeding (still 4) (vlane 0 0 true))) = some (.open .p 6 0 0 false)
    ∧ (frameSent (tallied 1025 (feeding (still 4) (vlane 0 0 true))) = some .poll
      ∧ ((after .scannerVisit (tallied 1025 (feeding (still 4) (vlane 0 0 true)))).validator 0).lanes.p.unfit
        = 6)
    ∧ frameSent (tallied 1024 (feeding (vlane 0 0 false) (vlane 0 0 false))) = some .poll
    ∧ frameSent (feeding (still 4) (vlane 0 0 true)) = some .poll
    ∧ (feeding (still 4) (still 6)).target 0 .b = none
    ∧ (feeding (still 4) (still 6)).target 0 .p = none := by decide

/-- The target S of a READY lane, and none where the class takes nothing or S is pending; a SWITCH due
and not due; a walk begun, and none beside one under way; a truncated OPEN. -/
theorem test_witness_targets_and_walks :
    (let s (y : ValidatorLane) : State :=
        (feeding y (still 6)).setLane .b (record .ready 4 (some (staged 5 4 1 9)));
      (s (still 4)).target 0 .b = some 5 ∧ (s (vlane 4 5 true)).target 0 .b = none
      ∧ (setSt (s (still 4)) { State.reset.settings with
          classes := Vector.replicate 8 (State.reset.settings.classes[1]) }).target 0 .b = none)
    ∧ (let y := { vlane 3 4 true with delivery := Delivery.idleWith 4 };
      switchDue (record .idle 4 none) y = true
      ∧ switchDue (record .idle 4 none) { y with faulty := 4 } = false)
    ∧ (let s := (feeding (still 4) (vlane 0 0 true)).beginWalk 0;
      s.scan.walk = some { generation := 6, cursor := 0, tally := 0 } ∧ s.scan.read = some .tally
      ∧ s.beginWalk 0 = s)
    ∧ (let s := (feeding (vlane 0 0 true) (still 6)).setLane .b
          { record .idle 4 none with activeDigest := digest3 };
      frameSent s = some (.open .b 4 3 0 false)
      ∧ frameSent (setV 0 { present (vlane 0 0 true) (still 6) with lastCapacity := 1 } s) =
        some (.open .b 4 1 7 true)) := by decide

/-- A state building a BATCH for lane B at a slot of a region with one entry in slot 0. -/
def building (cursor : Nat) (items : List (Nat × BatchItem)) : State :=
  let s := storing [(0, entry 77 3 4 none)] 57343 (feeding (delivering .sending 4 0 2) (still 6))
  { s with scan := { s.scan with
      build := some { pos := 0, lane := .b, cursor := cursor, items := items }, read := some .batch } }

def walking (cursor : Nat) : State :=
  let s := feeding (still 4) (vlane 0 0 true)
  { s with scan := { s.scan with
      walk := some { generation := 6, cursor := cursor, tally := 3 }, read := some .tally } }

theorem test_reads_granted (cursor : Nat) (items : List (Nat × BatchItem)) :
    (building cursor items).nextGrant = some .scanner ∧ (walking cursor).nextGrant = some .scanner :=
  ⟨rfl, rfl⟩

/-- Not done; done and empty; done with an item; a walk before its last slot and at it. -/
theorem test_witness_ScannerReadsOneSlot :
    ((after .batchSlotRead (building 0 [])).scan.build.map fun b => b.items) =
      some [(0, .block 77 3)]
    ∧ (match (after .batchSlotRead (building 57343 [])).bus.link with
      | .sending (.addressed x) => x.frame
      | _ => .poll) = .close .b 4
    ∧ (match (after .batchSlotRead (building 57343 [(0, .block 77 3)])).bus.link with
      | .sending (.addressed x) => x.nextCursor
      | _ => 0) = 1
    ∧ ((after .tallySlotRead (walking 8190)).scan.walk.map fun w => w.cursor) = some 8191
    ∧ (after .tallySlotRead (walking 8191)).scan.tally = [{ generation := 6, tally := 3 }] := by decide

/-- A walk and a BATCH that take turns; a full table, whose first entry not kept leaves. -/
theorem test_witness_turns_and_eviction :
    (let b : Build := { pos := 0, lane := .b, cursor := 3, items := [] };
      let s := walking 5;
      (after .tallySlotRead { s with scan := { s.scan with build := some b } }).scan.read = some .batch
      ∧ (after .batchSlotRead (let s := building 57343 [];
          { s with scan := { s.scan with
              walk := some { generation := 6, cursor := 5, tally := 3 } } })).scan.read = some .tally)
    ∧ (let s := walking 8191;
      let table : List TallyEntry := [6, 5, 3, 2].map fun g => { generation := g, tally := g };
      (after .tallySlotRead { s with scan := { s.scan with
          walk := some { generation := 8, cursor := 8191, tally := 8 }, tally := table } }).scan.tally =
        [6, 3, 2, 8].map fun g => { generation := g, tally := g }) := by decide

/-- An entry at and below the cut-off, and one removed; a head with a tail, its tail, and a FREE slot. -/
theorem test_witness_slots_read :
    (let m : Memory := [(0, entry 77 3 4 none), (1, entry 78 3 2 (some 4))];
      m.batchItem 0 4 3 = some (.block 77 3) ∧ m.batchItem 0 4 4 = none ∧ m.batchItem 1 4 0 = none
      ∧ m.batchItem 2 4 0 = none ∧ m.tallyAt 2 4 = 0)
    ∧ fiveZones.tallyAt 0 5 = 2 ∧ fiveZones.tallyAt 1 5 = 0
    ∧ (match fiveZones.batchItem 0 5 0 with
      | some (.product r) => r.zones.length
      | _ => 0) = 5 := by decide

/-! ### Witnesses: the validator bus -/

def polled : Addressed :=
  { pos := 0, frame := .poll, nextCursor := 0, recordGone := false, deliveryGone := false }

def sw : Switch := { lane := .b, generation := 4 }

theorem test_witness_LinkGoesThroughItsStates :
    (let s : State := { State.reset with scan := { State.reset.scan with broadcast := [sw] } };
      (after .broadcastSwitch s).bus.link = .sending (.broadcast sw))
    ∧ (after .busFrameSent (link (.sending (.addressed polled)) State.reset)).bus.link =
      .waiting polled
    ∧ (after .busFrameSent (link (.sending (.broadcast sw)) State.reset)).bus.link =
      .postBroadcast sw
    ∧ (after .replyStart (link (.waiting polled) State.reset)).bus.link = .receiving polled []
    ∧ (after .replyWindowEnd (link (.waiting polled) State.reset)).bus.link =
      .turnaround polled (.miss .silent)
    ∧ (after .lineIdleGap (link (.receiving polled []) State.reset)).bus.link =
      .turnaround polled (.miss .damaged)
    ∧ (after .replyStart State.reset).bus.strayRun = true
    ∧ (after .lineIdleGap (after .replyStart (link .postReset State.reset))).bus.stray = 1 := by
  decide

def reply (bytes : List Byte) : List RxChar := bytes.map fun b => { byte := b, framingError := false }

/-- The ACCEPT of validator 1, with a CRC. -/
def acceptWith (crcBytes : List Byte) : List RxChar := reply ([0, 1, 0x82, 0, 0] ++ crcBytes)

def opened : Addressed := { polled with frame := .open .b 4 0 0 false }

/-- A complete reply at body length 0: good, damaged by its CRC, by a framing error, wrong by its
address, and wrong for the frame it answers; at body length 16: a STATUS's declared length. -/
theorem test_witness_CompleteReplyIsJudged :
    crc [0, 1, 0x82, 0, 0] = 0x3282
    ∧ (after (.replyReceived (acceptWith [0x32, 0x82])) (link (.waiting opened) State.reset)
      ).bus.link = .turnaround opened (.good .accept)
    ∧ (after (.replyReceived (acceptWith [0x32, 0x83])) (link (.receiving opened []) State.reset)
      ).bus.link = .turnaround opened (.miss .damaged)
    ∧ (after (.replyReceived ((acceptWith [0x32, 0x82]).map fun c => { c with framingError := true }))
      (link (.waiting opened) State.reset)).bus.link = .turnaround opened (.miss .damaged)
    ∧ (after (.replyReceived (acceptWith [0x32, 0x82]))
      (link (.waiting { opened with pos := 1 }) State.reset)).bus.link =
        .turnaround { opened with pos := 1 } (.miss .wrong)
    ∧ (after (.replyReceived (acceptWith [0x32, 0x82])) (link (.waiting polled) State.reset)
      ).bus.link = .turnaround polled (.miss .wrong)
    ∧ field [0, 1, 0x81, 0, 16] 3 2 = 16 := by decide +kernel

/-- An overlong body; characters short of a heading and of a body; and the idle gap after them. -/
theorem test_witness_incomplete_replies :
    (after (.replyReceived (reply [0, 1, 0x81, 0, 17, 9, 9])) (link (.waiting opened) State.reset)
      ).bus.link = .receiving opened (reply [0, 1, 0x81, 0, 17])
    ∧ (after (.replyReceived (reply [0, 1, 0x82])) (link (.waiting opened) State.reset)).bus.link =
      .receiving opened (reply [0, 1, 0x82])
    ∧ (after (.replyReceived (reply [0, 1, 0x81, 0, 16, 9])) (link (.receiving opened []) State.reset)
      ).bus.link = .receiving opened (reply [0, 1, 0x81, 0, 16, 9])
    ∧ (after .lineIdleGap (link (.receiving opened (reply [0, 1])) State.reset)).bus.link =
      .turnaround opened (.miss .damaged) := by decide

/-- A reply sent and allowed, one not allowed, and a type that no reply has. -/
theorem test_witness_replies_sent :
    Reply.isSent 0x82 [] .accept ∧ opened.frame.allows .accept ∧ ¬ polled.frame.allows .accept
    ∧ ¬ opened.frame.allows (.ack none) ∧ Reply.isSent 0x85 [1, 0xF0, 0] (.refuseCapacity 61440)
    ∧ ∀ r, ¬ Reply.isSent 0x86 [] r := by
  refine ⟨⟨rfl, rfl⟩, .inr (.inl ⟨_, _, _, _, _, rfl, .inl rfl⟩), ?_, ?_, ?_, ?_⟩
  · simp [BusFrame.allows, polled]
  · simp [BusFrame.allows, opened, polled]
  · simp only [Reply.isSent]; decide
  · intro r
    cases r with
    | ack n => cases n <;> simp [Reply.isSent]
    | _ => simp [Reply.isSent]

/-- A state at the end of an exchange with position 1. -/
def ending (x : Addressed) (o : ExchangeOutcome) (s : State) : State := link (.turnaround x o) s

theorem test_ending (o : ExchangeOutcome) (s : State) (h : s.power = .running) :
    (ending polled o s).ends polled o ∧ (ending opened o s).ends opened o :=
  ⟨⟨h, rfl, rfl⟩, h, rfl, rfl⟩

/-- A position of a presence, with its runs. -/
def presenceAt (p : Presence) (goodRun missRun : Nat) : State :=
  setV 0 { present (still 4) (still 6) with presence := p, goodRun := goodRun, missRun := missRun }
    (feeding (still 4) (still 6))

/-- The end of a miss at a presence. -/
def missed (p : Presence) (missRun : Nat) : Validator :=
  (after .turnaroundGapEnd (ending polled (.miss .wrong) (presenceAt p 2 missRun))).validator 0

theorem test_witness_MissIsAppliedToPresence :
    (missed .seeking 0).presence = .seeking ∧ (missed .silent 0).missCounter = 1
    ∧ (missed .settling 0).presence = .seeking ∧ (missed .settling 0).goodRun = 0
    ∧ (missed .present 2).missRun = 3 ∧ (missed .present 3).presence = .silent
    ∧ (after .turnaroundGapEnd (ending polled (.miss .damaged) (presenceAt .seeking 0 0))
      ).bus.damaged = 1 := by decide

def statusOf (held staged : Nat) : StatusReport :=
  { held := { b := held, p := 6 }, staged := { b := staged, p := 0 },
    ready := { b := true, p := true }, capacity := 0 }

/-- The end of a good STATUS at a presence. -/
def reported (p : Presence) (goodRun staged : Nat) : Validator :=
  (after .turnaroundGapEnd (ending polled (.good (.status (statusOf 4 staged)))
    (presenceAt p goodRun 2))).validator 0

theorem test_witness_GoodStatusIsWritten :
    (reported .seeking 2 0).presence = .settling ∧ (reported .silent 2 0).goodRun = 0
    ∧ (reported .settling 1 0).goodRun = 2 ∧ (reported .settling 2 0).presence = .present
    ∧ (reported .present 3 0).missRun = 0 ∧ (reported .present 3 0).lanes.b.dropOwed = 0
    ∧ (reported .present 3 3).lanes.b.dropOwed = 3 ∧ (reported .present 3 3).lanes.b.pending = 3 := by
  decide

/-- A SWITCH not made, one made, and one of a generation that is no longer ACTIVE; a capacity just below
that of the delivery, and at it. -/
theorem test_witness_GoodStatusIsWritten_switch_and_capacity :
    (let s (g held staged : Nat) : State := after .turnaroundGapEnd
        (ending { polled with frame := .switch .b g } (.good (.status (statusOf held staged)))
          (feeding { vlane 3 4 true with delivery := Delivery.idleWith 4 } (still 6)));
      ((s 4 3 4).validator 0).lanes.b.faulty = 4 ∧ (s 4 3 4).ctl.flags = 0x8400
      ∧ ((s 4 4 0).validator 0).lanes.b.faulty = 0 ∧ ((s 9 3 4).validator 0).lanes.b.faulty = 0)
    ∧ (let v (capacity : Nat) : Validator := (after .turnaroundGapEnd
        (ending polled (.good (.status { statusOf 0 0 with capacity := capacity }))
          (feeding (delivering .sending 4 1 2) (still 6)))).validator 0;
      (v 8191).lanes.b.delivery = Delivery.idleWith 0 ∧ (v 8191).lastCapacity = 8191
      ∧ (v 8192).lanes.b.delivery.state = .sending ∧ (v 0).lanes.b.delivery.state = .sending) := by
  decide

/-- Lane B after a good reply to a frame of its delivery. -/
def replied (v : ValidatorLane) (f : BusFrame) (r : Reply) : ValidatorLane :=
  ((after .turnaroundGapEnd
    (ending { polled with frame := f, nextCursor := 9 } (.good r) (feeding v (still 6)))).validator
    0).lanes.b

theorem test_witness_DeliveryRepliesAct :
    (replied (delivering .opening 4 0 2) (.open .b 4 2 0 false) .accept).delivery.state = .sending
    ∧ replied (delivering .opening 4 0 2) (.open .b 4 2 0 false) .refuseBusy =
      delivering .opening 4 0 2
    ∧ (replied (delivering .opening 4 0 2) (.open .b 4 2 0 false) (.refuseCapacity 1)).delivery.refix =
      true
    ∧ (replied (delivering .opening 4 0 2) (.open .b 4 2 0 false) (.refuseCapacity 2)).dropOwed = 4
    ∧ (replied (delivering .sending 4 0 2) (.batch .b 4 1 [.block 77 3]) (.ack (some 1))).delivery.cursor
      = 9
    ∧ (replied (delivering .closing 4 2 2) (.close .b 4) (.confirm 2 0)).pending = 4
    ∧ (replied (delivering .closing 4 2 2) (.close .b 4) (.confirm 1 0)).dropOwed = 4
    ∧ (replied (delivering .closing 4 2 2) (.close .b 4) .refuseGeneration).delivery.attempts = 1
    ∧ (let v := delivering .closing 4 2 2;
      (replied { v with delivery := { v.delivery with attempts := 2 } } (.close .b 4)
        .refuseGeneration).faulty = 4)
    ∧ (replied { still 4 with dropOwed := 3, pending := 3 } (.drop .b 3) (.ack none)) = still 4 := by
  decide

/-- The report that S is gone: a delivery of S, a confirmation and marks of S, a stale copy; and an
activation's report on the same records. -/
theorem test_witness_reports_on_records :
    (let at0 (y : ValidatorLane) : State := setV 0 (present y (still 6))
        (noticed (record .staging 4 (some (staged 5 4 1 0))) 5 4 1 0 5 0);
      let gone (y : ValidatorLane) : ValidatorLane := ((after .notice (at0 y)).validator 0).lanes.b;
      gone { delivering .sending 5 1 2 with faulty := 4, unfit := 5 } =
        { vlane 0 0 true with faulty := 4, dropOwed := 5 }
      ∧ (gone (delivering .sending 4 1 2)).delivery.target = 4
      ∧ (gone { vlane 4 5 true with delivery := Delivery.idleWith 5 }).dropOwed = 5
      ∧ (gone { vlane 3 4 true with delivery := Delivery.idleWith 4 }).dropOwed = 0)
    ∧ (let s := (feeding { delivering .sending 4 1 2 with faulty := 4, pending := 5 } (still 6)).setLane
          .b (record .ready 4 (some (staged 5 4 1 0)));
      ((s.testActivation .b).validator 0).lanes.b =
        { vlane 0 5 true with delivery := Delivery.idleWith 0, dropOwed := 5 }) := by decide

/-- The report that S is gone at a discard with reason DIGEST. -/
theorem test_witness_digest_discard :
    (let y := delivering .sending 5 1 2;
      let s := setV 0 (present y (still 6)) (applyingB (record .staging 4 (some (noticed77 1 2))) []
        57344 [addItem 3 77] 0 false);
      let t := after .applyItem s;
      (t.lane .b).lastReason = .digest
      ∧ (t.validator 0).lanes.b = { vlane 0 0 true with dropOwed := 5 }
      ∧ t.sweeper.sweep =
        some { request := { lane := .b, kind := .undo 5, waiter := false }, cursor := 0 }) := by decide

/-- The outcome for a delivery abandoned meanwhile, and for a record set up anew. -/
theorem test_witness_outcome_of_abandoned_work :
    (let x : Addressed := { opened with deliveryGone := true };
      let s := presenceAt .present 3 2;
      let t (r : Reply) : State := after .turnaroundGapEnd (ending x (.good r) s);
      (t (.refuseCapacity 9)).validator 0 = { s.validator 0 with missRun := 0, lastCapacity := 9 }
      ∧ (t .accept).validator 0 = { s.validator 0 with missRun := 0 })
    ∧ (let x : Addressed := { opened with recordGone := true };
      let s := presenceAt .present 3 3;
      (after .turnaroundGapEnd (ending x (.miss .wrong) s)).scan.records = s.scan.records
      ∧ (after .turnaroundGapEnd (ending x (.miss .wrong) s)).bus.wrong = 1
      ∧ (after .turnaroundGapEnd (ending x (.good .accept) s)).scan.records = s.scan.records) := by
  decide

theorem test_witness_BroadcastSwitchesThePending :
    (let s := link (.postBroadcast sw) (feeding (vlane 3 4 true) (still 6));
      ((after .postBroadcastGapEnd s).validator 0).lanes.b.held = 4
      ∧ (after .postBroadcastGapEnd s).validator 1 = s.validator 1) := by decide

/-- A pause with and without a waiting broadcast; the post-reset gap; a roster with nobody to visit. -/
theorem test_witness_RoundsBeginAfterPauseAndReset :
    (let s : State := { State.reset with scan := { State.reset.scan with
        phase := .paused 1000, roundNo := 65535 } };
      (after .quietIntervalEnd s).scan.roundNo = 0
      ∧ (after .quietIntervalEnd { s with scan := { s.scan with broadcast := [sw] } }).scan.phase =
        .roundDue
      ∧ (after .quietIntervalEnd { s with settings := { s.settings with
          roster := Vector.replicate 16 none } }).scan.phase = .paused 1000)
    ∧ (after .postResetGapEnd (link .postReset State.reset)).bus.link = .idle := by decide

/-- A state in a phase, its round at a position. -/
def inRound (phase : ScanPhase) (nextPos : Nat) (exchanged : Bool) (s : State) : State :=
  { s with scan := { s.scan with phase := phase, nextPos := nextPos, exchanged := exchanged } }

/-- The positions a round visits and skips; a round that ends quiet, empty, and with work; a round due
behind a SWITCH, and after a report has removed it. -/
theorem test_witness_rounds_end :
    (let s := presenceAt .silent 0 0;
      s.nextVisit = some 1 ∧ { s with scan := { s.scan with roundNo := 8 } }.nextVisit = some 0
      ∧ (inRound .visiting 15 true s).nextVisit = some 15
      ∧ (inRound .visiting 16 true s).nextVisit = none)
    ∧ (let s := feeding (still 4) (still 6);
      (inRound .visiting 16 true s).settleScan.scan.phase = .paused 1000
      ∧ (inRound .visiting 16 false s).settleScan.scan.phase = .paused 1000
      ∧ ((inRound .visiting 16 true s).noteReport.settleScan.scan.phase = .visiting
        ∧ (inRound .visiting 16 true s).noteReport.settleScan.scan.roundNo = 2)
      ∧ (inRound .roundDue 16 true s).wakeScan.scan.roundNo = 2
      ∧ (inRound (.paused 5) 16 true s).wakeScan.scan.phase = .visiting
      ∧ (inRound .visiting 3 true s).wakeScan.scan.reported = true)
    ∧ (let s := feeding { still 4 with dropOwed := 3 } (still 6);
      (inRound .visiting 16 true s).settleScan.scan.roundNo = 2
      ∧ (after .scannerVisit (inRound .visiting 16 true s)).scan.roundNo = 2
      ∧ (inRound .visiting 16 false s).settleScan.scan.phase = .paused 1000)
    ∧ (let s := inRound .roundDue 16 true (feeding (still 4) (still 6));
      let s := { s with scan := { s.scan with broadcast := [sw] } };
      s.settleScan = s ∧ (s.reportCleared .b).scan.broadcast = []
      ∧ (s.reportCleared .b).scan.phase = .visiting ∧ (s.reportRollback .b 4).scan.roundNo = 2) := by
  decide

/-- The last SWITCH sent with a round due; a report while the post-reset gap is awaited. -/
theorem test_witness_last_switch_sent :
    (let s := link (.postBroadcast sw) (inRound .roundDue 16 true (feeding (still 4) (still 6)));
      let t := after .postBroadcastGapEnd { s with scan := { s.scan with broadcast := [sw] } };
      t.scan.broadcast = [] ∧ t.scan.phase = .visiting ∧ t.scan.roundNo = 2)
    ∧ (let s := inRound .awaitReset 0 false (feeding (still 4) (still 6));
      s.settleScan = s ∧ s.wakeScan.scan.phase = .awaitReset ∧ s.wakeScan.scan.reported = true) := by
  decide

/-! ### Witnesses: commands of the control unit -/

theorem test_takes (code : Byte) (args : List Byte) (s : State) (h : s.power = .running)
    (hc : s.ctl.command = .available) : (ctrl code args s).takes (cm code args) code.toNat :=
  ⟨h, hc, rfl, rfl⟩

/-- Unknown codes on both sides; an argument refused for each command; a command in flight. -/
theorem test_witness_RefusedCommandOnlyAnswers :
    (resultOf .status (ctrl 0 [] State.reset) = some 3
      ∧ resultOf .restart (ctrl 18 [] State.reset) = some 3)
    ∧ [(Instr.status, 1, [0]), (.setSplit, 2, [4]), (.subscribe, 3, [3, 0, 1]),
        (.setClass, 4, [8, 0, 0, 0, 0, 0, 1]), (.setPosition, 5, [17, 0]), (.setTiming, 6, [4, 0]),
        (.setAddressing, 7, List.replicate 21 0), (.events, 8, []), (.acknowledge, 9, []),
        (.hold, 10, [0]), (.release, 11, [3]), (.rollback, 12, []), (.clear, 13, [1, 1]),
        (.inspect, 14, [1, 0xE0, 0, 1]), (.inspectNext, 15, [17]), (.save, 16, [0]),
        (.restart, 17, [0])].all (fun (c, code, args) =>
          resultOf c (ctrl code args State.reset) == some 2) = true
    ∧ after .hold (ctrl 10 [1] saving) = ctrl 10 [1] saving
    ∧ (let s := ctrl 1 [] { queued 8 State.reset with
        ctl := { State.reset.ctl with command := .placing waitingAnswer } };
      after .status s = s) := by decide

/-- Arguments at both ends of their ranges, and just beyond. -/
theorem test_witness_argument_layouts :
    (argLane [1] = some .b ∧ argLane [2] = some .p) ∧ argSplit [3] = some 3
    ∧ argSubscribe [2, 0xFF, 0xFF] = some (.p, 65535)
    ∧ (let f (capacity takes product batch : Nat) : List Byte :=
        be 1 7 ++ be 2 capacity ++ be 1 takes ++ be 2 product ++ be 1 batch;
      argSetClass (f 61440 1 16384 32) =
        some (7, { capacity := 61440, takesProducts := true, productCapacity := 16384,
                   batchSize := 32 })
      ∧ [f 61441 1 0 1, f 0 2 0 1, f 0 0 16385 1, f 0 0 0 0, f 0 0 0 33].all
          (fun args => argSetClass args == none) = true)
    ∧ (argSetPosition [1, 7] = some (0, some 7) ∧ argSetPosition [16, 255] = some (15, none)
      ∧ argSetPosition [0, 0] = none ∧ argSetPosition [1, 8] = none)
    ∧ argSetTiming [3, 12] = some (3, 12)
    ∧ (argEvents [0, 1, 0xFF, 0xFF] = some (1, 0xFFFF) ∧ argMask [0x80, 0] = some 0x8000)
    ∧ (argInspect State.reset.size [2, 0x1F, 0xFF, 1] = some (.p, 8191, 1)
      ∧ argInspect State.reset.size [2, 0x20, 0, 1] = none
      ∧ argInspect State.reset.size [1, 0, 0, 17] = none)
    ∧ argInspectNext [16] = some 16 ∧ argInspectNext [0] = none := by decide

def addressing2 : List Byte :=
  [2] ++ [2, 0, 0, 0, 0, 2] ++ group ++ group ++ [0x06, 0x00]

theorem test_witness_HoldEventsAndAddressing :
    ((after .hold (ctrl 10 [2] State.reset)).lane .p).hold = true
    ∧ ((after .release (ctrl 11 [1] (readyAt 9 9 true))).lane .b).active = 5
    ∧ (after .events (ctrl 8 [0xFF, 0, 0x80, 0xFF] State.reset)).settings.enables = 0x8000
    ∧ (after .acknowledge (ctrl 9 [0x80, 0] State.reset)).ctl.flags = 0
    ∧ (argSetAddressing addressing2).isSome = true
    ∧ (after .setAddressing (ctrl 7 addressing2 State.reset)).settings.addressing.etherType = 1536
    ∧ (after .setAddressing (ctrl 7 addressing2 (queued 8 State.reset))).settings.addressing.etherType
      = 0x88B5 := by decide

theorem test_witness_SetTimingStoresBothSettings :
    resultOf .setTiming (ctrl 6 [0] State.reset) = some 2
    ∧ resultOf .setTiming (ctrl 6 [0, 13] State.reset) = some 2
    ∧ (after .setTiming (ctrl 6 [3, 12] State.reset)).settings.quiet = 3
    ∧ (after .setTiming (ctrl 6 [0, 12] State.reset)).settings.period = 12
    ∧ State.reset.standingDue = false
    ∧ (after .setTiming (ctrl 6 [0, 2] (reporting 0 0))).ctl.reportTimer = 0 := by decide

theorem test_witness_SplitClassAndPositionCommands :
    resultOf .setSplit (ctrl 2 [3] (laneB (record .idle 4 none))) = some 1
    ∧ (after .setSplit (ctrl 2 [1] State.reset)).store = State.reset.store
    ∧ (after .setSplit (ctrl 2 [3] State.reset)).store.free = { b := 49152, p := 16384 }
    ∧ resultOf .setClass (ctrl 4 [0, 0x20, 0, 1, 4, 0, 16] State.reset) = some 0
    ∧ (after .setClass (ctrl 4 [7, 0xF0, 0, 0, 0x40, 0, 32] State.reset)).settings.classes[7].batchSize
      = 32
    ∧ resultOf .setPosition (ctrl 5 [1, 0] State.reset) = some 0
    ∧ ((after .setPosition (ctrl 5 [16, 0xFF] State.reset)).validator 15).presence = .vacant
    ∧ (let s := feeding (delivering .sending 4 1 2) (still 6);
      ((after .setClass (ctrl 4 [0, 0, 9, 1, 4, 0, 16] s)).validator 0).lanes.b.delivery =
        Delivery.idleWith 0)
    ∧ (after .setClass (ctrl 4 [0, 0x20, 0, 1, 4, 0, 16] State.reset)).scan.reported = true
    ∧ (after .setPosition (ctrl 5 [1, 0] State.reset)).scan.reported = true := by decide

/-- A change ends a pause, and none leaves it; an exchange with a position set anew is marked. -/
theorem test_witness_settings_and_the_scanner :
    (let s := inRound (.paused 1000) 16 true State.reset;
      (after .setPosition (ctrl 5 [1, 1] s)).scan.roundNo = 1
      ∧ (after .setPosition (ctrl 5 [1, 0] s)).scan.phase = .paused 1000
      ∧ (after .setClass (ctrl 4 [0, 0, 9, 1, 4, 0, 16] s)).scan.nextPos = 0)
    ∧ (after .setPosition (ctrl 5 [1, 1] (link (.waiting polled) State.reset))).bus.link =
      .waiting { polled with recordGone := true }
    ∧ (after .setPosition (ctrl 5 [2, 1] (link (.waiting polled) State.reset))).bus.link =
      .waiting polled := by decide

/-- The exchange of a delivery on the line at a SET-CLASS of its class and of another, and at a
SET-POSITION. -/
theorem test_witness_settings_and_the_line :
    (let x : Addressed := { polled with frame := .batch .b 4 1 [] };
      let s := link (.waiting x) (feeding (delivering .sending 4 1 2) (still 6));
      (after .setClass (ctrl 4 [0, 0, 9, 1, 4, 0, 16] s)).bus.link =
        .waiting { x with deliveryGone := true }
      ∧ (after .setClass (ctrl 4 [1, 0, 9, 1, 4, 0, 16] s)).bus.link = .waiting x
      ∧ (after .setPosition (ctrl 5 [1, 1] s)).bus.link =
        .waiting { x with recordGone := true, deliveryGone := true }) := by decide

/-- From IDLE, STAGING, RETIRING and a DISCARDING that deferred its sweep. -/
theorem test_witness_ClearAndSubscribeEmptyTheLane :
    ((after .clear (ctrl 13 [1] (laneB (record .idle 4 none)))).lane .b).active = 0
    ∧ ((after .clear (ctrl 13 [1] (laneB (staging5 1)))).lane .b).discards = 1
    ∧ (after .clear (ctrl 13 [1] ((laneB (staging5 1)).setEngine (.waiting (segOf []) 0))
      )).store.engine = .empty
    ∧ ((after .clear (ctrl 13 [1] (laneB (record .retiring 4 (some (staged 5 0 1 0)))))).lane
      .b).undoDeferred = true
    ∧ (after .clear (ctrl 13 [1] (laneB (discardingWith none true)))).sweeper.sweep = none
    ∧ resultOf .subscribe (ctrl 3 [1, 0, 0] State.reset) = some 0
    ∧ resultOf .subscribe (ctrl 3 [1, 1, 0x9B] (subscribed State.reset)) = some 2
    ∧ ((after .subscribe (ctrl 3 [1, 0, 0] (subscribed State.reset))).lane .b).pendingCommand =
      some (.subscribe 0) := by decide

/-- A CLEAR with deliveries and a SWITCH in hand, while an item is being finished, and while the
removing sweep walks. -/
theorem test_witness_clear_and_the_scanner :
    (let s := feeding { delivering .sending 4 1 2 with faulty := 4, pending := 3 } (still 6);
      let s := link (.waiting { opened with frame := .batch .b 4 1 [] })
        { s with scan := { s.scan with broadcast := [sw] } };
      let t := after .clear (ctrl 13 [1] s);
      (t.validator 0).lanes.b =
        { vlane 0 3 true with delivery := Delivery.idleWith 0, dropOwed := 3 }
      ∧ t.scan.broadcast = []
      ∧ t.bus.link = .waiting { opened with frame := .batch .b 4 1 [], deliveryGone := true }
      ∧ (after .clear (ctrl 13 [1] (link (.postBroadcast sw) s))).scan.broadcast = [sw])
    ∧ (let s := finishing none [] 57344 [addItem 3 77];
      (after .clear (ctrl 13 [1] s)).sweeper = s.sweeper
      ∧ ((after .clear (ctrl 13 [1] s)).lane .b).pendingCommand = some .clear)
    ∧ (after .clear (ctrl 13 [1] (sweeping (discardingWith none false) [] (.undo 5) false 7))
      ).sweeper.requests = [{ lane := .b, kind := .clear, waiter := false }] := by decide

/-- Refused twice over, complete at once, and a discard from READY and from RETIRING. -/
theorem test_witness_RollbackCommand :
    resultOf .rollback (ctrl 12 [1] (laneB (record .idle 4 none))) = some 1
    ∧ resultOf .rollback (ctrl 12 [1] (laneB (discardingWith none false))) = some 1
    ∧ ((after .rollback (ctrl 12 [1] (laneB (withHistory (record .idle 4 none) [3, 2])))).lane
      .b).floor = 4
    ∧ ((after .rollback (ctrl 12 [1]
        (laneB (withHistory (record .ready 4 (some (staged 5 4 1 9))) [3])))).lane .b).lastReason =
      .aborted
    ∧ ((after .rollback (ctrl 12 [1]
        (laneB (withHistory (record .retiring 4 (some (staged 5 0 1 9))) [3])))).lane
      .b).undoDeferred = true
    ∧ resultOf .rollback (ctrl 12 [1] (laneB (withHistory (record .idle 4 none) [3]))) = some 0
    ∧ (let s := (feeding { delivering .sending 4 1 2 with faulty := 4 } (still 6)).setLane .b
          (withHistory (record .idle 4 none) [3]);
      let t := after .rollback (ctrl 12 [1]
        { s with scan := { s.scan with broadcast := [sw] } });
      (t.validator 0).lanes.b.delivery = Delivery.idleWith 0 ∧ (t.validator 0).lanes.b.faulty = 0
      ∧ t.scan.broadcast = []) := by decide

theorem test_witness_InspectReadsSlotsInOrder :
    argInspect State.reset.size [1, 0xDF, 0xFF, 16] = some (.b, 57343, 16)
    ∧ (after .inspect (ctrl 14 [1, 0xDF, 0xFF, 16] State.reset)).ctl.inspectSlot = 57343
    ∧ (after .inspectNext (ctrl 15 [1] State.reset)).ctl.command =
      .carryingOut (head 15) (.inspect 1 [])
    ∧ (carrying (.inspect 2 []) State.reset).nextGrant = some .control
    ∧ (after .inspectSlotRead (carrying (.inspect 2 []) State.reset)).ctl.inspectSlot = 1
    ∧ resultOf .inspectSlotRead (carrying (.inspect 1 []) State.reset) = some 0
    ∧ (let s := carrying (.inspect 1 []) State.reset;
      (after .inspectSlotRead { s with ctl := { s.ctl with inspectSlot := 57343 } }).ctl.inspectSlot =
        0) := by decide

/-- The first SAVE; one after the first place, one after the second at 65,535; and their completion. -/
theorem test_witness_SaveWritesTheOtherPlace :
    (let with_ (m : SettingsMemory) : State := ctrl 16 [] { State.reset with settingsMemory := m };
      (State.reset.settingsMemory.lastPlace = none
        ∧ ((after .save (with_ State.reset.settingsMemory)).ctl.command =
          .carryingOut (head 16) (.save .first { settings := Settings.default 0, number := 1 })))
      ∧ (after .save (with_ { memoryOf (some (savedWith 4 0)) none with lastPlace := some .first })
        ).ctl.command =
          .carryingOut (head 16) (.save .second { settings := Settings.default 0, number := 5 })
      ∧ (after .save (with_ { memoryOf none (some (savedWith 65535 0)) with lastPlace := some .second })
        ).ctl.command =
          .carryingOut (head 16) (.save .first { settings := Settings.default 0, number := 1 }))
    ∧ (after .saveWriteComplete saving).settingsMemory.lastPlace = some .first
    ∧ (after .saveWriteComplete (carrying (.save .second (savedWith 1 2)) State.reset)
      ).settingsMemory.place2 = some (savedWith 1 2) := by decide

theorem test_witness_StatusAndRestartAnswers :
    (after .status (ctrl 1 [] (queued 7 State.reset))).uplink.egress.length = 8
    ∧ (after .status (ctrl 1 [] saving)).ctl.command = saving.ctl.command
    ∧ (after .status (ctrl 1 [] saving)).uplink.egress.length = 1
    ∧ (after .restart (ctrl 17 [] State.reset)).ctl.command = .carryingOut (head 17) .restart := by
  decide

/-- A full egress queue, with the unit AVAILABLE and busy; and a RESTART in flight. -/
theorem test_witness_answers_without_room :
    (let full := queued 8 State.reset;
      let placing (s : State) : Bool := match s.ctl.command with
        | .placing a => a.body.take 4 == [0, 9, a.head.code, 0]
        | _ => false;
      placing (after .status (ctrl 1 [] full)) = true
      ∧ placing (after .restart (ctrl 17 [] full)) = true)
    ∧ (let s := ctrl 1 [] (queued 8 saving); after .status s = s)
    ∧ (let s := ctrl 1 [] (carrying .restart State.reset); after .status s = s) := by decide

/-! ### Witnesses of the clauses on messages, lists and layouts -/

/-- An ALERT of DISCARDED with its context: the body, and the figures that the rises of a step leave. -/
theorem test_witness_alert_bodies :
    ((enabled State.reset).rise (.discarded .b) { lane := 1, generation := 5, detail := 3 }
      ).uplink.egress.map OutboundMessage.body =
        [[0, 0, 1, 2, 0, 1, 0, 0, 5, 3, 0, 0, 0x80, 4, 0, 0, 0, 0, 0]]
    ∧ (let t := after .notice
        (enabled (noticed (record .staging 4 (some (staged 5 4 1 0))) 5 4 1 0 5 0));
      t.ctl.alertNo = 1 ∧ t.uplink.egress.map OutboundMessage.body =
        [[0, 0, 1, 2, 0, 1, 0, 0, 5, 3, 0, 0, 0x80, 4, 0, 0, 0, 0, 0]]) := by decide

/-- Each requester waiting, and a control unit with no slot left. -/
theorem test_witness_requesters_wait :
    (applyingB (staging5 1) [] 9 [addItem 3 77] 0 false).waits .apply = true
    ∧ (sweeping LaneRec.cold [] .reclaim false 0).waits .sweeper = true
    ∧ (building 0 []).waits .scanner = true
    ∧ (carrying (.inspect 1 []) State.reset).waits .control = true
    ∧ (carrying (.inspect 0 []) State.reset).waits .control = false := by decide

/-- Stream 0, a stream nobody follows, and a stream of each lane. -/
theorem test_witness_stream_filter :
    (subscribed State.reset).settings.laneOfStream 0 = none
    ∧ (subscribed State.reset).settings.laneOfStream 412 = none
    ∧ (subscribed State.reset).settings.laneOfStream 410 = some .b
    ∧ (subscribed State.reset).settings.laneOfStream 411 = some .p
    ∧ State.reset.settings.laneOfStream 0 = none := by decide

/-- The NOTICE of S again, a usable one of another generation and a stale one, in STAGING; and the NOTICE
of S again in RETIRING. -/
theorem test_witness_notices_that_change_the_view :
    (let delta := record .staging 4 (some (staged 5 4 1 0));
      let image := record .retiring 2 (some (staged 5 0 1 0));
      ((after .notice (noticed delta 5 4 1 0 5 3)).lane .b = { delta with viewNewest := 5, viewOldest := 3 }
        ∧ (after .notice (noticed delta 5 4 1 0 5 3)).uplink.counters.passedOver = 0)
      ∧ ((after .notice (noticed delta 6 5 1 0 6 3)).lane .b =
          { delta with viewNewest := 6, viewOldest := 3 }
        ∧ (after .notice (noticed delta 6 5 1 0 6 3)).uplink.ingress = [])
      ∧ ((after .notice (noticed delta 4 3 1 0 5 3)).lane .b =
          { delta with viewNewest := 5, viewOldest := 3 }
        ∧ (after .notice (noticed delta 4 3 1 0 5 3)).uplink.counters.passedOver = 1)
      ∧ (after .notice (noticed image 5 0 1 0 5 0)).lane .b =
        { image with viewNewest := 5, viewOldest := 0 }
      ∧ (after .notice (noticed image 2 1 1 0 5 1)).uplink.counters.passedOver = 1) := by decide

/-- A stale NOTICE that overtakes is counted as passed over as well. -/
theorem test_witness_stale_overtakes :
    (let t := after .notice (noticed (record .staging 4 (some (staged 5 4 1 0))) 4 3 1 0 6 0);
      (t.lane .b).lastReason = .overtaken ∧ t.uplink.counters.passedOver = 1
      ∧ t.uplink.ingress = []) := by decide

/-- An item within the segment and a position past it; a code visible and not; a record with no tail. -/
theorem test_witness_item_outcomes :
    (let s := applyingB (staging5 1) [] 57344 [addItem 3 77] 0 false;
      s.itemOutcome (segOf [addItem 3 77]) 0 =
        some (applyBlockItem 5 false 57344 [] (addItem 3 77))
      ∧ s.itemOutcome (segOf [addItem 3 77]) 1 = none)
    ∧ (applyingP.itemOutcome recordsP 0 =
        some (applyRecord 5 8192 [] (product 9 [1, 2, 3, 4, 5]))
      ∧ applyingP.itemOutcome recordsP 1 = none)
    ∧ fiveZones.hasCode 5 9 = true ∧ fiveZones.hasCode 4 9 = false ∧ fiveZones.hasCode 5 8 = false
    ∧ fiveZones.lowestFree 0 = 2
    ∧ (let zones (x : Entry) : List Nat := match x with
        | .head h => (fiveZones.recordAt h).zones
        | _ => [];
      zones (headOf 5 none) = [1, 2, 3, 4] ∧ zones (headOf 5 (some 1)) = [1, 2, 3, 4, 5]) := by decide

def request (l : Lane) (k : SweepKind) (waiter : Bool) : SweepRequest :=
  { lane := l, kind := k, waiter := waiter }

/-- A request joins the tail, or merges with the waiting one; never with the sweep in progress, which
starts at slot 0 when there is none. -/
theorem test_witness_request_list :
    joinRequests [request .p .reclaim false] (request .b .reclaim true) =
      [request .p .reclaim false, request .b .reclaim true]
    ∧ joinRequests [request .p .clear false, request .b (.undo 5) false, request .p .reclaim false]
        (request .b (.undo 9) true) =
      [request .p .clear false, request .b (.undo 5) true, request .p .reclaim false]
    ∧ (let s := sweeping LaneRec.cold [] .reclaim false 7;
      (s.requestSweep .b .reclaim false).sweeper.requests = [request .b .reclaim false]
      ∧ (s.requestSweep .b .reclaim false).sweeper.sweep = s.sweeper.sweep)
    ∧ Sweeper.start { requests := [], sweep := none } = { requests := [], sweep := none }
    ∧ (State.reset.requestSweep .p .clear false).sweeper =
      { requests := [], sweep := some { request := request .p .clear false, cursor := 0 } }
    ∧ (withHistory (record .ready 4 (some (staged 5 4 1 9))) [3, 2]).retained = [4, 3, 2, 5]
    ∧ (record .discarding 0 (some (staged 5 4 1 9))).retained = [] := by decide

/-- A second with no report timer and with one; both lanes due at a report of the clock, and one. -/
theorem test_witness_seconds_and_reports :
    (let s := clocked .locked 9 299 State.reset;
      s.standingDue = false ∧ s.settings.period = 0
      ∧ (after .localSecond s).ctl.flags = 0xA000)
    ∧ (let s : State := { reporting 0 0 with clock := (clocked .locked 9 5 State.reset).clock };
      s.standingDue = false ∧ s.settings.period ≠ 0
      ∧ (after .localSecond s).ctl.reportTimer = 1)
    ∧ ((readyAt 9 9 false).lane .b).state = .ready
    ∧ ((readyAt 9 9 false).reportClock.lane .b).active = 5
    ∧ (let s := (readyAt 9 9 false).setLane .p (record .ready 2 (some (staged 3 0 1 0)));
      (((s.testActivation .b).testActivation .p).lane .p).active = 3
      ∧ (((s.testActivation .p).testActivation .b).lane .b).active = 5) := by decide

/-- A visit due, and none while a broadcast waits; two tallies of one table. -/
theorem test_witness_visits_and_tallies :
    State.reset.visitDue = true ∧ (link (.waiting polled) State.reset).visitDue = false
    ∧ (inRound .visiting 0 false
        { State.reset with scan := { State.reset.scan with broadcast := [sw] } }).visitDue = false
    ∧ ((tallied 7 State.reset).scan.tallyOf 6 = some 7 ∧ (tallied 7 State.reset).scan.tallyOf 5 = none)
    ∧ State.reset.batchSize 0 = 16 := by decide

/-- The bytes of each frame of the part, before the CRC. -/
theorem test_witness_bus_frames :
    (let front (f : BusFrame) : List Byte := (busBytes 1 f).take ((busBytes 1 f).length - 2);
      front .poll = [1, 0, 1, 0, 0]
      ∧ front (.open .b 4 258 7 true) = [1, 0, 2, 0, 8, 1, 0, 0, 4, 1, 2, 7, 1]
      ∧ front (.batch .b 4 3 [.block 77 3]) =
        [1, 0, 3, 0, 15, 1, 0, 0, 4, 0, 3, 1, 0, 0, 0, 0, 0, 0, 77, 3]
      ∧ front (.close .p 4) = [1, 0, 4, 0, 4, 2, 0, 0, 4]
      ∧ front (.switch .b 4) = [1, 0, 5, 0, 4, 1, 0, 0, 4]
      ∧ front (.drop .b 4) = [1, 0, 6, 0, 4, 1, 0, 0, 4])
    ∧ (Link.sending (.broadcast sw)).broadcastOnLine = some sw
    ∧ (BusFrame.close .p 4).deliveryLane = some .p ∧ (BusFrame.switch .b 4).deliveryLane = none := by
  decide +kernel

/-- A STATUS with arguments out of turn: with room, without, and behind a RESTART. -/
theorem test_witness_status_out_of_turn :
    (let t := after .status (ctrl 1 [0] saving);
      t.uplink.egress.map OutboundMessage.body = [[0, 9, 1, 2]] ∧ t.uplink.control = []
      ∧ t.ctl.command = saving.ctl.command)
    ∧ (let s := ctrl 1 [0] (queued 8 saving); after .status s = s)
    ∧ (let s := ctrl 1 [0] (carrying .restart State.reset); after .status s = s) := by decide

/-- The inspect pointer in the lane records of a STANDING during an INSPECT, as the reads have left it; none
of it in a SAVE and in AVAILABLE; beside a command its stream. -/
theorem test_witness_pointer_in_a_standing :
    (let s := carrying (.inspect 2 []) State.reset;
      let at8190 : State := { s with ctl := { s.ctl with inspectLane := .p, inspectSlot := 8190 } };
      (∃ h left done, s.ctl.command = .carryingOut h (.inspect left done))
      ∧ (at8190.unusedStream .b = 2 ∧ at8190.unusedStream .p = 8190)
      ∧ (after .inspectSlotRead at8190).unusedStream .p = 8191
      ∧ encodeLaneCommand 8191 none = [0, 0x1F, 0xFF])
    ∧ (∀ h left done, saving.ctl.command ≠ .carryingOut h (.inspect left done))
    ∧ (saving.unusedStream .b = 0 ∧ saving.unusedStream .p = 0)
    ∧ encodeLaneCommand 2 (some (.subscribe 410)) = [3, 1, 0x9A]
    ∧ encodeLaneCommand 2 (some .clear) = [2, 0, 0] := by
  refine ⟨⟨⟨_, _, _, rfl⟩, by decide, by decide, by decide⟩, fun h left done e => ?_, by decide,
    by decide, by decide⟩
  simp [saving] at e

/-- The free value of a STANDING: the counter goes on at a STATUS answered with one, at a STATUS refused it
does not, and at a periodic STANDING it does; a sweep in progress shows its own bytes. -/
theorem test_witness_free_bytes_of_a_standing :
    ((after .status (ctrl 1 [] State.reset)).choices = 1
      ∧ (after .status (ctrl 1 [0] State.reset)).choices = 0
      ∧ (after .periodicStanding (reporting 4 0)).choices = 1
      ∧ (after .periodicStanding (reporting 4 8)).choices = 1)
    ∧ (let w := { request := { lane := .b, kind := .reclaim, waiter := false }, cursor := 7 };
      ∀ unused, encodeSweep unused (some w) = [3, 1, 0, 7]) := by
  exact ⟨by decide, fun _ => rfl⟩

/-- A reply whose characters come in two commands: an ACCEPT, and an overlong body whose heading is not
whole before. -/
theorem test_witness_reply_in_parts :
    (let s := link (.receiving opened (reply [0, 1, 0x82])) State.reset;
      (after (.replyReceived (reply [0, 0, 0x32])) s).bus.link =
        .receiving opened (reply [0, 1, 0x82, 0, 0, 0x32])
      ∧ (after (.replyReceived (reply [0x82])) (after (.replyReceived (reply [0, 0, 0x32])) s)).bus.link =
        .turnaround opened (.good .accept))
    ∧ (after (.replyReceived (reply [0, 17, 9])) (link (.receiving opened (reply [0, 1, 0x81])) State.reset)
      ).bus.link = .receiving opened (reply [0, 1, 0x81, 0, 17]) := by decide +kernel

/-- A good ACCEPT for a live delivery ends the run of misses; a record set up anew keeps its own, and the
round still ends there. -/
theorem test_witness_good_reply_and_the_miss_run :
    (let v : Validator := { present (delivering .opening 4 0 2) (still 6) with missRun := 2 };
      let s := setV 0 v (feeding (still 4) (still 6));
      (after .turnaroundGapEnd (ending opened (.good .accept) s)).validator 0 =
        { v with
          missRun := 0,
          lanes := v.lanes.set .b
            { delivering .sending 4 0 2 with
              delivery := { (delivering .sending 4 0 2).delivery with batchNo := 1 } } })
    ∧ (let s := inRound .visiting 16 true (feeding (still 4) (still 6));
      let t := after .turnaroundGapEnd
        (ending { opened with recordGone := true } (.miss .silent) s);
      t.scan.records = s.scan.records ∧ t.scan.phase = .paused 1000) := by decide

/-- RESET_ASSERTED with a broadcast waiting, a BATCH being built and its read wanted, a walk, a run of stray
traffic and a checked head. -/
theorem test_witness_work_ended_at_reset_asserted :
    (let s := walking 5;
      let s : State := { s with
        scan := { s.scan with
          broadcast := [sw], build := some { pos := 0, lane := .b, cursor := 3, items := [] } },
        bus := { s.bus with strayRun := true, stray := 7 },
        uplink := { s.uplink with checkedHead := some (segOf []) } };
      let t := after .resetAsserted s;
      t.scan = { s.scan with broadcast := [], build := none, read := none, walk := none }
      ∧ t.bus = { s.bus with link := .idle, strayRun := false } ∧ t.uplink.checkedHead = none) := by
  decide

/-- The product capacity in a lane-P delivery that starts; two reports at an activation and at a CLEAR, the
first of which ends an empty round; and the CONTROL of the CLEAR gone from its queue. -/
theorem test_witness_figures_and_two_reports :
    ((after .scannerVisit (tallied 1024 (feeding (still 4) (vlane 0 0 true)))).validator
      0).lanes.p.delivery.capacity = 1024
    ∧ (let nobody (s : State) : State :=
          { inRound .roundDue 0 false s with
            settings := { s.settings with roster := Vector.replicate 16 none } };
        let n := { noticed77 1 1 with e := 0 };
        let s := nobody (applyingB (record .staging 4 (some n)) [] 57344 [addItem 3 77] 0 false);
        let c := nobody (ctrl 13 [1] (laneB (staging5 1)));
        ((after .applyItem s).scan.roundNo = s.scan.roundNo + 1
          ∧ (after .applyItem s).scan.phase = .roundDue
          ∧ (after .applyItem s).scan.broadcast = [{ lane := .b, generation := 5 }])
        ∧ ((after .clear c).scan.roundNo = c.scan.roundNo + 2
          ∧ (after .clear c).scan.phase = .paused 1000 ∧ (after .clear c).uplink.control = [])) := by
  decide

/-- A BATCH being built at a SET-CLASS of its class and of another, at a SET-POSITION, and at a CLEAR of
its lane and of the other. -/
theorem test_witness_settings_and_the_build :
    (let s := inRound .visiting 1 true (building 3 []);
      let t := after .setClass (ctrl 4 [0, 0, 9, 1, 4, 0, 16] s);
      (t.scan.build = none ∧ t.scan.nextPos = 0 ∧ t.scan.read = none)
      ∧ (after .setClass (ctrl 4 [1, 0, 9, 1, 4, 0, 16] s)).scan.build = s.scan.build
      ∧ (after .setPosition (ctrl 5 [1, 1] s)).scan.build = none
      ∧ (after .setPosition (ctrl 5 [2, 1] s)).scan.build = s.scan.build
      ∧ (after .clear (ctrl 13 [1] s)).scan.build = none
      ∧ (after .clear (ctrl 13 [2] s)).scan.build = s.scan.build) := by decide

/-- A walk of the lane's ACTIVE given up at its CLEAR, with the BATCH read next; and one that goes on. -/
theorem test_witness_walks_at_reports :
    (let s := walking 5;
      let t := after .clear (ctrl 13 [2] s);
      (t.scan.walk = none ∧ t.scan.read = none)
      ∧ (after .clear (ctrl 13 [1] s)).scan.walk = s.scan.walk
      ∧ ∀ w, s.scan.walk = some w → w.generation ≠ 0)
    ∧ (let b : Build := { pos := 0, lane := .b, cursor := 3, items := [] };
      let s := walking 5;
      let s : State := { s with scan := { s.scan with build := some b } };
      (after .clear (ctrl 13 [2] s)).scan.read = some .batch) := by
  refine ⟨⟨by decide, by decide, ?_⟩, by decide⟩
  rintro w ⟨⟩
  decide

/-- A FREE slot, an entry, a head with a tail and its tail, in 28 bytes each. -/
theorem test_witness_slot_reports :
    (let bytes (slot : Nat) (e : Option Entry) : List Byte := encodeSlotReport { slot := slot, entry := e };
      bytes 258 none = [1, 2] ++ List.replicate 26 0
      ∧ bytes 0 (some (entry 77 3 4 (some 5))) =
        [0, 0, 1, 0, 0, 0, 0, 0, 0, 77, 3, 0, 0, 4, 0, 0, 5] ++ List.replicate 11 0
      ∧ bytes 0 (some (headOf 5 (some 1))) =
        [0, 0, 2, 0, 9, 3, 0, 250, 0, 125, 0, 10, 0, 20, 0, 5, 1, 2, 3, 4, 0, 0, 5, 0, 0, 0, 0, 1]
      ∧ bytes 1 (some (.tail { zones := [5], head := 0 })) =
        [0, 1, 3, 5, 0, 0, 0] ++ List.replicate 21 0) := by decide

/-! ### Witnesses: the invariants -/

theorem test_reset_region (l : Lane) : RegionInv (State.reset.size l) (State.reset.store.free.get l)
    (State.reset.region l) := by
  cases l <;> exact ⟨rfl, fun a x h => by simp [State.region, State.reset] at h, rfl⟩

theorem test_witness_EntryStoreKeepsItsForm : StoreInv State.reset ∧ LinkInv State.reset :=
  ⟨test_reset_region, fun l => by cases l <;> exact ⟨rfl, test_linksOk_empty⟩⟩

theorem test_witness_LaneRecordsKeepTheirForm : LaneInv State.reset := by
  refine ⟨fun l => ?_, trivial⟩
  cases l <;> exact ⟨fun h => by simp [State.lane, State.reset, PerLane.get, LaneRec.cold,
    LaneState.holdsStaging] at h, fun _ => rfl, by decide, by
      simp [State.lane, State.reset, PerLane.get, LaneRec.cold]⟩

theorem test_witness_RangesAreKept :
    ClockOk State.reset.clock ∧ QueueInv State.reset ∧ CounterInv State.reset := by
  refine ⟨by simp only [ClockOk]; decide, by simp only [QueueInv]; decide, ?_⟩
  simp only [CounterInv, UplinkCounters.inRange, LaneRec.countersInRange]
  refine ⟨by decide, fun l => by cases l <;> decide, by decide, by decide, by decide, by decide,
    by decide, by decide⟩

end Sys2Proof.Tests
end

section
/-! The NOTICE in the lane states that take only the view from it (O19). -/

namespace Sys2Proof.Machine

/-- The record of a lane after the view copy of R21. -/
def LaneRec.withView (r : LaneRec) (x : Notice) : LaneRec :=
  { r with viewNewest := x.newest, viewOldest := x.oldest }

theorem LaneRec.withView_state (r : LaneRec) (x : Notice) : (r.withView x).state = r.state := rfl

/-- The view copy moves neither ACTIVE nor the floor, so R21's test may be read off the record before it. -/
theorem LaneRec.withView_stale_iff (r : LaneRec) (x : Notice) :
    (r.withView x).stale x.g = true ↔ x.g ≤ max r.active r.floor :=
  decide_eq_true_iff

/-- R21 and R28 together: in READY and in DISCARDING the lane's own handling adds nothing to the view
copy and the stale count. -/
theorem State.takeNotice_of_ready_or_discarding {s : State} {l : Lane} (x : Notice)
    (h : (s.lane l).state = .ready ∨ (s.lane l).state = .discarding) :
    s.takeNotice l x =
      if x.g ≤ max (s.lane l).active (s.lane l).floor
      then (s.setLane l ((s.lane l).withView x)).countUplink .passed
      else s.setLane l ((s.lane l).withView x) := by
  have hview : (s.setLane l ((s.lane l).withView x)).lane l = (s.lane l).withView x :=
    State.lane_setLane_same s l _
  rw [State.takeNotice, ← LaneRec.withView, hview]
  simp only [LaneRec.withView_stale_iff, LaneRec.withView_state]
  obtain hready | hdiscarding := h
  · rw [hready]
  · rw [hdiscarding]

/-- Settles O19: the NOTICE step at a well-formed head (`exec_notice`) takes the NOTICE in the popped
state, where the lane's record is still that of `s`. -/
theorem readyOrDiscardingTakesOnlyTheView : Obligations.ReadyOrDiscardingTakesOnlyTheView := by
  intro s l x hhead hstate
  have htake := State.takeNotice_of_ready_or_discarding (s := s.popIngress) x hstate
  refine ⟨fun hstale => ?_, fun husable => ?_⟩
  · rw [exec_notice hhead, htake]
    exact congrArg _ (if_pos hstale)
  · rw [exec_notice hhead, htake]
    exact congrArg _ (if_neg (Nat.not_le.mpr husable))

end Sys2Proof.Machine
end

section
/-! The BEACON whose fleet time is too far behind a set clock (O15). -/

namespace Sys2Proof.Machine

theorem parseBeacon_of_length {body : List Byte} (hlen : body.length = 4) :
    parseBeacon body = some (beNat body) := if_pos hlen

/-- The BEACON step at a head of the right length (R8): the head leaves, and its fleet time is offered to
the clock. -/
theorem exec_beacon {s : State} {body : List Byte} (hp : s.power = .running)
    (hhead : s.headOf .beacon = some body) (hlen : body.length = 4) :
    exec .beacon s = .next (s.popIngress.offerBeacon (beNat body)) := by
  have hstep : beaconStep s = s.popIngress.offerBeacon (beNat body) := by
    simp only [beaconStep, hhead, parseBeacon_of_length hlen]
  rw [← hstep]
  exact State.whileRunning_running s beaconStep hp

/-- A set clock accepts a fleet time at or above its value, and one up to 600 below it. -/
theorem Clock.beacon_eq_none_iff_of_set {c : Clock} (hset : c.state ≠ .unset) (t : Nat) :
    c.beacon t = none ↔ t + 600 < c.value := by
  cases hstate : c.state with
  | unset => exact absurd hstate hset
  | locked | holdover =>
    simp only [Clock.beacon, hstate]
    split
    · exact iff_of_false (Option.some_ne_none _) (by omega)
    · split
      · exact iff_of_false (Option.some_ne_none _) (by omega)
      · exact iff_of_true rfl (by omega)

/-- R111: of a rejected fleet time the clock keeps only the count. -/
theorem State.offerBeacon_of_rejected {s : State} {t : Nat} (h : s.clock.beacon t = none) :
    s.offerBeacon t = { s with clock := { s.clock with rejected := bump s.clock.rejected } } := by
  simp only [State.offerBeacon, h]

/-- Settles O15: the clock rejects the fleet time (`Clock.beacon_eq_none_iff_of_set`), and taking the
message from the queue has left the clock as it was in `s`. -/
theorem farBeaconIsRejected : Obligations.FarBeaconIsRejected := by
  intro s body hp hhead hlen hset hfar
  have hrejected : s.popIngress.clock.beacon (beNat body) = none :=
    (Clock.beacon_eq_none_iff_of_set hset _).mpr hfar
  rw [exec_beacon hp hhead hlen, State.offerBeacon_of_rejected hrejected]
  rfl

end Sys2Proof.Machine
end

section
/-! The outcome "sent" of a broadcast SWITCH (O46). -/

namespace Sys2Proof.Machine

/-! ### The broadcast list as the round goes on (R145, R146) -/

@[simp] theorem State.nextRound_broadcast (s : State) :
    s.nextRound.scan.broadcast = s.scan.broadcast := by
  simp only [State.nextRound]
  split
  · exact (s.beginRound_lists _).2
  · rfl

@[simp] theorem State.endRound_broadcast (s : State) :
    s.endRound.scan.broadcast = s.scan.broadcast := by
  simp only [State.endRound]
  split
  · rfl
  · exact s.nextRound_broadcast

@[simp] theorem State.settleScan_broadcast (s : State) :
    s.settleScan.scan.broadcast = s.scan.broadcast := by
  cases hphase : s.scan.phase with
  | visiting =>
    simp only [State.settleScan, hphase]
    split
    · rfl
    · exact s.endRound_broadcast
  | roundDue =>
    simp only [State.settleScan, hphase]
    split
    · exact s.nextRound_broadcast
    · rfl
  | paused ms | awaitReset => simp only [State.settleScan, hphase]

/-! ### One record (R167) -/

/-- A validator switches to the pending generation of the lane alone. -/
theorem Validator.switched_of_pending {v : Validator} {w : Switch} (hpresent : v.presence = .present)
    (hpending : (v.lane w.lane).pending = w.generation) :
    v.switched w =
      v.setLane w.lane { v.lane w.lane with held := w.generation, pending := 0 } :=
  if_pos ⟨hpresent, hpending⟩

theorem Validator.switched_of_not_pending {v : Validator} {w : Switch}
    (h : ¬(v.presence = .present ∧ (v.lane w.lane).pending = w.generation)) : v.switched w = v :=
  if_neg h

/-! ### The step -/

/-- The outcome "sent" taken from the bus, before the round goes on: the link is IDLE, the SWITCH has
left the list, and the records are switched (R146, R167). -/
def State.broadcastSent (s : State) (w : Switch) : State :=
  { s with
    bus := { s.bus with link := .idle },
    scan := { s.scan with
      broadcast := s.scan.broadcast.tail,
      records := eachOf s.scan.records fun _ v => v.switched w } }

theorem State.broadcastSent_validator (s : State) (w : Switch) (pos : Fin 16) :
    (s.broadcastSent w).validator pos = (s.validator pos).switched w :=
  s.validator_eachValidator (fun _ v => v.switched w) pos

theorem exec_postBroadcastGapEnd {s : State} {w : Switch} (hp : s.power = .running)
    (hlink : s.bus.link = .postBroadcast w) :
    exec .postBroadcastGapEnd s = .next (s.broadcastSent w).settleScan := by
  have hstep : postBroadcastGapEndStep s = (s.broadcastSent w).settleScan := by
    simp only [postBroadcastGapEndStep, hlink]
    rfl
  rw [← hstep]
  exact State.whileRunning_running s postBroadcastGapEndStep hp

/-- Settles O46: the list and the records are those of `State.broadcastSent`, since the round's going on
moves neither; bus, lanes, store, flags and uplink are outside what it touches. -/
theorem broadcastSwitchesThePending : Obligations.BroadcastSwitchesThePending := by
  intro s w hp hlink
  obtain ⟨-, -, -, -, -, -, huplink, hlanes, hstore, -, -, hbus, hctl⟩ :=
    (s.broadcastSent w).settleScan_frame
  refine ⟨_, exec_postBroadcastGapEnd hp hlink, hbus, (s.broadcastSent w).settleScan_broadcast,
    hlanes, hstore, hctl, huplink, fun pos => ?_⟩
  have hrecord : (s.broadcastSent w).settleScan.validator pos = (s.validator pos).switched w := by
    rw [State.validator_settleScan, State.broadcastSent_validator]
  refine ⟨fun hpresent hpending => ?_, fun hother => ?_⟩
  · rw [hrecord, Validator.switched_of_pending hpresent hpending]
    rfl
  · rw [hrecord, Validator.switched_of_not_pending hother]

end Sys2Proof.Machine
end

section
/-! SET-TIMING with no STANDING due (O50). -/

namespace Sys2Proof.Machine

/-! ### The arguments (R174, R178) -/

/-- The converse side of `argSetTiming_iff`: what R178 answers ARGUMENT, as lengths and ranges. -/
theorem argSetTiming_eq_none_iff (args : List Byte) :
    argSetTiming args = none ↔ args.length ≠ 2 ∨ 3 < field args 0 1 ∨ 12 < field args 1 1 := by
  unfold argSetTiming
  split
  case isFalse hlen => exact iff_of_true rfl (.inl hlen)
  case isTrue hlen =>
    split
    case isFalse hquiet => exact iff_of_true rfl (.inr (.inl (by omega)))
    case isTrue hquiet =>
      split
      case isFalse hperiod => exact iff_of_true rfl (.inr (.inr (by omega)))
      case isTrue hperiod => exact iff_of_false (Option.some_ne_none _) (by omega)

theorem withArgs_of_none {α : Type} {read : List Byte → Option α} {args : List Byte}
    (hread : read args = none) (carry : CommandHead → α → State → State) (h : CommandHead)
    (s : State) : withArgs read carry h args s = s.answer h .argument [] := by
  simp only [withArgs, hread]

theorem withArgs_of_some {α : Type} {read : List Byte → Option α} {args : List Byte} {x : α}
    (hread : read args = some x) (carry : CommandHead → α → State → State) (h : CommandHead)
    (s : State) : withArgs read carry h args s = carry h x s := by
  simp only [withArgs, hread]

/-! ### The step -/

theorem State.standingIfDue_of_not_due {s : State} (h : s.standingDue = false) :
    s.standingIfDue = s := by
  simp only [State.standingIfDue, h, Bool.false_eq_true, if_false]

/-- Whether a STANDING is due depends on the period and the report timer alone, which the taking of a
command leaves (R184). -/
theorem State.popControl_standingDue (s : State) : s.popControl.standingDue = s.standingDue := rfl

/-- Both settings are stored; the report timer stays exactly with an equal period (R178). -/
theorem carrySetTiming_of_not_due {s : State} (hdue : s.standingDue = false) (h : CommandHead)
    (quiet : Fin 4) (period : Fin 13) :
    carrySetTiming h (quiet, period) s =
      ({ s with
          settings := { s.settings with quiet := quiet, period := period },
          ctl := { s.ctl with
            reportTimer := if period = s.settings.period then s.ctl.reportTimer else 0 } } : State
        ).answer h .done [] := by
  rw [carrySetTiming, State.standingIfDue_of_not_due hdue]

theorem exec_setTiming {s : State} {m : ControlMessage} (h : s.takes m 6) :
    exec .setTiming s =
      .next (withArgs argSetTiming carrySetTiming m.head m.args s.popControl) := by
  have hstep : setTimingStep s = withArgs argSetTiming carrySetTiming m.head m.args s.popControl :=
    State.takeCommand_takes h _
  obtain ⟨hrunning, -⟩ := h
  rw [← hstep]
  exact State.whileRunning_running s setTimingStep hrunning

/-- Settles O50: the two answers are the two sides of reading the arguments, and the STANDING not due in
`s` is not due once its head has been taken. -/
theorem setTimingStoresBothSettings : Obligations.SetTimingStoresBothSettings := by
  refine ⟨fun s m htakes => ⟨fun hrange => ?_, fun quiet period hargs hdue => ?_⟩, fun s => rfl⟩
  · have hread : argSetTiming m.args = none := (argSetTiming_eq_none_iff m.args).mpr hrange
    rw [exec_setTiming htakes, withArgs_of_none hread]
  · have hread : argSetTiming m.args = some (quiet, period) :=
      (argSetTiming_iff m.args quiet period).mpr hargs
    have hpopped : s.popControl.standingDue = false := s.popControl_standingDue.trans hdue
    rw [exec_setTiming htakes, withArgs_of_some hread, carrySetTiming_of_not_due hpopped]
    rfl

end Sys2Proof.Machine
end

section
/-! One step as a function of the state: what `exec` and `step` can answer (O1, O2), and how a property
kept by every command is kept by every step. -/

namespace Sys2Proof.Machine

/-- What a command does to the state in a part that takes it. -/
def actOf : Instr → State → State
  | .coldReset straps => coldResetStep straps
  | .frameArrival frame => frameStep frame
  | .beacon => beaconStep
  | .notice => noticeStep
  | .segmentCheck => segmentCheckStep
  | .segmentMatch => segmentMatchStep
  | .applyItem => applyItemStep
  | .retireSlot => retireSlotStep
  | .undoSlot => undoSlotStep
  | .reclaimSlot => reclaimSlotStep
  | .clearSlot => clearSlotStep
  | .localSecond => localSecondStep
  | .holdoverEntry => holdoverEntryStep
  | .scannerVisit => scannerVisitStep
  | .tallySlotRead => tallySlotReadStep
  | .batchSlotRead => batchSlotReadStep
  | .broadcastSwitch => broadcastSwitchStep
  | .busFrameSent => busFrameSentStep
  | .replyReceived chars => fun s => { s with bus := chars.foldl Bus.char s.bus }
  | .replyWindowEnd => fun s => s.setLink s.bus.link.windowEnd
  | .lineIdleGap => fun s => { s with bus := s.bus.idleGap }
  | .turnaroundGapEnd => turnaroundGapEndStep
  | .quietIntervalEnd => quietIntervalEndStep
  | .postBroadcastGapEnd => postBroadcastGapEndStep
  | .postResetGapEnd => postResetGapEndStep
  | .status => statusStep
  | .setSplit => setSplitStep
  | .subscribe => subscribeStep
  | .setClass => setClassStep
  | .setPosition => setPositionStep
  | .setTiming => setTimingStep
  | .setAddressing => setAddressingStep
  | .events => eventsStep
  | .acknowledge => acknowledgeStep
  | .hold => holdStep
  | .release => releaseStep
  | .rollback => rollbackStep
  | .clear => clearStep
  | .inspect => inspectStep
  | .inspectNext => inspectNextStep
  | .inspectSlotRead => inspectSlotReadStep
  | .save => saveStep
  | .saveWriteComplete => saveWriteCompleteStep
  | .restart => restartStep
  | .egressFrameSent => egressFrameSentStep
  | .periodicStanding => State.standingIfDue
  | .resetAsserted => resetAssertedStep
  | .replyStart => fun s => { s with bus := s.bus.startBit }

theorem exec_eq_whileRunning {c : Instr} (h : ∀ straps, c ≠ .coldReset straps) (s : State) :
    exec c s = s.whileRunning (actOf c) := by
  cases c with
  | coldReset straps => exact absurd rfl (h straps)
  | _ => rfl

/-- A command that a running part takes. -/
theorem exec_of_running {s : State} (h : s.power = .running) (c : Instr) :
    exec c s = .next (actOf c s) := by
  by_cases hc : ∃ straps, c = .coldReset straps
  · obtain ⟨straps, rfl⟩ := hc
    rfl
  · rw [exec_eq_whileRunning (fun straps he => hc ⟨straps, he⟩), State.whileRunning_running s _ h]

theorem exec_of_held {s : State} (h : s.power = .heldInReset) {c : Instr}
    (hc : ∀ straps, c ≠ .coldReset straps) : exec c s = .next s := by
  rw [exec_eq_whileRunning hc, State.whileRunning_held s _ h]

/-- All that a command can answer: the state it makes, or in a part held in reset the state itself. -/
theorem exec_next_cases {c : Instr} {s t : State} (h : exec c s = .next t) :
    t = actOf c s ∨ (s.power = .heldInReset ∧ t = s) := by
  cases hp : s.power with
  | running =>
    rw [exec_of_running hp] at h
    exact .inl (Host.Outcome.next.inj h).symm
  | heldInReset =>
    by_cases hc : ∃ straps, c = .coldReset straps
    · obtain ⟨straps, rfl⟩ := hc
      exact .inl (Host.Outcome.next.inj h).symm
    · rw [exec_of_held hp (fun straps he => hc ⟨straps, he⟩)] at h
      exact .inr ⟨rfl, (Host.Outcome.next.inj h).symm⟩

/-! ### A step -/

theorem step_nil {s : State} (h : s.pending = []) : step s = .next s := by
  simp only [step, h]

theorem step_cons (c : Instr) (rest : List Instr) (s : State) :
    step { s with pending := c :: rest } = exec c { s with pending := rest } := rfl

/-- All that a step can answer: the state itself, or what the front command makes of the queue's rest. -/
theorem step_next_cases {s t : State} (h : step s = .next t) :
    t = s ∨ ∃ c rest, s.pending = c :: rest ∧ exec c { s with pending := rest } = .next t := by
  cases hq : s.pending with
  | nil =>
    rw [step_nil hq] at h
    exact .inl (Host.Outcome.next.inj h).symm
  | cons c rest =>
    simp only [step, hq] at h
    exact .inr ⟨c, rest, rfl, h⟩

/-- What every command keeps, a step keeps. -/
theorem step_keeps {P : State → Prop} (queue : ∀ s rest, P s → P { s with pending := rest })
    (command : ∀ c s t, P s → exec c s = .next t → P t) {s t : State} (hs : P s)
    (h : step s = .next t) : P t := by
  obtain rfl | ⟨c, rest, -, hc⟩ := step_next_cases h
  · exact hs
  · exact command c _ t (queue s rest hs) hc

/-- What `actOf` keeps, a command keeps. -/
theorem exec_keeps {P : State → Prop} {c : Instr} {s t : State} (hs : P s) (act : P (actOf c s))
    (h : exec c s = .next t) : P t := by
  obtain rfl | ⟨-, rfl⟩ := exec_next_cases h
  · exact act
  · exact hs

/-- Settles O1: both sides are `step` by its definition. -/
theorem stepRunsFrontCommand : Obligations.StepRunsFrontCommand :=
  ⟨step_cons, fun _ => step_nil⟩

/-! ### The queue of commands -/

theorem exec_total (c : Instr) (s : State) : ∃ t, exec c s = .next t := by
  by_cases hc : ∃ straps, c = .coldReset straps
  · obtain ⟨straps, rfl⟩ := hc
    exact ⟨_, rfl⟩
  · exact ⟨_, exec_eq_whileRunning (fun straps he => hc ⟨straps, he⟩) s⟩

/-- No command touches the queue of commands. -/
theorem actOf_pending (c : Instr) (s : State) : (actOf c s).pending = s.pending := by
  cases c with
  | status => exact (statusStep_same s).1
  | setSplit => exact (setSplitStep_same s).1
  | subscribe => exact (subscribeStep_same s).1
  | setClass => exact (setClassStep_same s).1
  | setPosition => exact (setPositionStep_same s).1
  | setTiming => exact (setTimingStep_same s).1
  | setAddressing => exact (setAddressingStep_same s).1
  | events => exact (eventsStep_same s).1
  | acknowledge => exact (acknowledgeStep_same s).1
  | hold => exact (holdStep_same s).1
  | release => exact (releaseStep_same s).1
  | rollback => exact (rollbackStep_same s).1
  | clear => exact (clearStep_same s).1
  | inspect => exact (inspectStep_same s).1
  | inspectNext => exact (inspectNextStep_same s).1
  | inspectSlotRead => exact (inspectSlotReadStep_same s).1
  | save => exact (saveStep_same s).1
  | restart => exact (restartStep_same s).1
  | _ => simp [actOf]

/-- Settles O2: a command answers by `exec_total`, and what it answers has the queue of `actOf_pending`. -/
theorem everyCommandAnswersNext : Obligations.EveryCommandAnswersNext := by
  refine fun c s => ⟨?_, fun hheld hc => exec_of_held hheld hc⟩
  obtain ⟨t, ht⟩ := exec_total c s
  exact ⟨t, ht, exec_keeps (P := fun u => u.pending = s.pending) rfl (actOf_pending c s) ht⟩

end Sys2Proof.Machine
end

section
/-! What the shared procedures and the steps leave of the bus, the scanner and the control unit: the
facts of the frame statement (O11) that the laws do not state yet. -/

namespace Sys2Proof.Machine

/-! ### The bus beyond the state of its link -/

/-- The bus with the state of its link forgotten: the counters, the run of stray traffic and the frame
last handed over. -/
def Bus.beyondLink (b : Bus) : Bus := { b with link := .idle }

theorem Bus.beyondLink_eq_iff (a b : Bus) :
    a.beyondLink = b.beyondLink ↔
      a.strayRun = b.strayRun ∧ a.damaged = b.damaged ∧ a.wrong = b.wrong ∧ a.stray = b.stray
      ∧ a.line = b.line := by
  simp [Bus.beyondLink]

@[simp] theorem Bus.beyondLink_link (b : Bus) (k : Link) :
    ({ b with link := k } : Bus).beyondLink = b.beyondLink := rfl

@[simp] theorem State.abandonWhere_beyondLink (s : State) (l : Lane)
    (test : Fin 16 → Delivery → Bool) :
    (s.abandonWhere l test).bus.beyondLink = s.bus.beyondLink := by
  rw [State.abandonWhere_bus, Bus.beyondLink_link]

@[simp] theorem State.reportGone_beyondLink (s : State) (l : Lane) (g : Nat) :
    (s.reportGone l g).bus.beyondLink = s.bus.beyondLink := by
  cases l <;> simp [State.reportGone]

@[simp] theorem State.reportActivated_beyondLink (s : State) (l : Lane) (g : Nat) :
    (s.reportActivated l g).bus.beyondLink = s.bus.beyondLink := by
  simp [State.reportActivated]

@[simp] theorem State.reportRollback_beyondLink (s : State) (l : Lane) (g : Nat) :
    (s.reportRollback l g).bus.beyondLink = s.bus.beyondLink := by
  simp [State.reportRollback]

@[simp] theorem State.reportCleared_beyondLink (s : State) (l : Lane) :
    (s.reportCleared l).bus.beyondLink = s.bus.beyondLink := by
  cases l <;> simp [State.reportCleared]

@[simp] theorem State.discard_beyondLink (s : State) (l : Lane) (r : DiscardReason) (k : SweepKind) :
    (s.discard l r k).bus.beyondLink = s.bus.beyondLink := by
  simp only [State.discard]
  split <;> simp

@[simp] theorem State.discardUndo_beyondLink (s : State) (l : Lane) (r : DiscardReason) :
    (s.discardUndo l r).bus.beyondLink = s.bus.beyondLink := s.discard_beyondLink l r _

@[simp] theorem State.activate_beyondLink (s : State) (l : Lane) :
    (s.activate l).bus.beyondLink = s.bus.beyondLink := by
  simp only [State.activate]
  split <;> simp

@[simp] theorem State.testActivation_beyondLink (s : State) (l : Lane) :
    (s.testActivation l).bus.beyondLink = s.bus.beyondLink := by
  simp only [State.testActivation]
  split <;> simp

@[simp] theorem State.reportClock_beyondLink (s : State) :
    s.reportClock.bus.beyondLink = s.bus.beyondLink := by
  simp only [State.reportClock]
  split <;> simp

@[simp] theorem State.takeNotice_beyondLink (s : State) (l : Lane) (x : Notice) :
    (s.takeNotice l x).bus.beyondLink = s.bus.beyondLink := by
  simp only [State.takeNotice, State.testStaging, State.stageDelta, State.stageImage]
  repeat (any_goals split)
  all_goals simp

@[simp] theorem State.completeSegment_beyondLink (s : State) (l : Lane) (i : Nat) :
    (s.completeSegment l i).bus.beyondLink = s.bus.beyondLink := by
  simp only [State.completeSegment, State.verify]
  repeat (any_goals split)
  all_goals simp

@[simp] theorem State.takeOutcome_beyondLink (s : State) (seg : Segment) (pos : Nat) (retry : Bool)
    (o : ItemOutcome) : (s.takeOutcome seg pos retry o).bus.beyondLink = s.bus.beyondLink := by
  simp only [State.takeOutcome, State.nextItem, State.giveUpHistory]
  repeat (any_goals split)
  all_goals simp

@[simp] theorem State.completeRollback_beyondLink (s : State) (l : Lane) :
    (s.completeRollback l).bus.beyondLink = s.bus.beyondLink := by
  simp only [State.completeRollback]
  split <;> simp

@[simp] theorem State.acceptClear_beyondLink (s : State) (l : Lane) (cmd : LaneCommand) :
    (s.acceptClear l cmd).bus.beyondLink = s.bus.beyondLink := by
  simp only [State.acceptClear]
  split <;> simp

@[simp] theorem State.undoDone_beyondLink (s : State) (l : Lane) :
    (s.undoDone l).bus.beyondLink = s.bus.beyondLink := by
  simp only [State.undoDone]
  repeat (any_goals split)
  all_goals simp

@[simp] theorem State.changeClass_beyondLink (s : State) (c : Fin 8) (f : ClassRec) :
    (s.changeClass c f).bus.beyondLink = s.bus.beyondLink := by
  simp [State.changeClass]

@[simp] theorem State.changePosition_beyondLink (s : State) (pos : Fin 16) (entry : Option (Fin 8)) :
    (s.changePosition pos entry).bus.beyondLink = s.bus.beyondLink := by
  simp [State.changePosition, State.renewRecord]

@[simp] theorem State.missAt_beyondLink (s : State) (pos : Fin 16) :
    (s.missAt pos).bus.beyondLink = s.bus.beyondLink := by
  simp only [State.missAt]
  split <;> simp

@[simp] theorem State.writeStatus_beyondLink (s : State) (pos : Fin 16) (t : StatusReport) :
    (s.writeStatus pos t).bus.beyondLink = s.bus.beyondLink := by
  simp only [State.writeStatus]
  split <;> simp

@[simp] theorem State.applyReply_beyondLink (s : State) (x : Addressed) (r : Reply) :
    (s.applyReply x r).bus.beyondLink = s.bus.beyondLink := by
  simp only [State.applyReply]
  repeat (any_goals split)
  all_goals simp

@[simp] theorem State.applyOutcome_beyondLink (s : State) (x : Addressed) (o : ExchangeOutcome) :
    (s.applyOutcome x o).bus.beyondLink = s.bus.beyondLink := by
  simp only [State.applyOutcome]
  repeat (any_goals split)
  all_goals simp

/-! ### The tally table and the broadcast list -/

@[simp] theorem State.nextRound_lists (s : State) :
    s.nextRound.scan.tally = s.scan.tally ∧ s.nextRound.scan.build = s.scan.build
    ∧ s.nextRound.scan.read = s.scan.read ∧ s.nextRound.scan.walk = s.scan.walk := by
  simp only [State.nextRound]
  split <;> simp

@[simp] theorem State.endRound_lists (s : State) :
    s.endRound.scan.tally = s.scan.tally ∧ s.endRound.scan.build = s.scan.build
    ∧ s.endRound.scan.read = s.scan.read ∧ s.endRound.scan.walk = s.scan.walk := by
  simp only [State.endRound]
  split <;> simp

@[simp] theorem State.settleScan_lists (s : State) :
    s.settleScan.scan.tally = s.scan.tally ∧ s.settleScan.scan.build = s.scan.build
    ∧ s.settleScan.scan.read = s.scan.read ∧ s.settleScan.scan.walk = s.scan.walk := by
  simp only [State.settleScan]
  repeat (any_goals split)
  all_goals simp

@[simp] theorem State.reportStaging_lists (s : State) :
    s.reportStaging.scan.tally = s.scan.tally
    ∧ s.reportStaging.scan.broadcast = s.scan.broadcast := by
  simp [State.reportStaging]

@[simp] theorem State.activate_tally (s : State) (l : Lane) :
    (s.activate l).scan.tally = s.scan.tally := by
  simp only [State.activate, State.reportActivated, State.onWaitingSwitches]
  split <;> simp

@[simp] theorem State.testActivation_tally (s : State) (l : Lane) :
    (s.testActivation l).scan.tally = s.scan.tally := by
  simp only [State.testActivation]
  split <;> simp

@[simp] theorem State.reportClock_tally (s : State) : s.reportClock.scan.tally = s.scan.tally := by
  simp only [State.reportClock]
  split <;> simp

@[simp] theorem State.completeRollback_tally (s : State) (l : Lane) :
    (s.completeRollback l).scan.tally = s.scan.tally := by
  simp only [State.completeRollback, State.reportRollback, State.removeSwitch,
    State.onWaitingSwitches]
  split <;> simp

@[simp] theorem State.undoDone_tally (s : State) (l : Lane) :
    (s.undoDone l).scan.tally = s.scan.tally := by
  simp only [State.undoDone]
  repeat (any_goals split)
  all_goals simp

@[simp] theorem State.takeNotice_broadcast (s : State) (l : Lane) (x : Notice) :
    (s.takeNotice l x).scan.broadcast = s.scan.broadcast := by
  simp only [State.takeNotice, State.testStaging, State.stageDelta, State.stageImage,
    State.discardUndo]
  repeat (any_goals split)
  all_goals simp [State.discard_broadcast]

/-! ### A visit beyond the frame it hands to the bus -/

@[simp] theorem State.fixAndOpen_beyondFrame (s : State) (pos : Fin 16) (l : Lane) (g n : Nat) :
    (s.fixAndOpen pos l g n).scan.tally = s.scan.tally ∧ (s.fixAndOpen pos l g n).scan.broadcast = s.scan.broadcast
    ∧ (s.fixAndOpen pos l g n).bus.damaged = s.bus.damaged ∧ (s.fixAndOpen pos l g n).bus.wrong = s.bus.wrong
    ∧ (s.fixAndOpen pos l g n).bus.stray = s.bus.stray ∧ (s.fixAndOpen pos l g n).bus.strayRun = s.bus.strayRun := by
  simp only [State.fixAndOpen, State.setDelivery]
  repeat (any_goals split)
  all_goals simp

@[simp] theorem State.sendClose_beyondFrame (s : State) (pos : Fin 16) (l : Lane) :
    (s.sendClose pos l).scan.tally = s.scan.tally ∧ (s.sendClose pos l).scan.broadcast = s.scan.broadcast
    ∧ (s.sendClose pos l).bus.damaged = s.bus.damaged ∧ (s.sendClose pos l).bus.wrong = s.bus.wrong
    ∧ (s.sendClose pos l).bus.stray = s.bus.stray ∧ (s.sendClose pos l).bus.strayRun = s.bus.strayRun := by
  simp [State.sendClose, State.setDelivery]

@[simp] theorem State.deliveryFrame_beyondFrame (s : State) (pos : Fin 16) (l : Lane) :
    (s.deliveryFrame pos l).scan.tally = s.scan.tally ∧ (s.deliveryFrame pos l).scan.broadcast = s.scan.broadcast
    ∧ (s.deliveryFrame pos l).bus.damaged = s.bus.damaged ∧ (s.deliveryFrame pos l).bus.wrong = s.bus.wrong
    ∧ (s.deliveryFrame pos l).bus.stray = s.bus.stray ∧ (s.deliveryFrame pos l).bus.strayRun = s.bus.strayRun := by
  simp only [State.deliveryFrame, State.startBuild]
  repeat (any_goals split)
  all_goals simp

@[simp] theorem State.beginWalk_beyondFrame (s : State) (pos : Fin 16) :
    (s.beginWalk pos).scan.tally = s.scan.tally ∧ (s.beginWalk pos).scan.broadcast = s.scan.broadcast
    ∧ (s.beginWalk pos).bus.damaged = s.bus.damaged ∧ (s.beginWalk pos).bus.wrong = s.bus.wrong
    ∧ (s.beginWalk pos).bus.stray = s.bus.stray ∧ (s.beginWalk pos).bus.strayRun = s.bus.strayRun := by
  simp only [State.beginWalk]
  repeat (any_goals split)
  all_goals simp

@[simp] theorem State.startProduct_beyondFrame (s : State) (pos : Fin 16) :
    (s.startProduct pos).scan.tally = s.scan.tally ∧ (s.startProduct pos).scan.broadcast = s.scan.broadcast
    ∧ (s.startProduct pos).bus.damaged = s.bus.damaged ∧ (s.startProduct pos).bus.wrong = s.bus.wrong
    ∧ (s.startProduct pos).bus.stray = s.bus.stray ∧ (s.startProduct pos).bus.strayRun = s.bus.strayRun := by
  simp only [State.startProduct, State.markUnfit]
  repeat (any_goals split)
  all_goals simp

@[simp] theorem State.startDelivery_beyondFrame (s : State) (pos : Fin 16) :
    (s.startDelivery pos).scan.tally = s.scan.tally ∧ (s.startDelivery pos).scan.broadcast = s.scan.broadcast
    ∧ (s.startDelivery pos).bus.damaged = s.bus.damaged ∧ (s.startDelivery pos).bus.wrong = s.bus.wrong
    ∧ (s.startDelivery pos).bus.stray = s.bus.stray ∧ (s.startDelivery pos).bus.strayRun = s.bus.strayRun := by
  simp only [State.startDelivery]
  repeat (any_goals split)
  all_goals simp

@[simp] theorem State.visitPresent_beyondFrame (s : State) (pos : Fin 16) :
    (s.visitPresent pos).scan.tally = s.scan.tally ∧ (s.visitPresent pos).scan.broadcast = s.scan.broadcast
    ∧ (s.visitPresent pos).bus.damaged = s.bus.damaged ∧ (s.visitPresent pos).bus.wrong = s.bus.wrong
    ∧ (s.visitPresent pos).bus.stray = s.bus.stray ∧ (s.visitPresent pos).bus.strayRun = s.bus.strayRun := by
  simp only [State.visitPresent]
  repeat (any_goals split)
  all_goals simp

@[simp] theorem State.visit_beyondFrame (s : State) (pos : Fin 16) :
    (s.visit pos).scan.tally = s.scan.tally ∧ (s.visit pos).scan.broadcast = s.scan.broadcast
    ∧ (s.visit pos).bus.damaged = s.bus.damaged ∧ (s.visit pos).bus.wrong = s.bus.wrong
    ∧ (s.visit pos).bus.stray = s.bus.stray ∧ (s.visit pos).bus.strayRun = s.bus.strayRun := by
  simp only [State.visit]
  repeat (any_goals split)
  all_goals simp

end Sys2Proof.Machine
end

section
/-! Taking a command and taking a sweep's slot, as equations; and the parts that each step leaves. -/

namespace Sys2Proof.Machine

/-! ### What taking a command makes of the state -/

theorem State.takeCommand_eq (s : State) (code : Nat)
    (carry : CommandHead → List Byte → State → State) :
    s.takeCommand code carry = s
    ∨ (∃ h, s.takeCommand code carry = s.popControl.answer h .unknown [])
    ∨ ∃ m : ControlMessage, s.takeCommand code carry = carry m.head m.args s.popControl := by
  apply State.takeCommand_cases (P := fun t => t = s
    ∨ (∃ h, t = s.popControl.answer h .unknown [])
    ∨ ∃ m : ControlMessage, t = carry m.head m.args s.popControl)
  · exact .inl rfl
  · exact fun m _ _ _ => .inr (.inr ⟨m, rfl⟩)
  · exact fun m _ _ _ => .inr (.inl ⟨m.head, rfl⟩)

/-- A command that reads its arguments is not taken, is answered without being carried out, or is
carried out. -/
theorem State.takeCommand_withArgs_eq {α : Type} (s : State) (code : Nat)
    (read : List Byte → Option α) (carry : CommandHead → α → State → State) :
    s.takeCommand code (withArgs read carry) = s
    ∨ (∃ h r, s.takeCommand code (withArgs read carry) = s.popControl.answer h r [])
    ∨ ∃ h x, s.takeCommand code (withArgs read carry) = carry h x s.popControl := by
  obtain h | ⟨m, h⟩ | ⟨m, h⟩ := s.takeCommand_eq code (withArgs read carry)
  · exact .inl h
  · exact .inr (.inl ⟨m, .unknown, h⟩)
  · cases hread : read m.args with
    | none => exact .inr (.inl ⟨m.head, .argument, by rw [h, withArgs_of_none hread]⟩)
    | some x => exact .inr (.inr ⟨m.head, x, by rw [h, withArgs_of_some hread]⟩)

/-- What `s` has, what the answering and what the carrying out keep, holds after the step. -/
theorem State.takeCommand_withArgs_keeps {P : State → Prop} {α : Type} {s : State} {code : Nat}
    {read : List Byte → Option α} {carry : CommandHead → α → State → State} (same : P s)
    (answered : ∀ h r, P (s.popControl.answer h r []))
    (carried : ∀ h x, P (carry h x s.popControl)) : P (s.takeCommand code (withArgs read carry)) := by
  obtain h | ⟨m, r, h⟩ | ⟨m, x, h⟩ := s.takeCommand_withArgs_eq code read carry
  · rw [h]
    exact same
  · rw [h]
    exact answered m r
  · rw [h]
    exact carried m x

/-! ### What taking a slot makes of the state (R76) -/

/-- The grant, and the slot changed by the sweep's kind. -/
def State.sweptSlot (s : State) (w : Sweep) : State :=
  (s.granted .sweeper).setRegion w.request.lane
    (sweepSlot w.request.kind (s.lane w.request.lane).retained (s.region w.request.lane) w.cursor)

@[simp] theorem State.sweptSlot_frame (s : State) (w : Sweep) :
    (s.sweptSlot w).pending = s.pending
    ∧ (s.sweptSlot w).choices = s.choices
    ∧ (s.sweptSlot w).power = s.power
    ∧ (s.sweptSlot w).straps = s.straps
    ∧ (s.sweptSlot w).settings = s.settings
    ∧ (s.sweptSlot w).settingsMemory = s.settingsMemory
    ∧ (s.sweptSlot w).uplink = s.uplink
    ∧ (s.sweptSlot w).lanes = s.lanes
    ∧ (s.sweptSlot w).sweeper = s.sweeper
    ∧ (s.sweptSlot w).clock = s.clock
    ∧ (s.sweptSlot w).bus = s.bus
    ∧ (s.sweptSlot w).scan = s.scan
    ∧ (s.sweptSlot w).ctl = s.ctl := by
  simp [State.sweptSlot]

@[simp] theorem State.sweptSlot_store (s : State) (w : Sweep) :
    (s.sweptSlot w).store.engine = s.store.engine
    ∧ (s.sweptSlot w).store.lastGranted = .sweeper := ⟨rfl, rfl⟩

/-- The slot taken, with no sweep in progress. -/
def State.sweptLast (s : State) (w : Sweep) : State :=
  { s.sweptSlot w with sweeper := { s.sweeper with sweep := none } }

@[simp] theorem State.sweptLast_frame (s : State) (w : Sweep) :
    (s.sweptLast w).pending = s.pending
    ∧ (s.sweptLast w).choices = s.choices
    ∧ (s.sweptLast w).power = s.power
    ∧ (s.sweptLast w).straps = s.straps
    ∧ (s.sweptLast w).settings = s.settings
    ∧ (s.sweptLast w).settingsMemory = s.settingsMemory
    ∧ (s.sweptLast w).uplink = s.uplink
    ∧ (s.sweptLast w).lanes = s.lanes
    ∧ (s.sweptLast w).clock = s.clock
    ∧ (s.sweptLast w).bus = s.bus
    ∧ (s.sweptLast w).scan = s.scan
    ∧ (s.sweptLast w).ctl = s.ctl
    ∧ (s.sweptLast w).store = (s.sweptSlot w).store
    ∧ (s.sweptLast w).sweeper = { s.sweeper with sweep := none } := by
  simp [State.sweptLast]

theorem State.sweepStep_on {s : State} {w : Sweep} (h : w.cursor + 1 < s.size w.request.lane) :
    s.sweepStep w =
      { s.sweptSlot w with
        sweeper := { s.sweeper with sweep := some { w with cursor := w.cursor + 1 } } } := by
  have hsize : w.cursor + 1 < (s.sweptSlot w).size w.request.lane := h
  simp only [State.sweepStep]
  exact if_pos hsize

theorem State.sweepStep_last {s : State} {w : Sweep}
    (h : ¬ w.cursor + 1 < s.size w.request.lane) :
    s.sweepStep w =
      { (s.sweptLast w).sweepDone w.request with
        sweeper := ((s.sweptLast w).sweepDone w.request).sweeper.start } := by
  have hsize : ¬ w.cursor + 1 < (s.sweptSlot w).size w.request.lane := h
  simp only [State.sweepStep]
  exact if_neg hsize

/-- What `s` keeps at the slot and at the report of the completion, it keeps at the step. -/
theorem State.sweepStep_keeps {P : State → Prop} {s : State} {w : Sweep}
    (slot : ∀ k, P { s.sweptSlot w with sweeper := k })
    (done : P (s.sweptLast w) → P ((s.sweptLast w).sweepDone w.request))
    (started : ∀ t k, P t → P { t with sweeper := k }) : P (s.sweepStep w) := by
  by_cases h : w.cursor + 1 < s.size w.request.lane
  · exact State.sweepStep_on h ▸ slot _
  · exact State.sweepStep_last h ▸ started _ _ (done (slot _))

theorem State.grantedSweep_eq_some {s : State} {w : Sweep} :
    s.grantedSweep = some w ↔ s.nextGrant = some .sweeper ∧ s.sweeper.sweep = some w := by
  simp only [State.grantedSweep]
  split <;> simp_all

theorem retireSlotStep_cases (s : State) : retireSlotStep s = s ∨ ∃ w g,
    s.grantedSweep = some w ∧ w.request.kind = .retire g ∧ retireSlotStep s = s.sweepStep w := by
  simp only [retireSlotStep]
  split
  · next w hw =>
    split
    · next g hk => exact .inr ⟨w, g, hw, hk, rfl⟩
    · exact .inl rfl
  · exact .inl rfl

theorem undoSlotStep_cases (s : State) : undoSlotStep s = s ∨ ∃ w g,
    s.grantedSweep = some w ∧ w.request.kind = .undo g ∧ undoSlotStep s = s.sweepStep w := by
  simp only [undoSlotStep]
  split
  · next w hw =>
    split
    · next g hk => exact .inr ⟨w, g, hw, hk, rfl⟩
    · exact .inl rfl
  · exact .inl rfl

theorem reclaimSlotStep_cases (s : State) : reclaimSlotStep s = s ∨ ∃ w,
    s.grantedSweep = some w ∧ w.request.kind = .reclaim ∧ reclaimSlotStep s = s.sweepStep w := by
  simp only [reclaimSlotStep]
  split
  · next w hw =>
    split
    · next hk => exact .inr ⟨w, hw, hk, rfl⟩
    · exact .inl rfl
  · exact .inl rfl

theorem clearSlotStep_cases (s : State) : clearSlotStep s = s ∨ ∃ w,
    s.grantedSweep = some w ∧ w.request.kind = .clear ∧ clearSlotStep s = s.sweepStep w := by
  simp only [clearSlotStep]
  split
  · next w hw =>
    split
    · next hk => exact .inr ⟨w, hw, hk, rfl⟩
    · exact .inl rfl
  · exact .inl rfl

/-! ### The parts of the other steps -/

@[simp] theorem frameStep_parts (s : State) (frame : List Byte) :
    (frameStep frame s).uplink.lastFrame = s.uplink.lastFrame
    ∧ (frameStep frame s).ctl.command = s.ctl.command
    ∧ (frameStep frame s).ctl.inspectLane = s.ctl.inspectLane
    ∧ (frameStep frame s).ctl.inspectSlot = s.ctl.inspectSlot
    ∧ (frameStep frame s).ctl.reportTimer = s.ctl.reportTimer
    ∧ (frameStep frame s).ctl.cause = s.ctl.cause := by
  simp only [frameStep, State.offerIngress, State.offerControl]
  repeat (any_goals split)
  all_goals simp

@[simp] theorem beaconStep_parts (s : State) :
    (beaconStep s).uplink.control = s.uplink.control
    ∧ (beaconStep s).uplink.lastFrame = s.uplink.lastFrame
    ∧ (beaconStep s).ctl.command = s.ctl.command
    ∧ (beaconStep s).ctl.inspectLane = s.ctl.inspectLane
    ∧ (beaconStep s).ctl.inspectSlot = s.ctl.inspectSlot
    ∧ (beaconStep s).ctl.reportTimer = s.ctl.reportTimer ∧ (beaconStep s).ctl.cause = s.ctl.cause
    ∧ (beaconStep s).scan.tally = s.scan.tally := by
  simp only [beaconStep, State.offerBeacon]
  repeat (any_goals split)
  all_goals simp

@[simp] theorem beaconStep_beyondLink (s : State) :
    (beaconStep s).bus.beyondLink = s.bus.beyondLink := by
  simp only [beaconStep, State.offerBeacon]
  repeat (any_goals split)
  all_goals simp

@[simp] theorem noticeStep_parts (s : State) :
    (noticeStep s).uplink.control = s.uplink.control
    ∧ (noticeStep s).uplink.lastFrame = s.uplink.lastFrame
    ∧ (noticeStep s).ctl.command = s.ctl.command
    ∧ (noticeStep s).ctl.inspectLane = s.ctl.inspectLane
    ∧ (noticeStep s).ctl.inspectSlot = s.ctl.inspectSlot
    ∧ (noticeStep s).ctl.reportTimer = s.ctl.reportTimer ∧ (noticeStep s).ctl.cause = s.ctl.cause
    ∧ (noticeStep s).store.regions = s.store.regions ∧ (noticeStep s).store.free = s.store.free
    ∧ (noticeStep s).scan.broadcast = s.scan.broadcast := by
  simp only [noticeStep]
  repeat (any_goals split)
  all_goals simp

@[simp] theorem noticeStep_beyondLink (s : State) :
    (noticeStep s).bus.beyondLink = s.bus.beyondLink := by
  simp only [noticeStep]
  repeat (any_goals split)
  all_goals simp

@[simp] theorem segmentCheckStep_parts (s : State) :
    (segmentCheckStep s).uplink.control = s.uplink.control
    ∧ (segmentCheckStep s).uplink.egress = s.uplink.egress
    ∧ (segmentCheckStep s).uplink.lastFrame = s.uplink.lastFrame := by
  simp only [segmentCheckStep]
  repeat (any_goals split)
  all_goals simp

@[simp] theorem segmentMatchStep_parts (s : State) :
    (segmentMatchStep s).uplink.control = s.uplink.control
    ∧ (segmentMatchStep s).uplink.egress = s.uplink.egress
    ∧ (segmentMatchStep s).uplink.lastFrame = s.uplink.lastFrame
    ∧ (segmentMatchStep s).store.regions = s.store.regions
    ∧ (segmentMatchStep s).store.free = s.store.free
    ∧ (segmentMatchStep s).store.lastGranted = s.store.lastGranted := by
  simp only [segmentMatchStep, State.matchHead]
  repeat (any_goals split)
  all_goals simp

@[simp] theorem applyItemStep_parts (s : State) :
    (applyItemStep s).uplink.ingress = s.uplink.ingress
    ∧ (applyItemStep s).uplink.checkedHead = s.uplink.checkedHead
    ∧ (applyItemStep s).uplink.control = s.uplink.control
    ∧ (applyItemStep s).uplink.lastFrame = s.uplink.lastFrame
    ∧ (applyItemStep s).ctl.command = s.ctl.command
    ∧ (applyItemStep s).ctl.inspectLane = s.ctl.inspectLane
    ∧ (applyItemStep s).ctl.inspectSlot = s.ctl.inspectSlot
    ∧ (applyItemStep s).ctl.reportTimer = s.ctl.reportTimer
    ∧ (applyItemStep s).ctl.cause = s.ctl.cause := by
  simp only [applyItemStep]
  repeat (any_goals split)
  all_goals simp

@[simp] theorem applyItemStep_beyondLink (s : State) :
    (applyItemStep s).bus.beyondLink = s.bus.beyondLink := by
  simp only [applyItemStep]
  repeat (any_goals split)
  all_goals simp

@[simp] theorem State.standingIfDue_parts (s : State) :
    s.standingIfDue.uplink.ingress = s.uplink.ingress
    ∧ s.standingIfDue.uplink.checkedHead = s.uplink.checkedHead
    ∧ s.standingIfDue.uplink.control = s.uplink.control
    ∧ s.standingIfDue.uplink.counters = s.uplink.counters
    ∧ s.standingIfDue.uplink.lastFrame = s.uplink.lastFrame
    ∧ s.standingIfDue.ctl.flags = s.ctl.flags ∧ s.standingIfDue.ctl.alertNo = s.ctl.alertNo
    ∧ s.standingIfDue.ctl.command = s.ctl.command
    ∧ s.standingIfDue.ctl.inspectLane = s.ctl.inspectLane
    ∧ s.standingIfDue.ctl.inspectSlot = s.ctl.inspectSlot
    ∧ s.standingIfDue.ctl.cause = s.ctl.cause := by
  simp only [State.standingIfDue, State.makeStanding]
  repeat (any_goals split)
  all_goals simp

@[simp] theorem localSecondStep_parts (s : State) :
    (localSecondStep s).uplink.ingress = s.uplink.ingress
    ∧ (localSecondStep s).uplink.checkedHead = s.uplink.checkedHead
    ∧ (localSecondStep s).uplink.control = s.uplink.control
    ∧ (localSecondStep s).uplink.lastFrame = s.uplink.lastFrame
    ∧ (localSecondStep s).ctl.command = s.ctl.command
    ∧ (localSecondStep s).ctl.inspectLane = s.ctl.inspectLane
    ∧ (localSecondStep s).ctl.inspectSlot = s.ctl.inspectSlot
    ∧ (localSecondStep s).ctl.cause = s.ctl.cause
    ∧ (localSecondStep s).scan.tally = s.scan.tally := by
  simp only [localSecondStep]
  repeat (any_goals split)
  all_goals simp

@[simp] theorem localSecondStep_beyondLink (s : State) :
    (localSecondStep s).bus.beyondLink = s.bus.beyondLink := by
  simp only [localSecondStep]
  repeat (any_goals split)
  all_goals simp

@[simp] theorem holdoverEntryStep_parts (s : State) :
    (holdoverEntryStep s).uplink.ingress = s.uplink.ingress
    ∧ (holdoverEntryStep s).uplink.checkedHead = s.uplink.checkedHead
    ∧ (holdoverEntryStep s).uplink.control = s.uplink.control
    ∧ (holdoverEntryStep s).uplink.lastFrame = s.uplink.lastFrame
    ∧ (holdoverEntryStep s).ctl.command = s.ctl.command
    ∧ (holdoverEntryStep s).ctl.inspectLane = s.ctl.inspectLane
    ∧ (holdoverEntryStep s).ctl.inspectSlot = s.ctl.inspectSlot
    ∧ (holdoverEntryStep s).ctl.cause = s.ctl.cause
    ∧ (holdoverEntryStep s).scan.tally = s.scan.tally := by
  simp only [holdoverEntryStep]
  split <;> simp

@[simp] theorem holdoverEntryStep_beyondLink (s : State) :
    (holdoverEntryStep s).bus.beyondLink = s.bus.beyondLink := by
  simp only [holdoverEntryStep]
  split <;> simp

@[simp] theorem scannerVisitStep_parts (s : State) :
    (scannerVisitStep s).uplink.ingress = s.uplink.ingress
    ∧ (scannerVisitStep s).uplink.checkedHead = s.uplink.checkedHead
    ∧ (scannerVisitStep s).uplink.control = s.uplink.control
    ∧ (scannerVisitStep s).uplink.lastFrame = s.uplink.lastFrame
    ∧ (scannerVisitStep s).ctl.command = s.ctl.command
    ∧ (scannerVisitStep s).ctl.inspectLane = s.ctl.inspectLane
    ∧ (scannerVisitStep s).ctl.inspectSlot = s.ctl.inspectSlot
    ∧ (scannerVisitStep s).ctl.reportTimer = s.ctl.reportTimer
    ∧ (scannerVisitStep s).ctl.cause = s.ctl.cause
    ∧ (scannerVisitStep s).scan.tally = s.scan.tally
    ∧ (scannerVisitStep s).scan.broadcast = s.scan.broadcast
    ∧ (scannerVisitStep s).bus.damaged = s.bus.damaged
    ∧ (scannerVisitStep s).bus.wrong = s.bus.wrong ∧ (scannerVisitStep s).bus.stray = s.bus.stray
    ∧ (scannerVisitStep s).bus.strayRun = s.bus.strayRun := by
  simp only [scannerVisitStep]
  repeat (any_goals split)
  all_goals simp

@[simp] theorem tallySlotReadStep_parts (s : State) :
    (tallySlotReadStep s).store.regions = s.store.regions
    ∧ (tallySlotReadStep s).store.free = s.store.free
    ∧ (tallySlotReadStep s).store.engine = s.store.engine
    ∧ (tallySlotReadStep s).scan.records = s.scan.records
    ∧ (tallySlotReadStep s).scan.phase = s.scan.phase
    ∧ (tallySlotReadStep s).scan.roundNo = s.scan.roundNo
    ∧ (tallySlotReadStep s).scan.nextPos = s.scan.nextPos
    ∧ (tallySlotReadStep s).scan.exchanged = s.scan.exchanged
    ∧ (tallySlotReadStep s).scan.reported = s.scan.reported
    ∧ (tallySlotReadStep s).scan.broadcast = s.scan.broadcast := by
  simp only [tallySlotReadStep, State.enterTally]
  repeat (any_goals split)
  all_goals simp

@[simp] theorem batchSlotReadStep_parts (s : State) :
    (batchSlotReadStep s).store.regions = s.store.regions
    ∧ (batchSlotReadStep s).store.free = s.store.free
    ∧ (batchSlotReadStep s).store.engine = s.store.engine
    ∧ (batchSlotReadStep s).scan.tally = s.scan.tally
    ∧ (batchSlotReadStep s).scan.broadcast = s.scan.broadcast
    ∧ (batchSlotReadStep s).bus.damaged = s.bus.damaged
    ∧ (batchSlotReadStep s).bus.wrong = s.bus.wrong
    ∧ (batchSlotReadStep s).bus.stray = s.bus.stray
    ∧ (batchSlotReadStep s).bus.strayRun = s.bus.strayRun := by
  simp only [batchSlotReadStep, State.sendBuild]
  repeat (any_goals split)
  all_goals simp

@[simp] theorem broadcastSwitchStep_parts (s : State) :
    (broadcastSwitchStep s).bus.damaged = s.bus.damaged
    ∧ (broadcastSwitchStep s).bus.wrong = s.bus.wrong
    ∧ (broadcastSwitchStep s).bus.stray = s.bus.stray
    ∧ (broadcastSwitchStep s).bus.strayRun = s.bus.strayRun
    ∧ (broadcastSwitchStep s).scan.records = s.scan.records
    ∧ (broadcastSwitchStep s).scan.broadcast = s.scan.broadcast
    ∧ (broadcastSwitchStep s).scan.tally = s.scan.tally
    ∧ (broadcastSwitchStep s).scan.build = s.scan.build
    ∧ (broadcastSwitchStep s).scan.read = s.scan.read
    ∧ (broadcastSwitchStep s).scan.walk = s.scan.walk := by
  simp only [broadcastSwitchStep]
  split <;> simp

@[simp] theorem State.missAt_lists (s : State) (pos : Fin 16) :
    (s.missAt pos).scan.tally = s.scan.tally
    ∧ (s.missAt pos).scan.broadcast = s.scan.broadcast := by
  simp only [State.missAt]
  split <;> simp

@[simp] theorem State.goodAt_lists (s : State) (pos : Fin 16) :
    (s.goodAt pos).scan.tally = s.scan.tally
    ∧ (s.goodAt pos).scan.broadcast = s.scan.broadcast := by
  simp only [State.goodAt]
  split <;> simp

@[simp] theorem State.failedAttempt_lists (s : State) (pos : Fin 16) (l : Lane) (owed : Bool) :
    (s.failedAttempt pos l owed).scan.tally = s.scan.tally
    ∧ (s.failedAttempt pos l owed).scan.broadcast = s.scan.broadcast := by
  simp only [State.failedAttempt, State.markFaulty]
  split <;> simp

@[simp] theorem State.writeStatus_lists (s : State) (pos : Fin 16) (t : StatusReport) :
    (s.writeStatus pos t).scan.tally = s.scan.tally
    ∧ (s.writeStatus pos t).scan.broadcast = s.scan.broadcast := by
  simp only [State.writeStatus]
  split <;> simp

@[simp] theorem State.noteCapacity_lists (s : State) (pos : Fin 16) (r : Reply) :
    (s.noteCapacity pos r).scan.tally = s.scan.tally
    ∧ (s.noteCapacity pos r).scan.broadcast = s.scan.broadcast := by
  simp only [State.noteCapacity]
  split <;> simp

@[simp] theorem State.applyReply_lists (s : State) (x : Addressed) (r : Reply) :
    (s.applyReply x r).scan.tally = s.scan.tally
    ∧ (s.applyReply x r).scan.broadcast = s.scan.broadcast := by
  simp only [State.applyReply, State.openReply, State.closeReply, State.switchReply,
    State.markFaulty]
  repeat (any_goals split)
  all_goals simp

@[simp] theorem State.applyOutcome_lists (s : State) (x : Addressed) (o : ExchangeOutcome) :
    (s.applyOutcome x o).scan.tally = s.scan.tally
    ∧ (s.applyOutcome x o).scan.broadcast = s.scan.broadcast := by
  simp only [State.applyOutcome]
  repeat (any_goals split)
  all_goals simp

/-- An outcome counts in DAMAGED and WRONG alone (R134). -/
@[simp] theorem Bus.countOutcome_parts (b : Bus) (o : ExchangeOutcome) :
    (b.countOutcome o).strayRun = b.strayRun ∧ (b.countOutcome o).stray = b.stray
    ∧ (b.countOutcome o).line = b.line := by
  simp only [Bus.countOutcome]
  split <;> simp

/-- The outcome handed over: counted, and the link IDLE (R122, R134). -/
def State.handOver (s : State) (o : ExchangeOutcome) : State :=
  { s with bus := { s.bus.countOutcome o with link := .idle } }

theorem turnaroundGapEndStep_of {s : State} {x : Addressed} {o : ExchangeOutcome}
    (h : s.bus.link = .turnaround x o) :
    turnaroundGapEndStep s = ((s.handOver o).applyOutcome x o).settleScan := by
  simp only [turnaroundGapEndStep, h, State.handOver]

@[simp] theorem State.handOver_bus (s : State) (o : ExchangeOutcome) :
    (s.handOver o).bus = { s.bus.countOutcome o with link := .idle } := rfl

theorem turnaroundGapEndStep_not {s : State} (h : ∀ x o, s.bus.link ≠ .turnaround x o) :
    turnaroundGapEndStep s = s := by
  unfold turnaroundGapEndStep
  split
  · next x o hlink => exact absurd hlink (h x o)
  · rfl

theorem turnaroundGapEndStep_bus (s : State) :
    (turnaroundGapEndStep s).bus.strayRun = s.bus.strayRun
    ∧ (turnaroundGapEndStep s).bus.stray = s.bus.stray
    ∧ (turnaroundGapEndStep s).bus.line = s.bus.line := by
  by_cases h : ∃ x o, s.bus.link = .turnaround x o
  · obtain ⟨x, o, h⟩ := h
    obtain ⟨hrun, -, -, hstray, hline⟩ :=
      (Bus.beyondLink_eq_iff _ _).mp ((s.handOver o).applyOutcome_beyondLink x o)
    rw [turnaroundGapEndStep_of h]
    simp [hrun, hstray, hline]
  · simp only [not_exists] at h
    simp [turnaroundGapEndStep_not h]

@[simp] theorem turnaroundGapEndStep_parts (s : State) :
    (turnaroundGapEndStep s).uplink.ingress = s.uplink.ingress
    ∧ (turnaroundGapEndStep s).uplink.checkedHead = s.uplink.checkedHead
    ∧ (turnaroundGapEndStep s).uplink.control = s.uplink.control
    ∧ (turnaroundGapEndStep s).uplink.lastFrame = s.uplink.lastFrame
    ∧ (turnaroundGapEndStep s).ctl.command = s.ctl.command
    ∧ (turnaroundGapEndStep s).ctl.inspectLane = s.ctl.inspectLane
    ∧ (turnaroundGapEndStep s).ctl.inspectSlot = s.ctl.inspectSlot
    ∧ (turnaroundGapEndStep s).ctl.reportTimer = s.ctl.reportTimer
    ∧ (turnaroundGapEndStep s).ctl.cause = s.ctl.cause
    ∧ (turnaroundGapEndStep s).scan.tally = s.scan.tally
    ∧ (turnaroundGapEndStep s).scan.broadcast = s.scan.broadcast := by
  simp only [turnaroundGapEndStep]
  split <;> simp

@[simp] theorem postBroadcastGapEndStep_parts (s : State) :
    (postBroadcastGapEndStep s).scan.tally = s.scan.tally
    ∧ (postBroadcastGapEndStep s).scan.build = s.scan.build
    ∧ (postBroadcastGapEndStep s).scan.read = s.scan.read
    ∧ (postBroadcastGapEndStep s).scan.walk = s.scan.walk := by
  simp only [postBroadcastGapEndStep]
  split <;> simp

@[simp] theorem postBroadcastGapEndStep_beyondLink (s : State) :
    (postBroadcastGapEndStep s).bus.beyondLink = s.bus.beyondLink := by
  simp only [postBroadcastGapEndStep]
  split <;> simp

@[simp] theorem postResetGapEndStep_parts (s : State) :
    (postResetGapEndStep s).scan.records = s.scan.records
    ∧ (postResetGapEndStep s).scan.broadcast = s.scan.broadcast
    ∧ (postResetGapEndStep s).scan.tally = s.scan.tally
    ∧ (postResetGapEndStep s).scan.build = s.scan.build
    ∧ (postResetGapEndStep s).scan.read = s.scan.read
    ∧ (postResetGapEndStep s).scan.walk = s.scan.walk := by
  simp only [postResetGapEndStep]
  split <;> simp

@[simp] theorem postResetGapEndStep_beyondLink (s : State) :
    (postResetGapEndStep s).bus.beyondLink = s.bus.beyondLink := by
  simp only [postResetGapEndStep]
  split <;> simp

@[simp] theorem quietIntervalEndStep_parts (s : State) :
    (quietIntervalEndStep s).scan.records = s.scan.records
    ∧ (quietIntervalEndStep s).scan.broadcast = s.scan.broadcast
    ∧ (quietIntervalEndStep s).scan.tally = s.scan.tally
    ∧ (quietIntervalEndStep s).scan.build = s.scan.build
    ∧ (quietIntervalEndStep s).scan.read = s.scan.read
    ∧ (quietIntervalEndStep s).scan.walk = s.scan.walk := by
  simp only [quietIntervalEndStep]
  split <;> simp

/-! ### The link's own steps (R122, R126) -/

@[simp] theorem Bus.startBit_parts (b : Bus) :
    b.startBit.damaged = b.damaged ∧ b.startBit.wrong = b.wrong ∧ b.startBit.stray = b.stray
    ∧ b.startBit.line = b.line := by
  simp only [Bus.startBit]
  split <;> simp

@[simp] theorem Bus.char_parts (b : Bus) (c : RxChar) :
    (b.char c).damaged = b.damaged ∧ (b.char c).wrong = b.wrong ∧ (b.char c).stray = b.stray
    ∧ (b.char c).line = b.line := by
  simp only [Bus.char]
  split <;> simp

@[simp] theorem Bus.chars_parts (chars : List RxChar) (b : Bus) :
    (chars.foldl Bus.char b).damaged = b.damaged ∧ (chars.foldl Bus.char b).wrong = b.wrong
    ∧ (chars.foldl Bus.char b).stray = b.stray ∧ (chars.foldl Bus.char b).line = b.line := by
  induction chars generalizing b with
  | nil => simp
  | cons c cs ih => simp [ih]

@[simp] theorem Bus.idleGap_line (b : Bus) : b.idleGap.line = b.line := by
  simp only [Bus.idleGap]
  split <;> simp

/-! ### The completions that answer a command (R35, R45) -/

@[simp] theorem State.laneCommandDone_ctl (s : State) (l : Lane) :
    (s.laneCommandDone l).ctl.inspectLane = s.ctl.inspectLane
    ∧ (s.laneCommandDone l).ctl.inspectSlot = s.ctl.inspectSlot
    ∧ (s.laneCommandDone l).ctl.reportTimer = s.ctl.reportTimer
    ∧ (s.laneCommandDone l).ctl.cause = s.ctl.cause := by
  simp only [State.laneCommandDone]
  repeat (any_goals split)
  all_goals simp

@[simp] theorem State.undoDone_ctl (s : State) (l : Lane) :
    (s.undoDone l).ctl.inspectLane = s.ctl.inspectLane
    ∧ (s.undoDone l).ctl.inspectSlot = s.ctl.inspectSlot
    ∧ (s.undoDone l).ctl.reportTimer = s.ctl.reportTimer
    ∧ (s.undoDone l).ctl.cause = s.ctl.cause := by
  simp only [State.undoDone]
  repeat (any_goals split)
  all_goals simp

@[simp] theorem State.clearDone_ctl (s : State) (l : Lane) :
    (s.clearDone l).uplink.counters = s.uplink.counters
    ∧ (s.clearDone l).ctl.flags = s.ctl.flags ∧ (s.clearDone l).ctl.alertNo = s.ctl.alertNo
    ∧ (s.clearDone l).ctl.inspectLane = s.ctl.inspectLane
    ∧ (s.clearDone l).ctl.inspectSlot = s.ctl.inspectSlot
    ∧ (s.clearDone l).ctl.reportTimer = s.ctl.reportTimer
    ∧ (s.clearDone l).ctl.cause = s.ctl.cause := by
  simp only [State.clearDone]
  repeat (any_goals split)
  all_goals simp

/-! ### The settings memory (R188, R189) -/

/-- With no SAVE in flight the loss of power cuts none. -/
theorem State.cutSave_of_not_saving {s : State} (h : ∀ place saved, ¬ s.savingTo place saved) :
    s.cutSave = s := by
  simp only [State.cutSave]
  split
  · next head place saved hc => exact absurd ⟨head, hc⟩ (h place saved)
  · rfl

@[simp] theorem saveWriteCompleteStep_frame (s : State) :
    (saveWriteCompleteStep s).power = s.power ∧ (saveWriteCompleteStep s).straps = s.straps
    ∧ (saveWriteCompleteStep s).settings = s.settings ∧ (saveWriteCompleteStep s).lanes = s.lanes
    ∧ (saveWriteCompleteStep s).store = s.store ∧ (saveWriteCompleteStep s).sweeper = s.sweeper
    ∧ (saveWriteCompleteStep s).clock = s.clock ∧ (saveWriteCompleteStep s).bus = s.bus
    ∧ (saveWriteCompleteStep s).scan = s.scan := by
  simp only [saveWriteCompleteStep]
  split <;> simp

@[simp] theorem saveWriteCompleteStep_parts (s : State) :
    (saveWriteCompleteStep s).uplink.ingress = s.uplink.ingress
    ∧ (saveWriteCompleteStep s).uplink.checkedHead = s.uplink.checkedHead
    ∧ (saveWriteCompleteStep s).uplink.control = s.uplink.control
    ∧ (saveWriteCompleteStep s).uplink.counters = s.uplink.counters
    ∧ (saveWriteCompleteStep s).uplink.lastFrame = s.uplink.lastFrame
    ∧ (saveWriteCompleteStep s).ctl.flags = s.ctl.flags
    ∧ (saveWriteCompleteStep s).ctl.alertNo = s.ctl.alertNo
    ∧ (saveWriteCompleteStep s).ctl.inspectLane = s.ctl.inspectLane
    ∧ (saveWriteCompleteStep s).ctl.inspectSlot = s.ctl.inspectSlot
    ∧ (saveWriteCompleteStep s).ctl.reportTimer = s.ctl.reportTimer
    ∧ (saveWriteCompleteStep s).ctl.cause = s.ctl.cause := by
  simp only [saveWriteCompleteStep]
  split <;> simp

/-! ### A read of an INSPECT (R186) -/

@[simp] theorem inspectSlotReadStep_frame (s : State) :
    (inspectSlotReadStep s).power = s.power ∧ (inspectSlotReadStep s).straps = s.straps
    ∧ (inspectSlotReadStep s).settings = s.settings
    ∧ (inspectSlotReadStep s).settingsMemory = s.settingsMemory
    ∧ (inspectSlotReadStep s).lanes = s.lanes ∧ (inspectSlotReadStep s).sweeper = s.sweeper
    ∧ (inspectSlotReadStep s).clock = s.clock ∧ (inspectSlotReadStep s).bus = s.bus
    ∧ (inspectSlotReadStep s).scan = s.scan := by
  simp only [inspectSlotReadStep]
  repeat (any_goals split)
  all_goals simp

@[simp] theorem inspectSlotReadStep_parts (s : State) :
    (inspectSlotReadStep s).store.regions = s.store.regions
    ∧ (inspectSlotReadStep s).store.free = s.store.free
    ∧ (inspectSlotReadStep s).store.engine = s.store.engine
    ∧ (inspectSlotReadStep s).uplink.ingress = s.uplink.ingress
    ∧ (inspectSlotReadStep s).uplink.checkedHead = s.uplink.checkedHead
    ∧ (inspectSlotReadStep s).uplink.control = s.uplink.control
    ∧ (inspectSlotReadStep s).uplink.counters = s.uplink.counters
    ∧ (inspectSlotReadStep s).uplink.lastFrame = s.uplink.lastFrame
    ∧ (inspectSlotReadStep s).ctl.flags = s.ctl.flags
    ∧ (inspectSlotReadStep s).ctl.alertNo = s.ctl.alertNo
    ∧ (inspectSlotReadStep s).ctl.reportTimer = s.ctl.reportTimer
    ∧ (inspectSlotReadStep s).ctl.cause = s.ctl.cause := by
  simp only [inspectSlotReadStep, State.inspectRead]
  repeat (any_goals split)
  all_goals simp

/-! ### The resets (R190, R191) -/

@[simp] theorem State.riseRestarted_parts (s : State) :
    s.riseRestarted.uplink.ingress = s.uplink.ingress
    ∧ s.riseRestarted.uplink.checkedHead = s.uplink.checkedHead
    ∧ s.riseRestarted.uplink.control = s.uplink.control
    ∧ s.riseRestarted.uplink.lastFrame = s.uplink.lastFrame
    ∧ s.riseRestarted.ctl.command = s.ctl.command
    ∧ s.riseRestarted.ctl.inspectLane = s.ctl.inspectLane
    ∧ s.riseRestarted.ctl.inspectSlot = s.ctl.inspectSlot
    ∧ s.riseRestarted.ctl.reportTimer = s.ctl.reportTimer
    ∧ s.riseRestarted.ctl.cause = s.ctl.cause := by
  simp [State.riseRestarted]

@[simp] theorem coldResetStep_parts (straps : Byte) (s : State) :
    (coldResetStep straps s).uplink.lastFrame = s.uplink.lastFrame
    ∧ (coldResetStep straps s).bus.line = s.bus.line := by
  simp only [coldResetStep, State.coldValues]
  split <;> simp

@[simp] theorem egressFrameSentStep_frame (s : State) :
    (egressFrameSentStep s).settingsMemory = s.settingsMemory
    ∧ (egressFrameSentStep s).power = s.power ∧ (egressFrameSentStep s).straps = s.straps
    ∧ (egressFrameSentStep s).bus.line = s.bus.line := by
  simp only [egressFrameSentStep, State.warmReset, State.warmValues]
  repeat (any_goals split)
  all_goals simp

theorem saveWriteCompleteStep_of_not_saving {s : State}
    (h : ∀ place saved, ¬ s.savingTo place saved) : saveWriteCompleteStep s = s := by
  simp only [saveWriteCompleteStep]
  split
  · next head place saved hc => exact absurd ⟨head, hc⟩ (h place saved)
  · rfl

end Sys2Proof.Machine
end

section
/-! The frame of every command (O11). -/

namespace Sys2Proof.Machine

/-! ### What each command makes of the state when it is carried out, branch by branch -/

theorem carrySetSplit_cases (h : CommandHead) (k : Fin 4) (s : State) :
    carrySetSplit h k s = s.answer h .state [] ∨ carrySetSplit h k s = s.answer h .done []
    ∨ carrySetSplit h k s = (s.redraw k).answer h .done [] := by
  simp only [carrySetSplit]
  split
  · exact .inl rfl
  · split
    · exact .inr (.inl rfl)
    · exact .inr (.inr rfl)

theorem carrySubscribe_cases (h : CommandHead) (x : Lane × Nat) (s : State) :
    carrySubscribe h x s = s.answer h .done [] ∨ carrySubscribe h x s = s.answer h .argument []
    ∨ carrySubscribe h x s =
      (s.carryOut h (.lane x.1)).acceptClear x.1 (.subscribe x.2) := by
  simp only [carrySubscribe]
  split
  · exact .inl rfl
  · split
    · exact .inr (.inl rfl)
    · exact .inr (.inr rfl)

theorem carrySetClass_cases (h : CommandHead) (x : Fin 8 × ClassRec) (s : State) :
    carrySetClass h x s = s.noteReport.answer h .done []
    ∨ carrySetClass h x s = (s.changeClass x.1 x.2).answer h .done [] := by
  simp only [carrySetClass]
  split
  · exact .inl rfl
  · exact .inr rfl

theorem carrySetPosition_cases (h : CommandHead) (x : Fin 16 × Option (Fin 8)) (s : State) :
    carrySetPosition h x s = s.noteReport.answer h .done []
    ∨ carrySetPosition h x s = (s.changePosition x.1 x.2).answer h .done [] := by
  simp only [carrySetPosition]
  split
  · exact .inl rfl
  · exact .inr rfl

theorem carryRollback_cases (h : CommandHead) (l : Lane) (s : State) :
    carryRollback h l s = s.answer h .state []
    ∨ carryRollback h l s = (s.completeRollback l).answer h .done []
    ∨ carryRollback h l s = ((s.carryOut h (.lane l)).discardUndo l .aborted).setLane l
      { ((s.carryOut h (.lane l)).discardUndo l .aborted).lane l with
        pendingCommand := some .rollback } := by
  simp only [carryRollback]
  split
  · exact .inl rfl
  · split
    · exact .inr (.inl rfl)
    · exact .inr (.inr rfl)

/-- A STATUS answered out of turn, or taken in turn; the rest of a STATUS is its answering. -/
theorem statusStep_cases (s : State) :
    statusStep s = s
    ∨ (∃ h, statusStep s = s.popControl.answer h .unknown [])
    ∨ (∃ body args, s.egressRoom = true ∧
      statusStep s = (s.popControl.place .answer body false).statusTaken args)
    ∨ ∃ a args, a.restart = false ∧ a.addressing = none ∧
      statusStep s = (s.popControl.deliverAnswer a).statusTaken args := by
  unfold statusStep
  split
  · next m rest hturn _ =>
    split
    · refine .inr (.inr (.inl ⟨_, _, ?_, rfl⟩))
      simp only [State.outOfTurn] at hturn
      split at hturn <;> simp_all
    · exact .inl rfl
  · obtain h | ⟨m, h⟩ | ⟨m, h⟩ := s.takeCommand_eq 1 fun h args s =>
      (s.deliverAnswer
        { head := h, body := statusAnswer h args s, addressing := none, restart := false }
        ).statusTaken args
    · exact .inl h
    · exact .inr (.inl ⟨m, h⟩)
    · exact .inr (.inr (.inr ⟨_, _, rfl, rfl, h⟩))

/-! ### Their parts -/

@[simp] theorem State.deliverAnswer_parts (s : State) (a : PendingAnswer) :
    (s.deliverAnswer a).uplink.ingress = s.uplink.ingress
    ∧ (s.deliverAnswer a).uplink.checkedHead = s.uplink.checkedHead
    ∧ (s.deliverAnswer a).uplink.control = s.uplink.control
    ∧ (s.deliverAnswer a).uplink.lastFrame = s.uplink.lastFrame
    ∧ (s.deliverAnswer a).uplink.counters = s.uplink.counters
    ∧ (s.deliverAnswer a).ctl.flags = s.ctl.flags ∧ (s.deliverAnswer a).ctl.alertNo = s.ctl.alertNo
    ∧ (s.deliverAnswer a).ctl.inspectLane = s.ctl.inspectLane
    ∧ (s.deliverAnswer a).ctl.inspectSlot = s.ctl.inspectSlot
    ∧ (s.deliverAnswer a).ctl.reportTimer = s.ctl.reportTimer
    ∧ (s.deliverAnswer a).ctl.cause = s.ctl.cause := by
  simp only [State.deliverAnswer, State.placeAnswer]
  repeat (any_goals split)
  all_goals simp

theorem State.deliverAnswer_settings (s : State) {a : PendingAnswer} (h : a.addressing = none) :
    (s.deliverAnswer a).settings = s.settings := by
  simp only [State.deliverAnswer, State.placeAnswer, h]
  split <;> simp

@[simp] theorem State.changeClass_lists (s : State) (c : Fin 8) (f : ClassRec) :
    (s.changeClass c f).scan.tally = s.scan.tally
    ∧ (s.changeClass c f).scan.broadcast = s.scan.broadcast := by
  simp [State.changeClass]

@[simp] theorem State.changePosition_lists (s : State) (pos : Fin 16) (entry : Option (Fin 8)) :
    (s.changePosition pos entry).scan.tally = s.scan.tally
    ∧ (s.changePosition pos entry).scan.broadcast = s.scan.broadcast := by
  simp [State.changePosition, State.renewRecord]

@[simp] theorem State.redraw_ctl (s : State) (k : Fin 4) :
    (s.redraw k).ctl = { s.ctl with inspectLane := .b, inspectSlot := 0 } := rfl

@[simp] theorem State.redraw_engine (s : State) (k : Fin 4) :
    (s.redraw k).store.engine = s.store.engine
    ∧ (s.redraw k).store.lastGranted = s.store.lastGranted := ⟨rfl, rfl⟩

@[simp] theorem State.noteReport_scan (s : State) :
    s.noteReport.scan = { s.scan with reported := true } := rfl

/-- Settles O11: a command is its step (`exec_next_cases`), and the frame lemmas say field by field what a
step leaves; a part held in reset leaves everything. -/
theorem commandsTouchOnlyTheirBlocks : Obligations.CommandsTouchOnlyTheirBlocks := by
  intro c s t h
  obtain rfl | ⟨-, rfl⟩ := exec_next_cases h
  · clear h
    have figures (b : Bus) := (Bus.beyondLink_eq_iff b s.bus).mp
    cases c with
    | coldReset straps =>
      refine ⟨fun hnot => ?_, ?_⟩
      · simp [actOf, coldResetStep, State.cutSave_of_not_saving hnot, State.coldValues]
      · simp [actOf]
    | resetAsserted =>
      refine ⟨fun hnot => ?_, ?_⟩
      · simp [actOf, resetAssertedStep, State.cutSave_of_not_saving hnot, State.dropWork]
      · simp [actOf, resetAssertedStep, State.dropWork]
    | egressFrameSent => simp [actOf]
    | saveWriteComplete =>
      refine ⟨fun hnot => ?_, ?_⟩
      · simp [actOf, saveWriteCompleteStep_of_not_saving hnot]
      · simp [actOf]
    | setSplit =>
      obtain h | ⟨_, _, h⟩ | ⟨k, x, h⟩ := s.takeCommand_withArgs_eq 2 argSplit carrySetSplit
      · simp [actOf, setSplitStep, h]
      · simp [actOf, setSplitStep, h]
      · obtain e | e | e := carrySetSplit_cases k x s.popControl
        all_goals simp [actOf, setSplitStep, h, e]
    | status =>
      obtain h | ⟨_, h⟩ | ⟨_, _, _, h⟩ | ⟨_, _, _, ha, h⟩ := statusStep_cases s
      all_goals simp [actOf, h]
      exact State.deliverAnswer_settings _ ha
    | subscribe =>
      obtain h | ⟨_, _, h⟩ | ⟨k, x, h⟩ := s.takeCommand_withArgs_eq 3 argSubscribe carrySubscribe
      · simp [actOf, subscribeStep, h]
      · simp [actOf, subscribeStep, h]
      · obtain e | e | e := carrySubscribe_cases k x s.popControl
        all_goals simp [actOf, subscribeStep, h, e, figures]
    | setClass =>
      obtain h | ⟨_, _, h⟩ | ⟨k, x, h⟩ := s.takeCommand_withArgs_eq 4 argSetClass carrySetClass
      · simp [actOf, setClassStep, h]
      · simp [actOf, setClassStep, h]
      · obtain e | e := carrySetClass_cases k x s.popControl
        all_goals simp [actOf, setClassStep, h, e, figures]
    | setPosition =>
      obtain h | ⟨_, _, h⟩ | ⟨k, x, h⟩ := s.takeCommand_withArgs_eq 5 argSetPosition carrySetPosition
      · simp [actOf, setPositionStep, h]
      · simp [actOf, setPositionStep, h]
      · obtain e | e := carrySetPosition_cases k x s.popControl
        all_goals simp [actOf, setPositionStep, h, e, figures]
    | setTiming =>
      obtain h | ⟨_, _, h⟩ | ⟨k, x, h⟩ := s.takeCommand_withArgs_eq 6 argSetTiming carrySetTiming
      all_goals simp [actOf, setTimingStep, h, carrySetTiming]
    | setAddressing =>
      obtain h | ⟨_, _, h⟩ | ⟨k, x, h⟩ := s.takeCommand_withArgs_eq 7 argSetAddressing carrySetAddressing
      all_goals simp [actOf, setAddressingStep, h, carrySetAddressing]
    | events =>
      obtain h | ⟨_, _, h⟩ | ⟨k, x, h⟩ := s.takeCommand_withArgs_eq 8 argEvents carryEvents
      all_goals simp [actOf, eventsStep, h, carryEvents]
    | acknowledge =>
      obtain h | ⟨_, _, h⟩ | ⟨k, x, h⟩ := s.takeCommand_withArgs_eq 9 argMask carryAcknowledge
      all_goals simp [actOf, acknowledgeStep, h, carryAcknowledge]
    | hold =>
      obtain h | ⟨_, _, h⟩ | ⟨k, x, h⟩ := s.takeCommand_withArgs_eq 10 argLane carryHold
      all_goals simp [actOf, holdStep, h, carryHold]
    | release =>
      obtain h | ⟨_, _, h⟩ | ⟨k, x, h⟩ := s.takeCommand_withArgs_eq 11 argLane carryRelease
      all_goals simp [actOf, releaseStep, h, carryRelease, figures]
    | rollback =>
      obtain h | ⟨_, _, h⟩ | ⟨k, x, h⟩ := s.takeCommand_withArgs_eq 12 argLane carryRollback
      · simp [actOf, rollbackStep, h]
      · simp [actOf, rollbackStep, h]
      · obtain e | e | e := carryRollback_cases k x s.popControl
        all_goals simp [actOf, rollbackStep, h, e, figures]
    | clear =>
      obtain h | ⟨_, _, h⟩ | ⟨k, x, h⟩ := s.takeCommand_withArgs_eq 13 argLane carryClear
      all_goals simp [actOf, clearStep, h, carryClear, figures]
    | inspect =>
      obtain h | ⟨_, _, h⟩ | ⟨k, x, h⟩ := s.takeCommand_withArgs_eq 14 (argInspect s.size) carryInspect
      all_goals simp [actOf, inspectStep, h, carryInspect]
    | inspectNext =>
      obtain h | ⟨_, _, h⟩ | ⟨k, x, h⟩ := s.takeCommand_withArgs_eq 15 argInspectNext carryInspectNext
      all_goals simp [actOf, inspectNextStep, h, carryInspectNext]
    | inspectSlotRead => simp [actOf]
    | save =>
      obtain h | ⟨_, _, h⟩ | ⟨k, x, h⟩ := s.takeCommand_withArgs_eq 16 argNone carrySave
      all_goals simp [actOf, saveStep, h, carrySave]
    | restart =>
      obtain h | ⟨_, _, h⟩ | ⟨k, x, h⟩ := s.takeCommand_withArgs_eq 17 argNone carryRestart
      all_goals simp [actOf, restartStep, h, carryRestart, State.deliverAnswer_settings]
    | replyReceived chars => simp [actOf]
    | replyWindowEnd => simp [actOf]
    | lineIdleGap => simp [actOf]
    | replyStart => simp [actOf]
    | frameArrival frame => simp [actOf]
    | beacon =>
      simp [actOf, figures]
    | notice =>
      simp [actOf, figures]
    | segmentCheck => simp [actOf]
    | segmentMatch => simp [actOf]
    | applyItem =>
      simp [actOf, figures]
    | retireSlot =>
      obtain h | ⟨w, g, -, hk, h⟩ := retireSlotStep_cases s
      · simp [actOf, h]
      · simp only [actOf, h]
        by_cases hlast : w.cursor + 1 < s.size w.request.lane
        · simp [State.sweepStep_on hlast]
        · simp [State.sweepStep_last hlast, State.sweepDone, hk]
    | undoSlot =>
      obtain h | ⟨w, g, -, hk, h⟩ := undoSlotStep_cases s
      · simp [actOf, h]
      · simp only [actOf, h]
        by_cases hlast : w.cursor + 1 < s.size w.request.lane
        · simp [State.sweepStep_on hlast]
        · simp [State.sweepStep_last hlast, State.sweepDone, hk, figures]
    | reclaimSlot =>
      obtain h | ⟨w, -, hk, h⟩ := reclaimSlotStep_cases s
      · simp [actOf, h]
      · simp only [actOf, h]
        by_cases hlast : w.cursor + 1 < s.size w.request.lane
        · simp [State.sweepStep_on hlast]
        · simp [State.sweepStep_last hlast, State.sweepDone, hk]
    | clearSlot =>
      obtain h | ⟨w, -, hk, h⟩ := clearSlotStep_cases s
      · simp [actOf, h]
      · simp only [actOf, h]
        by_cases hlast : w.cursor + 1 < s.size w.request.lane
        · simp [State.sweepStep_on hlast]
        · simp [State.sweepStep_last hlast, State.sweepDone, hk]
    | localSecond =>
      simp [actOf, figures]
    | holdoverEntry =>
      simp [actOf, figures]
    | scannerVisit => simp [actOf]
    | tallySlotRead => simp [actOf]
    | batchSlotRead => simp [actOf]
    | broadcastSwitch => simp [actOf]
    | busFrameSent =>
      simp [actOf, busFrameSentStep]
    | turnaroundGapEnd => simp [actOf, turnaroundGapEndStep_bus]
    | quietIntervalEnd => simp [actOf]
    | postBroadcastGapEnd =>
      simp [actOf, figures]
    | postResetGapEnd =>
      simp [actOf, figures]
    | periodicStanding => simp [actOf]
  · cases c <;> simp

end Sys2Proof.Machine
end

section
/-! The fleet clock: the ways in which it moves (R105 to R113), and that it never decreases (O34). -/

namespace Sys2Proof.Machine

/-- The ways in which a step other than a cold reset moves the clock: not at all, by a local second, by
an accepted beacon, by a rejected one, and by a warm reset, which clears the count of rejections. -/
inductive Clock.Moves (c : Clock) : Clock → Prop
  | stays : Clock.Moves c c
  | second : Clock.Moves c c.second
  | beacon {t : Nat} {d : Clock} (range : t ≤ 4294967295) (accepted : c.beacon t = some d) :
    Clock.Moves c d
  | rejects : Clock.Moves c { c with rejected := bump c.rejected }
  | restarts : Clock.Moves c { c with rejected := 0 }

/-! ### One move -/

theorem Clock.second_of_unset {c : Clock} (h : c.state = .unset) : c.second = c := by
  simp only [Clock.second, h]

theorem Clock.second_of_set {c : Clock} (h : c.state ≠ .unset) :
    c.second =
      { c with
        value := if 0 < c.debt then c.value else min (c.value + 1) 4294967295,
        debt := c.debt - 1,
        timer := min (c.timer + 1) 300,
        state := if c.state = .locked ∧ 300 ≤ c.timer + 1 then .holdover else c.state } := by
  cases hc : c.state with
  | unset => exact absurd hc h
  | locked | holdover => simp only [Clock.second, hc]

/-- An unset clock takes any fleet time (R108). -/
theorem Clock.beacon_of_unset {c : Clock} (h : c.state = .unset) (t : Nat) :
    c.beacon t = some { c with value := t, debt := 0, timer := 0, state := .locked } := by
  simp only [Clock.beacon, h]

/-- A set clock steps forward to a fleet time at or above its value (R109). -/
theorem Clock.beacon_of_ahead {c : Clock} {t : Nat} (ht : c.value ≤ t) :
    c.beacon t = some { c with value := t, debt := 0, timer := 0, state := .locked } := by
  cases hc : c.state with
  | unset => exact Clock.beacon_of_unset hc t
  | locked | holdover => simp only [Clock.beacon, hc, if_pos ht]

/-- A set clock is held for a fleet time a little below its value (R110). -/
theorem Clock.beacon_of_behind {c : Clock} {t : Nat} (h : c.state ≠ .unset) (ht : t < c.value)
    (hnear : c.value - t ≤ 600) :
    c.beacon t = some { c with debt := c.value - t, timer := 0, state := .locked } := by
  cases hc : c.state with
  | unset => exact absurd hc h
  | locked | holdover => simp only [Clock.beacon, hc, if_neg (Nat.not_le.mpr ht), if_pos hnear]

/-- An accepted fleet time sets the clock, or leaves its value and slews it by a debt (R108 to R110). -/
theorem Clock.beacon_cases {c d : Clock} {t : Nat} (h : c.beacon t = some d) :
    ((c.state = .unset ∨ c.value ≤ t)
      ∧ d = { c with value := t, debt := 0, timer := 0, state := .locked })
    ∨ (c.value - t ≤ 600
      ∧ d = { c with debt := c.value - t, timer := 0, state := .locked }) := by
  by_cases hset : c.state = .unset
  · rw [Clock.beacon_of_unset hset] at h
    exact .inl ⟨.inl hset, (Option.some.inj h).symm⟩
  · by_cases hahead : c.value ≤ t
    · rw [Clock.beacon_of_ahead hahead] at h
      exact .inl ⟨.inr hahead, (Option.some.inj h).symm⟩
    · have hnear : c.value - t ≤ 600 := by
        refine Nat.le_of_not_lt fun hfar => ?_
        rw [(Clock.beacon_eq_none_iff_of_set hset t).mpr (by omega)] at h
        exact absurd h (by simp)
      rw [Clock.beacon_of_behind hset (by omega) hnear] at h
      exact .inr ⟨hnear, (Option.some.inj h).symm⟩

/-! ### What every move keeps -/

theorem Clock.Moves.value_le {c d : Clock} (hc : ClockOk c) (h : c.Moves d) :
    c.value ≤ d.value := by
  obtain ⟨hvalue, -, -, -, hunset⟩ := hc
  cases h with
  | stays | rejects | restarts => exact Nat.le_refl _
  | second =>
    by_cases hset : c.state = .unset
    · exact Nat.le_of_eq (congrArg Clock.value (Clock.second_of_unset hset)).symm
    · rw [Clock.second_of_set hset]
      simp only
      split <;> omega
  | beacon range accepted =>
    obtain ⟨hset | hahead, rfl⟩ | ⟨-, rfl⟩ := Clock.beacon_cases accepted
    · simp [(hunset hset).1]
    · exact hahead
    · exact Nat.le_refl _

theorem Clock.Moves.unset {c d : Clock} (h : c.Moves d) (hd : d.state = .unset) :
    c.state = .unset := by
  cases h with
  | stays | rejects | restarts => exact hd
  | second =>
    refine Decidable.byContradiction fun hset => ?_
    rw [Clock.second_of_set hset] at hd
    simp only at hd
    split at hd
    · exact absurd hd (by simp)
    · exact hset hd
  | beacon range accepted =>
    obtain ⟨-, rfl⟩ | ⟨-, rfl⟩ := Clock.beacon_cases accepted
    all_goals exact absurd hd (by simp)

/-- Every move keeps the ranges of R104. -/
theorem Clock.Moves.ok {c d : Clock} (hc : ClockOk c) (h : c.Moves d) : ClockOk d := by
  obtain ⟨hvalue, hdebt, htimer, hrejected, hunset⟩ := hc
  cases h with
  | stays => exact ⟨hvalue, hdebt, htimer, hrejected, hunset⟩
  | second =>
    by_cases hset : c.state = .unset
    · rw [Clock.second_of_unset hset]
      exact ⟨hvalue, hdebt, htimer, hrejected, hunset⟩
    · have hstate : c.second.state ≠ .unset := fun he => hset (Clock.Moves.second.unset he)
      refine ⟨?_, ?_, ?_, ?_, fun he => absurd he hstate⟩
      all_goals rw [Clock.second_of_set hset]
      · show (if 0 < c.debt then c.value else min (c.value + 1) 4294967295) ≤ 4294967295
        split <;> omega
      · show c.debt - 1 ≤ 600
        omega
      · show min (c.timer + 1) 300 ≤ 300
        omega
      · exact hrejected
  | beacon range accepted =>
    obtain ⟨-, rfl⟩ | ⟨hnear, rfl⟩ := Clock.beacon_cases accepted
    · exact ⟨range, by simp, by simp, hrejected, by simp⟩
    · exact ⟨hvalue, hnear, by simp, hrejected, by simp⟩
  | rejects => exact ⟨hvalue, hdebt, htimer, by simp only [bump]; omega, hunset⟩
  | restarts => exact ⟨hvalue, hdebt, htimer, by simp, hunset⟩

/-! ### The commands that move it -/

theorem offerBeacon_clock (s : State) {t : Nat} (range : t ≤ 4294967295) :
    s.clock.Moves (s.offerBeacon t).clock := by
  cases h : s.clock.beacon t with
  | none => simpa only [State.offerBeacon, h] using Clock.Moves.rejects
  | some d => simpa [State.offerBeacon, h] using Clock.Moves.beacon range h

theorem beaconStep_clock (s : State) : s.clock.Moves (beaconStep s).clock := by
  cases hhead : s.headOf .beacon with
  | none => simpa only [beaconStep, hhead] using Clock.Moves.stays
  | some body =>
    by_cases hlen : body.length = 4
    · have hrange : beNat body ≤ 4294967295 := by
        have hlt := beNat_lt body
        rw [hlen] at hlt
        omega
      have hmoves : s.clock.Moves (s.popIngress.offerBeacon (beNat body)).clock :=
        offerBeacon_clock s.popIngress hrange
      simpa only [beaconStep, hhead, parseBeacon_of_length hlen] using hmoves
    · simpa [beaconStep, hhead, parseBeacon, hlen] using (Clock.Moves.stays (c := s.clock))

theorem localSecondStep_clock (s : State) : (localSecondStep s).clock = s.clock.second := by
  simp only [localSecondStep]
  repeat (any_goals split)
  all_goals simp

theorem holdoverEntryStep_clock (s : State) : s.clock.Moves (holdoverEntryStep s).clock := by
  simp only [holdoverEntryStep]
  split
  · exact localSecondStep_clock s ▸ .second
  · exact .stays

theorem egressFrameSentStep_clock (s : State) : s.clock.Moves (egressFrameSentStep s).clock := by
  unfold egressFrameSentStep
  split
  · exact .stays
  · dsimp only
    split
    · simpa [State.warmReset, State.warmValues] using Clock.Moves.restarts
    · simpa using Clock.Moves.stays

/-- Every command but COLD_RESET moves the clock in one of these ways; all but five leave it (O11). -/
theorem exec_clock {c : Instr} {s t : State} (hc : ∀ straps, c ≠ .coldReset straps)
    (h : exec c s = .next t) : s.clock.Moves t.clock := by
  obtain ⟨-, -, -, -, hframe, -⟩ := commandsTouchOnlyTheirBlocks c s t h
  have act : s.clock.Moves (actOf c s).clock → s.clock.Moves t.clock :=
    fun hact => exec_keeps (P := fun u => s.clock.Moves u.clock) .stays hact h
  cases c with
  | coldReset straps => exact absurd rfl (hc straps)
  | beacon => exact act (beaconStep_clock s)
  | localSecond => exact act (localSecondStep_clock s ▸ .second)
  | holdoverEntry => exact act (holdoverEntryStep_clock s)
  | egressFrameSent => exact act (egressFrameSentStep_clock s)
  | _ => exact hframe ▸ .stays

/-- Settles O34: a step moves the clock in one of the ways of `Clock.Moves`, none of which lowers it or
makes it UNSET. -/
theorem clockNeverDecreases : Obligations.ClockNeverDecreases := by
  intro s t hok hstep hcold
  obtain rfl | ⟨c, rest, hq, hc⟩ := step_next_cases hstep
  · exact ⟨Nat.le_refl _, id⟩
  · have hnot : ∀ straps, c ≠ .coldReset straps := by
      rintro straps rfl
      exact hcold straps (by rw [hq, List.head?_cons])
    have hmoves : s.clock.Moves t.clock := exec_clock (s := { s with pending := rest }) hnot hc
    exact ⟨hmoves.value_le hok, hmoves.unset⟩

end Sys2Proof.Machine
end

section
/-! Regions: what one item and one sweep step do to a region's form (R49, R52), slot by slot. -/

namespace Sys2Proof.Machine

/-! ### The ways in which a blocklist item changes a region (R65 to R67) -/

/-- The five changes an applied blocklist item of a token can make to a region in the generation `s`. -/
inductive BlockChange (s free : Nat) (m : Memory) (token : Nat) : Memory → DigestChange → Prop
  | opens (p : Fin 8) (room : free ≠ 0) (unknown : m.findToken s token = none) :
    BlockChange s free m token (m.addBlock s token p) (.blockIn token p)
  | relevels (p : Fin 8) {a : Nat} {e : BlockEntry} (found : m.findToken s token = some (a, e))
      (moved : e.priority ≠ p) (own : e.added = s) :
    BlockChange s free m token (m.write a (.block { e with priority := p }))
      (.relevel token e.priority p)
  | replaces (p : Fin 8) {a : Nat} {e : BlockEntry} (found : m.findToken s token = some (a, e))
      (moved : e.priority ≠ p) (older : e.added ≠ s) (room : free ≠ 0) :
    BlockChange s free m token
      ((m.write a (.block { e with removed := some s })).addBlock s token p)
      (.relevel token e.priority p)
  | removes {a : Nat} {e : BlockEntry} (found : m.findToken s token = some (a, e))
      (own : e.added = s) :
    BlockChange s free m token (m.erase a) (.blockOut token e.priority)
  | closes {a : Nat} {e : BlockEntry} (found : m.findToken s token = some (a, e))
      (older : e.added ≠ s) :
    BlockChange s free m token (m.write a (.block { e with removed := some s }))
      (.blockOut token e.priority)

theorem addItem_change {s free : Nat} {m m' : Memory} {token : Nat} {p : Fin 8} {c : DigestChange}
    (h : addItem s free m token p = .applied m' c) : BlockChange s free m token m' c := by
  unfold addItem at h
  split at h
  · next hnone =>
    split at h
    · exact absurd h (by simp)
    · next hroom =>
      obtain ⟨rfl, rfl⟩ := ItemOutcome.applied.inj h
      exact .opens p hroom hnone
  · next a e hfound =>
    split at h
    · exact absurd h (by simp)
    · next hmoved =>
      split at h
      · next hown =>
        obtain ⟨rfl, rfl⟩ := ItemOutcome.applied.inj h
        exact .relevels p hfound hmoved hown
      · next holder =>
        split at h
        · exact absurd h (by simp)
        · next hroom =>
          obtain ⟨rfl, rfl⟩ := ItemOutcome.applied.inj h
          exact .replaces p hfound hmoved holder hroom

theorem dropItem_change {s free : Nat} {m m' : Memory} {token : Nat} {c : DigestChange}
    (h : dropItem s m token = .applied m' c) : BlockChange s free m token m' c := by
  unfold dropItem at h
  split at h
  · exact absurd h (by simp)
  · next a e hfound =>
    split at h
    · next hown =>
      obtain ⟨rfl, rfl⟩ := ItemOutcome.applied.inj h
      exact .removes hfound hown
    · next holder =>
      obtain ⟨rfl, rfl⟩ := ItemOutcome.applied.inj h
      exact .closes hfound holder

theorem applyBlockItem_change {s free : Nat} {image : Bool} {m m' : Memory} {i : BlockItem}
    {c : DigestChange} (h : applyBlockItem s image free m i = .applied m' c) :
    BlockChange s free m i.token m' c := by
  unfold applyBlockItem at h
  split at h
  · exact absurd h (by simp)
  · split at h
    · split at h
      · exact addItem_change h
      · split at h
        · exact absurd h (by simp)
        · exact dropItem_change h
    · exact absurd h (by simp)

/-- A record that is applied has passed its tests and found its slots (R69). -/
theorem applyRecord_applied {s free : Nat} {m m' : Memory} {r : ProductRecord} {c : DigestChange}
    (h : applyRecord s free m r = .applied m' c) :
    recordContentGood r = true ∧ m.hasCode s r.code = false ∧ r.slots ≤ free
    ∧ m' = m.addRecord s r ∧ c = .recordIn (productWeight r) := by
  unfold applyRecord at h
  split at h
  · exact absurd h (by simp)
  · next hgood =>
    split at h
    · exact absurd h (by simp)
    · next hcode =>
      split at h
      · exact absurd h (by simp)
      · next hroom =>
        obtain ⟨rfl, rfl⟩ := ItemOutcome.applied.inj h
        exact ⟨by simpa using hgood, by simpa using hcode, Nat.not_lt.mp hroom, rfl, rfl⟩

/-! ### The number of occupied slots -/

theorem Memory.add_length_le {n size : Nat} {m : Memory} (h : m.risingFrom n = true)
    (hn : n ≤ size) (hb : ∀ a x, m.read a = some x → a < size) : n + m.length ≤ size := by
  induction m generalizing n with
  | nil => exact hn
  | cons entry m ih =>
    obtain ⟨k, e⟩ := entry
    simp only [Memory.risingFrom, Bool.and_eq_true, decide_eq_true_eq] at h
    obtain ⟨hk, hrest⟩ := h
    have hbound : k + 1 ≤ size := hb k e (by simp [Memory.read])
    have htail : ∀ a x, Memory.read m a = some x → a < size := by
      intro a x ha
      refine hb a x ?_
      have hne : k ≠ a := by
        rintro rfl
        rw [Memory.read_below hrest (Nat.lt_succ_self k)] at ha
        exact absurd ha (by simp)
      simpa [Memory.read, hne] using ha
    have := ih hrest hbound htail
    simp only [List.length_cons]
    omega

/-- A region in canonical form with every slot below its size fits in it. -/
theorem Memory.length_le {size : Nat} {m : Memory} (h : m.wf = true)
    (hb : ∀ a x, m.read a = some x → a < size) : m.length ≤ size := by
  have := Memory.add_length_le h (Nat.zero_le size) hb
  omega

theorem Memory.lowestFree_le (m : Memory) (n : Nat) : m.lowestFree n ≤ n + m.length := by
  induction m generalizing n with
  | nil => exact Nat.le_refl n
  | cons entry m ih =>
    obtain ⟨k, e⟩ := entry
    simp only [Memory.lowestFree, List.length_cons]
    split
    · have := ih (n + 1)
      omega
    · split
      · have := ih n
        omega
      · omega

theorem Memory.lowestFree_empty {m : Memory} (h : m.wf = true) (n : Nat) :
    m.read (m.lowestFree n) = none := (Memory.lowestFree_spec h n).1

/-- The tail's slot is the lowest FREE one once its head is written (R52, R59). -/
theorem Memory.lowestFree_next_le {m : Memory} (h : m.wf = true) (x : Entry) :
    m.lowestFree (m.lowestFree 0 + 1) ≤ (m.write (m.lowestFree 0) x).lowestFree 0 := by
  obtain ⟨-, hbelow⟩ := Memory.lowestFree_spec h 0
  obtain ⟨-, hnext⟩ := Memory.lowestFree_spec h (m.lowestFree 0 + 1)
  have hempty := Memory.lowestFree_empty (Memory.wf_write h (m.lowestFree 0) x) 0
  refine Nat.le_of_not_lt fun hlt => ?_
  generalize hf : (m.write (m.lowestFree 0) x).lowestFree 0 = f at hempty hlt
  rw [Memory.read_write] at hempty
  split at hempty
  · exact absurd hempty (by simp)
  · next hne =>
    by_cases hsmall : f < m.lowestFree 0
    · exact hbelow f (Nat.zero_le f) hsmall hempty
    · exact hnext f (by omega) (by omega) hempty

/-! ### Heads and tails (R52) -/

/-- What an entry says of the link between a head and its tail: a head the slot of its tail, a tail that
of its head. -/
def Entry.link : Entry → Option (Option Nat ⊕ Nat)
  | .block _ => none
  | .head h => some (.inl h.tail)
  | .tail t => some (.inr t.head)

def Memory.linkAt (m : Memory) (a : Nat) : Option (Option Nat ⊕ Nat) := (m.read a).bind Entry.link

theorem Memory.linkAt_of_read {m : Memory} {a : Nat} {x : Entry} (h : m.read a = some x) :
    m.linkAt a = x.link := by
  simp [Memory.linkAt, h]

theorem Memory.linkAt_of_free {m : Memory} {a : Nat} (h : m.read a = none) : m.linkAt a = none := by
  simp [Memory.linkAt, h]

theorem Memory.linkAt_head {m : Memory} {a : Nat} {o : Option Nat} :
    m.linkAt a = some (.inl o) ↔ ∃ h, m.read a = some (.head h) ∧ h.tail = o := by
  simp only [Memory.linkAt]
  rcases m.read a with _ | (_ | _ | _) <;> simp [Entry.link]

theorem Memory.linkAt_tail {m : Memory} {a b : Nat} :
    m.linkAt a = some (.inr b) ↔ ∃ t, m.read a = some (.tail t) ∧ t.head = b := by
  simp only [Memory.linkAt]
  rcases m.read a with _ | (_ | _ | _) <;> simp [Entry.link]

/-- Whether heads and tails name each other can be told from the links alone. -/
theorem linksOk_iff (m : Memory) :
    LinksOk m ↔
      (∀ a t, m.linkAt a = some (.inl (some t)) → a < t ∧ m.linkAt t = some (.inr a))
      ∧ ∀ t a, m.linkAt t = some (.inr a) → m.linkAt a = some (.inl (some t)) := by
  simp only [LinksOk, Memory.linkAt_head, Memory.linkAt_tail]
  constructor
  · rintro ⟨heads, tails⟩
    exact ⟨fun a t ⟨h, hread, htail⟩ => heads a h t hread htail,
      fun t a ⟨x, hread, hhead⟩ => hhead ▸ tails t x hread⟩
  · rintro ⟨heads, tails⟩
    exact ⟨fun a h t hread htail => heads a t ⟨h, hread, htail⟩,
      fun t x hread => tails t x.head ⟨x, hread, rfl⟩⟩

theorem LinksOk.congr {m m' : Memory} (h : LinksOk m) (same : ∀ a, m'.linkAt a = m.linkAt a) :
    LinksOk m' := by
  rw [linksOk_iff] at h ⊢
  simpa only [same] using h

theorem Memory.linkAt_write (m : Memory) (a b : Nat) (x : Entry) :
    (m.write a x).linkAt b = if b = a then x.link else m.linkAt b := by
  simp only [Memory.linkAt, Memory.read_write]
  split <;> simp

theorem Memory.linkAt_erase {m : Memory} (h : m.wf = true) (a b : Nat) :
    (m.erase a).linkAt b = if b = a then none else m.linkAt b := by
  simp only [Memory.linkAt, Memory.read_erase h]
  split <;> simp

/-- An entry in place of one with the same link. -/
theorem LinksOk.write {m : Memory} (h : LinksOk m) {a : Nat} {x : Entry}
    (same : x.link = m.linkAt a) : LinksOk (m.write a x) := by
  refine h.congr fun b => ?_
  rw [Memory.linkAt_write]
  split
  · next hb => rw [hb, same]
  · rfl

/-- A slot that no tail names can be emptied of an entry that names no tail. -/
theorem LinksOk.erase {m : Memory} (h : LinksOk m) (hm : m.wf = true) {a : Nat}
    (single : m.linkAt a = none ∨ m.linkAt a = some (.inl none)) : LinksOk (m.erase a) := by
  rw [linksOk_iff] at h ⊢
  obtain ⟨heads, tails⟩ := h
  simp only [Memory.linkAt_erase hm]
  refine ⟨fun b t hb => ?_, fun t b ht => ?_⟩
  · split at hb
    · exact absurd hb (by simp)
    · obtain ⟨hlt, htail⟩ := heads b t hb
      have hne : t ≠ a := by
        rintro rfl
        rw [htail] at single
        simp at single
      exact ⟨hlt, by rw [if_neg hne, htail]⟩
  · split at ht
    · exact absurd ht (by simp)
    · have hhead := tails t b ht
      have hne : b ≠ a := by
        rintro rfl
        rw [hhead] at single
        simp at single
      rw [if_neg hne, hhead]

/-- A head and its tail emptied together. -/
theorem LinksOk.erase_pair {m : Memory} (h : LinksOk m) (hm : m.wf = true) {a t : Nat}
    (hat : m.linkAt a = some (.inl (some t))) : LinksOk ((m.erase a).erase t) := by
  rw [linksOk_iff] at h ⊢
  obtain ⟨heads, tails⟩ := h
  obtain ⟨-, hta⟩ := heads a t hat
  simp only [Memory.linkAt_erase (Memory.wf_erase hm a), Memory.linkAt_erase hm]
  refine ⟨fun b u hb => ?_, fun u b hu => ?_⟩
  · split at hb
    · exact absurd hb (by simp)
    · split at hb
      · exact absurd hb (by simp)
      · next hbt hba =>
        obtain ⟨hlt, htail⟩ := heads b u hb
        have hut : u ≠ t := by
          rintro rfl
          rw [hta] at htail
          exact hba (Sum.inr.inj (Option.some.inj htail)).symm
        have hua : u ≠ a := by
          rintro rfl
          rw [hat] at htail
          exact absurd htail (by simp)
        exact ⟨hlt, by rw [if_neg hut, if_neg hua, htail]⟩
  · split at hu
    · exact absurd hu (by simp)
    · split at hu
      · exact absurd hu (by simp)
      · next hut hua =>
        have hhead := tails u b hu
        have hbt : b ≠ t := by
          rintro rfl
          rw [hta] at hhead
          exact absurd hhead (by simp)
        have hba : b ≠ a := by
          rintro rfl
          rw [hat] at hhead
          exact hut (Option.some.inj (Sum.inl.inj (Option.some.inj hhead))).symm
        rw [if_neg hbt, if_neg hba, hhead]

theorem LinksOk.freeEntry {m : Memory} (h : LinksOk m) (hm : m.wf = true) {a : Nat}
    (hstamps : ∀ t, m.read a ≠ some (.tail t)) : LinksOk (m.freeEntry a) := by
  cases hread : m.read a with
  | none => simpa [Memory.freeEntry, hread] using h.erase hm (.inl (Memory.linkAt_of_free hread))
  | some x =>
    have hlink := Memory.linkAt_of_read hread
    cases x with
    | block e => simpa [Memory.freeEntry, hread] using h.erase hm (.inl hlink)
    | tail t => exact absurd hread (hstamps t)
    | head e =>
      cases htail : e.tail with
      | none =>
        have hnone : m.linkAt a = some (.inl none) := by rw [hlink, Entry.link, htail]
        simpa [Memory.freeEntry, hread, htail] using h.erase hm (.inr hnone)
      | some t =>
        have hsome : m.linkAt a = some (.inl (some t)) := by rw [hlink, Entry.link, htail]
        simpa [Memory.freeEntry, hread, htail] using h.erase_pair hm hsome

/-- A head written with its tail at two FREE slots. -/
theorem LinksOk.write_pair {m : Memory} (h : LinksOk m) {a t : Nat} {e : ProductHead}
    {x : ProductTail} (ha : m.read a = none) (ht : m.read t = none) (hlt : a < t)
    (hhead : e.tail = some t) (htail : x.head = a) :
    LinksOk ((m.write a (.head e)).write t (.tail x)) := by
  rw [linksOk_iff] at h ⊢
  obtain ⟨heads, tails⟩ := h
  have hfa := Memory.linkAt_of_free ha
  have hft := Memory.linkAt_of_free ht
  simp only [Memory.linkAt_write, Entry.link, hhead, htail]
  refine ⟨fun b u hb => ?_, fun u b hu => ?_⟩
  · split at hb
    · exact absurd hb (by simp)
    · split at hb
      · next hbt hba =>
        obtain rfl : t = u := Option.some.inj (Sum.inl.inj (Option.some.inj hb))
        exact ⟨hba ▸ hlt, by rw [if_pos rfl, hba]⟩
      · obtain ⟨hbu, hub⟩ := heads b u hb
        have hut : u ≠ t := by
          rintro rfl
          rw [hft] at hub
          exact absurd hub (by simp)
        have hua : u ≠ a := by
          rintro rfl
          rw [hfa] at hub
          exact absurd hub (by simp)
        exact ⟨hbu, by rw [if_neg hut, if_neg hua, hub]⟩
  · split at hu
    · next hut =>
      obtain rfl : a = b := Sum.inr.inj (Option.some.inj hu)
      rw [if_neg (Nat.ne_of_lt hlt), if_pos rfl, hut]
    · split at hu
      · exact absurd hu (by simp)
      · have hb := tails u b hu
        have hbt : b ≠ t := by
          rintro rfl
          rw [hft] at hb
          exact absurd hb (by simp)
        have hba : b ≠ a := by
          rintro rfl
          rw [hfa] at hb
          exact absurd hb (by simp)
        rw [if_neg hbt, if_neg hba, hb]

/-- A head without a tail at a FREE slot. -/
theorem LinksOk.write_single {m : Memory} (h : LinksOk m) {a : Nat} {e : ProductHead}
    (ha : m.read a = none) (hhead : e.tail = none) : LinksOk (m.write a (.head e)) := by
  rw [linksOk_iff] at h ⊢
  obtain ⟨heads, tails⟩ := h
  have hfa := Memory.linkAt_of_free ha
  simp only [Memory.linkAt_write, Entry.link, hhead]
  refine ⟨fun b u hb => ?_, fun u b hu => ?_⟩
  · split at hb
    · exact absurd hb (by simp)
    · obtain ⟨hbu, hub⟩ := heads b u hb
      have hua : u ≠ a := by
        rintro rfl
        rw [hfa] at hub
        exact absurd hub (by simp)
      exact ⟨hbu, by rw [if_neg hua, hub]⟩
  · split at hu
    · exact absurd hu (by simp)
    · have hb := tails u b hu
      have hba : b ≠ a := by
        rintro rfl
        rw [hfa] at hb
        exact absurd hb (by simp)
      rw [if_neg hba, hb]

end Sys2Proof.Machine
end

section
/-! The form of the entry store at every step (O57): canonical regions within their bounds, free counts that
agree, heads and tails that name each other. -/

namespace Sys2Proof.Machine

/-! ### One region -/

/-- A region with its bounds and links, without its free count. -/
structure RegionForm (size : Nat) (m : Memory) : Prop where
  wf : m.wf = true
  bounded : ∀ a x, m.read a = some x → a < size
  links : LinksOk m

theorem RegionForm.empty (size : Nat) : RegionForm size [] :=
  ⟨rfl, by simp, by simp [LinksOk]⟩

theorem RegionForm.length_le {size : Nat} {m : Memory} (h : RegionForm size m) :
    m.length ≤ size := Memory.length_le h.wf h.bounded

/-- An entry in place of one with the same link. -/
theorem RegionForm.write {size : Nat} {m : Memory} (h : RegionForm size m) {a : Nat} {x y : Entry}
    (hread : m.read a = some y) (same : x.link = y.link) : RegionForm size (m.write a x) := by
  refine ⟨Memory.wf_write h.wf a x, fun b z hb => ?_,
    h.links.write (same.trans (Memory.linkAt_of_read hread).symm)⟩
  rw [Memory.read_write] at hb
  split at hb
  · next hba => exact hba ▸ h.bounded a y hread
  · exact h.bounded b z hb

/-- With a slot left, the lowest FREE slot lies in the region. -/
theorem RegionForm.lowestFree_lt {size : Nat} {m : Memory} (hroom : m.length < size) :
    m.lowestFree 0 < size := by
  have := m.lowestFree_le 0
  omega

theorem RegionForm.addBlock {size : Nat} {m : Memory} (h : RegionForm size m)
    (hroom : m.length < size) (s token : Nat) (p : Fin 8) :
    RegionForm size (m.addBlock s token p) := by
  have hfree := Memory.lowestFree_empty h.wf 0
  refine ⟨Memory.wf_addBlock h.wf s token p, fun b z hb => ?_,
    h.links.write (Memory.linkAt_of_free hfree).symm⟩
  rw [Memory.addBlock, Memory.read_write] at hb
  split at hb
  · next hba => exact hba ▸ RegionForm.lowestFree_lt hroom
  · exact h.bounded b z hb

theorem Memory.read_freeEntry {m : Memory} (hm : m.wf = true) {a b : Nat} {x : Entry}
    (h : (m.freeEntry a).read b = some x) : m.read b = some x := by
  have erased : ∀ {m : Memory} {a}, m.wf = true → (m.erase a).read b = some x →
      m.read b = some x := by
    intro m a hm he
    rw [Memory.read_erase hm] at he
    split at he
    · exact absurd he (by simp)
    · exact he
  unfold Memory.freeEntry at h
  split at h
  · split at h
    · exact erased hm (erased (Memory.wf_erase hm a) h)
    · exact erased hm h
  · exact erased hm h

theorem RegionForm.freeEntry {size : Nat} {m : Memory} (h : RegionForm size m) {a : Nat}
    (hstamps : ∀ t, m.read a ≠ some (.tail t)) : RegionForm size (m.freeEntry a) :=
  ⟨Memory.wf_freeEntry h.wf a, fun b x hb => h.bounded b x (Memory.read_freeEntry h.wf hb),
    h.links.freeEntry h.wf hstamps⟩

theorem RegionForm.erase_block {size : Nat} {m : Memory} (h : RegionForm size m) {a : Nat}
    {e : BlockEntry} (hread : m.read a = some (.block e)) : RegionForm size (m.erase a) := by
  have hfree : m.freeEntry a = m.erase a := by simp [Memory.freeEntry, hread]
  exact hfree ▸ h.freeEntry fun t => by simp [hread]

theorem RegionForm.addRecord {size : Nat} {m : Memory} (h : RegionForm size m)
    (r : ProductRecord) (hroom : m.length + r.slots ≤ size) (s : Nat) :
    RegionForm size (m.addRecord s r) := by
  have hfree := Memory.lowestFree_empty h.wf 0
  have hlow := m.lowestFree_le 0
  simp only [ProductRecord.slots] at hroom
  refine ⟨Memory.wf_addRecord h.wf s r, fun b z hb => ?_, ?_⟩
  · unfold Memory.addRecord at hb
    split at hb
    · next hfour =>
      rw [if_pos hfour] at hroom
      rw [Memory.read_write] at hb
      split at hb
      · omega
      · exact h.bounded b z hb
    · next hfour =>
      rw [if_neg hfour] at hroom
      have hlen := Memory.length_write_free hfree
        (.head (headOf r s (some (m.lowestFree (m.lowestFree 0 + 1)))))
      have hnext := Memory.lowestFree_next_le h.wf
        (.head (headOf r s (some (m.lowestFree (m.lowestFree 0 + 1)))))
      have hbound := (m.write (m.lowestFree 0)
        (.head (headOf r s (some (m.lowestFree (m.lowestFree 0 + 1)))))).lowestFree_le 0
      rw [Memory.read_write, Memory.read_write] at hb
      split at hb
      · omega
      · split at hb
        · omega
        · exact h.bounded b z hb
  · unfold Memory.addRecord
    split
    · exact h.links.write_single hfree rfl
    · exact h.links.write_pair hfree (Memory.lowestFree_empty h.wf _)
        (Memory.le_lowestFree m (m.lowestFree 0 + 1)) rfl rfl

/-! ### Items and sweeps -/

/-- An applied blocklist item keeps the form of a region whose free count it was given. -/
theorem BlockChange.form {size s free token : Nat} {m m' : Memory} {c : DigestChange}
    (hc : BlockChange s free m token m' c) (h : RegionForm size m) (hfree : free + m.length = size) :
    RegionForm size m' := by
  cases hc with
  | opens p room unknown => exact h.addBlock (by omega) s token p
  | relevels p found moved own => exact h.write (Memory.findToken_some h.wf found).1 rfl
  | @replaces p a e found moved older room =>
    obtain ⟨hread, -⟩ := Memory.findToken_some h.wf found
    have hlen := Memory.length_write_occupied h.wf (a := a) (by simp [hread])
      (.block { e with removed := some s })
    have hclosed : RegionForm size (m.write a (.block { e with removed := some s })) :=
      h.write hread rfl
    exact hclosed.addBlock (by omega) s token p
  | removes found own => exact h.erase_block (Memory.findToken_some h.wf found).1
  | closes found older => exact h.write (Memory.findToken_some h.wf found).1 rfl

theorem Entry.link_setRemoved (x : Entry) (r : Option Nat) : (x.setRemoved r).link = x.link := by
  cases x <;> rfl

theorem RegionForm.sweepSlot {size : Nat} {m : Memory} (h : RegionForm size m) (k : SweepKind)
    (kept : List Nat) (a : Nat) : RegionForm size (sweepSlot k kept m a) := by
  cases hread : m.read a with
  | none => simpa [Machine.sweepSlot, hread] using h
  | some x =>
    cases hstamps : x.stamps with
    | none => simpa [Machine.sweepSlot, hread, hstamps] using h
    | some stamps =>
      have freed : RegionForm size (m.freeEntry a) := by
        refine h.freeEntry fun t ht => ?_
        rw [ht] at hread
        cases hread
        exact absurd hstamps (by simp [Entry.stamps])
      have restamped (r : Option Nat) : RegionForm size (m.write a (x.setRemoved r)) :=
        h.write hread (x.link_setRemoved r)
      cases k with
      | retire g =>
        simp only [Machine.sweepSlot, hread, hstamps]
        split
        · exact restamped (some g)
        · exact h
      | undo g =>
        simp only [Machine.sweepSlot, hread, hstamps]
        split
        · exact freed
        · split
          · exact restamped none
          · exact h
      | reclaim =>
        simp only [Machine.sweepSlot, hread, hstamps]
        split
        · exact h
        · exact freed
      | clear => simpa only [Machine.sweepSlot, hread, hstamps] using freed

/-! ### The store -/

/-- The two invariants together, region by region. -/
structure StoreForm (s : State) : Prop where
  regions : ∀ l, RegionForm (s.size l) (s.region l)
  free : ∀ l, s.store.free.get l + (s.region l).length = s.size l

theorem storeForm_iff (s : State) : StoreForm s ↔ StoreInv s ∧ LinkInv s := by
  constructor
  · intro h
    exact ⟨fun l => ⟨(h.regions l).wf, (h.regions l).bounded, h.free l⟩,
      fun l => ⟨(h.regions l).wf, (h.regions l).links⟩⟩
  · rintro ⟨hstore, hlinks⟩
    refine ⟨fun l => ?_, fun l => ?_⟩
    · obtain ⟨hwf, hbound, -⟩ := hstore l
      exact ⟨hwf, hbound, (hlinks l).2⟩
    · obtain ⟨-, -, hfree⟩ := hstore l
      exact hfree

/-- The form is one of the regions, the free counts and the split. -/
theorem StoreForm.congr {s t : State} (h : StoreForm s) (hregions : t.store.regions = s.store.regions)
    (hfree : t.store.free = s.store.free) (hsplit : t.settings.split = s.settings.split) :
    StoreForm t := by
  refine ⟨fun l => ?_, fun l => ?_⟩
  · have := h.regions l
    simpa only [State.size, State.region, hregions, hsplit] using this
  · have := h.free l
    simpa only [State.size, State.region, hregions, hsplit, hfree] using this

/-- Regions drawn anew under a split (R50). -/
theorem StoreForm.of_empty {s : State} (hregions : s.store.regions = { b := [], p := [] })
    (hfree : s.store.free =
      { b := regionSize s.settings.split .b, p := regionSize s.settings.split .p }) :
    StoreForm s := by
  refine ⟨fun l => ?_, fun l => ?_⟩
  · have hempty : s.region l = [] := by cases l <;> simp [State.region, hregions]
    rw [hempty]
    exact .empty _
  · cases l <;> simp [State.region, hregions, hfree, State.size]

/-- Changed contents of the right form, with the free count that goes with them (R49). -/
theorem StoreForm.setRegion {s : State} (h : StoreForm s) (l : Lane) {m : Memory}
    (hm : RegionForm (s.size l) m) : StoreForm (s.setRegion l m) := by
  have hlen := hm.length_le
  have hfree := h.free l
  have hsize (k : Lane) : (s.setRegion l m).size k = s.size k := rfl
  refine ⟨fun k => ?_, fun k => ?_⟩
  · rw [hsize]
    obtain rfl | rfl := Lane.eq_or_other l k
    · simpa using hm
    · simpa using h.regions l.other
  · rw [hsize]
    obtain rfl | rfl := Lane.eq_or_other l k
    · simp only [State.region_setRegion_same, State.setRegion_store, PerLane.get_set_same]
      omega
    · simpa using h.free l.other

theorem StoreForm.applied {s : State} (h : StoreForm s) {seg : Segment} {pos : Nat} {m : Memory}
    {c : DigestChange} (ho : s.itemOutcome seg pos = some (.applied m c)) :
    StoreForm (s.setRegion seg.lane m) := by
  have hregion := h.regions seg.lane
  have hfree := h.free seg.lane
  refine h.setRegion seg.lane ?_
  unfold State.itemOutcome at ho
  split at ho
  · obtain ⟨i, -, hi⟩ := Option.map_eq_some_iff.mp ho
    exact (applyBlockItem_change hi).form hregion hfree
  · obtain ⟨r, -, hr⟩ := Option.map_eq_some_iff.mp ho
    obtain ⟨-, -, hroom, rfl, -⟩ := applyRecord_applied hr
    exact hregion.addRecord r (by omega) _

end Sys2Proof.Machine
end

section
/-! The commands that touch the entry store (O57). -/

namespace Sys2Proof.Machine

/-! ### The split of the commands that change other settings -/

/-- The split is in force as it was. -/
def State.sameSplit (s t : State) : Prop := t.settings.split = s.settings.split

theorem setClassStep_split (s : State) : s.sameSplit (setClassStep s) := by
  refine State.takeCommand_withArgs_keeps (P := s.sameSplit) rfl
    (fun h r => by simp [State.sameSplit]) fun h x => ?_
  obtain e | e := carrySetClass_cases h x s.popControl
  all_goals simp [State.sameSplit, e, State.changeClass]

theorem setPositionStep_split (s : State) : s.sameSplit (setPositionStep s) := by
  refine State.takeCommand_withArgs_keeps (P := s.sameSplit) rfl
    (fun h r => by simp [State.sameSplit]) fun h x => ?_
  obtain e | e := carrySetPosition_cases h x s.popControl
  all_goals simp [State.sameSplit, e, State.changePosition]

theorem setTimingStep_split (s : State) : s.sameSplit (setTimingStep s) :=
  State.takeCommand_withArgs_keeps (P := s.sameSplit) rfl
    (fun h r => by simp [State.sameSplit])
    fun h x => by simp [State.sameSplit, carrySetTiming]

theorem State.deliverAnswer_split (s : State) (a : PendingAnswer) :
    s.sameSplit (s.deliverAnswer a) := by
  simp only [State.sameSplit, State.deliverAnswer, State.placeAnswer]
  repeat (any_goals split)
  all_goals simp

theorem setAddressingStep_split (s : State) : s.sameSplit (setAddressingStep s) :=
  State.takeCommand_withArgs_keeps (P := s.sameSplit) rfl
    (fun h r => by simp [State.sameSplit])
    fun h x => State.deliverAnswer_split s.popControl _

theorem eventsStep_split (s : State) : s.sameSplit (eventsStep s) :=
  State.takeCommand_withArgs_keeps (P := s.sameSplit) rfl
    (fun h r => by simp [State.sameSplit])
    fun h x => by simp [State.sameSplit, carryEvents]

/-! ### The commands that change regions -/

theorem StoreForm.takeOutcome {s : State} (h : StoreForm s) {seg : Segment} {pos : Nat} (retry : Bool)
    {o : ItemOutcome} (ho : s.itemOutcome seg pos = some o) :
    StoreForm (s.takeOutcome seg pos retry o) := by
  cases o with
  | applied m c =>
    exact (h.applied ho).congr (by simp [State.takeOutcome]) (by simp [State.takeOutcome])
      (by simp [State.takeOutcome])
  | duplicate | absentDrop | contentError =>
    exact h.congr (by simp [State.takeOutcome]) (by simp [State.takeOutcome])
      (by simp [State.takeOutcome])
  | noSlot =>
    cases retry with
    | true =>
      exact h.congr (by simp [State.takeOutcome]) (by simp [State.takeOutcome])
        (by simp [State.takeOutcome])
    | false =>
      exact h.congr (by simp [State.takeOutcome]) (by simp [State.takeOutcome])
        (by simp [State.takeOutcome])

theorem StoreForm.finishItem {s : State} (h : StoreForm s) (seg : Segment) (pos : Nat) :
    StoreForm (s.finishItem seg pos) := by
  unfold State.finishItem
  split
  · next m c ho => exact h.applied ho
  · exact h

theorem StoreForm.applyItemStep {s : State} (h : StoreForm s) : StoreForm (applyItemStep s) := by
  have granted : StoreForm (s.granted .apply) := h.congr rfl rfl rfl
  unfold Machine.applyItemStep
  split
  · split
    · next seg pos retry _ =>
      split
      · next o ho => exact granted.takeOutcome retry ho
      · exact granted.congr (by simp) (by simp) (by simp)
    · next seg pos _ => exact (h.finishItem seg pos).congr (by simp) (by simp) (by simp)
    · exact h
    · exact h
  · exact h

theorem StoreForm.sweptSlot {s : State} (h : StoreForm s) (w : Sweep) :
    StoreForm (s.sweptSlot w) := by
  have granted : StoreForm (s.granted .sweeper) := h.congr rfl rfl rfl
  exact granted.setRegion w.request.lane ((h.regions w.request.lane).sweepSlot _ _ _)

theorem State.sweepDone_split (s : State) (q : SweepRequest) :
    (s.sweepDone q).settings.split = s.settings.split := by
  simp only [State.sweepDone, State.clearDone]
  repeat (any_goals split)
  all_goals simp

theorem StoreForm.sweepStep {s : State} (h : StoreForm s) (w : Sweep) : StoreForm (s.sweepStep w) :=
  State.sweepStep_keeps (fun k => (h.sweptSlot w).congr rfl rfl rfl)
    (fun hlast => hlast.congr (by simp) (by simp) (State.sweepDone_split _ _))
    fun t k ht => ht.congr rfl rfl rfl

theorem StoreForm.setSplitStep {s : State} (h : StoreForm s) : StoreForm (setSplitStep s) := by
  refine State.takeCommand_withArgs_keeps h
    (fun head r => h.congr (by simp) (by simp) (by simp)) fun head k => ?_
  obtain e | e | e := carrySetSplit_cases head k s.popControl
  · exact e ▸ h.congr (by simp) (by simp) (by simp)
  · exact e ▸ h.congr (by simp) (by simp) (by simp)
  · exact e ▸ .of_empty (by simp [State.redraw]) (by simp [State.redraw])

theorem StoreForm.coldResetStep (straps : Byte) (s : State) :
    StoreForm (coldResetStep straps s) :=
  .of_empty (by simp [Machine.coldResetStep, State.coldValues, Store.cold])
    (by simp [Machine.coldResetStep, State.coldValues, Store.cold])

theorem StoreForm.finishGranted {s : State} (h : StoreForm s) : StoreForm s.finishGranted := by
  have given : ∀ l, StoreForm (s.abandonSegment l) := fun l =>
    h.congr (by simp) (by simp) (by simp)
  have finished : ∀ {u : State}, StoreForm u →
      StoreForm (match u.store.engine with
        | .finishing seg pos => u.finishItem seg pos
        | _ => u) := by
    intro u hu
    split
    · next seg pos _ => exact hu.finishItem seg pos
    · exact hu
  unfold State.finishGranted
  refine finished ?_
  split
  · next l _ => exact given l
  · exact h

theorem StoreForm.egressFrameSentStep {s : State} (h : StoreForm s) :
    StoreForm (egressFrameSentStep s) := by
  unfold Machine.egressFrameSentStep
  split
  · exact h
  · next m rest _ =>
    have sent : StoreForm
        { s with uplink := { s.uplink with egress := rest, lastFrame := outboundFrame m } } :=
      h.congr rfl rfl rfl
    dsimp only
    split
    · exact sent.finishGranted.congr (by simp [State.warmReset, State.warmValues])
        (by simp [State.warmReset, State.warmValues]) (by simp [State.warmReset, State.warmValues])
    · refine sent.congr (by simp) (by simp) ?_
      unfold State.placeWaiting
      split
      · exact State.deliverAnswer_split _ _
      · rfl

/-- Every command keeps the form; all but eight leave the regions, the free counts and the split (O11). -/
theorem StoreForm.exec {c : Instr} {s t : State} (hs : StoreForm s) (h : exec c s = .next t) :
    StoreForm t := by
  obtain ⟨-, -, -, hsettings, -, hregions, -⟩ := commandsTouchOnlyTheirBlocks c s t h
  have act : StoreForm (actOf c s) → StoreForm t := fun hact => exec_keeps hs hact h
  have left : t.store.regions = s.store.regions ∧ t.store.free = s.store.free →
      s.sameSplit (actOf c s) → StoreForm t := by
    rintro ⟨hr, hf⟩ hact
    have hsplit : s.sameSplit t := exec_keeps rfl hact h
    exact hs.congr hr hf hsplit
  have swept {f : State → State} (hf : f s = s ∨ ∃ w, f s = s.sweepStep w) : StoreForm (f s) := by
    obtain he | ⟨w, he⟩ := hf
    · exact he.symm ▸ hs
    · exact he.symm ▸ hs.sweepStep w
  cases c with
  | coldReset straps => exact act (.coldResetStep straps s)
  | egressFrameSent => exact act hs.egressFrameSentStep
  | applyItem => exact act hs.applyItemStep
  | retireSlot =>
    exact act (swept ((retireSlotStep_cases s).imp_right fun ⟨w, _, _, _, he⟩ => ⟨w, he⟩))
  | undoSlot =>
    exact act (swept ((undoSlotStep_cases s).imp_right fun ⟨w, _, _, _, he⟩ => ⟨w, he⟩))
  | reclaimSlot =>
    exact act (swept ((reclaimSlotStep_cases s).imp_right fun ⟨w, _, _, he⟩ => ⟨w, he⟩))
  | clearSlot =>
    exact act (swept ((clearSlotStep_cases s).imp_right fun ⟨w, _, _, he⟩ => ⟨w, he⟩))
  | setSplit => exact act hs.setSplitStep
  | setClass => exact left hregions (setClassStep_split s)
  | setPosition => exact left hregions (setPositionStep_split s)
  | setTiming => exact left hregions (setTimingStep_split s)
  | setAddressing => exact left hregions (setAddressingStep_split s)
  | events => exact left hregions (eventsStep_split s)
  | _ =>
    obtain ⟨hr, hf⟩ := hregions
    exact hs.congr hr hf (congrArg Settings.split hsettings)

/-- Settles O57: the two invariants are `StoreForm`, which every command keeps. -/
theorem entryStoreKeepsItsForm : Obligations.EntryStoreKeepsItsForm := by
  intro s t hstore hlinks hstep
  refine (storeForm_iff t).mp (step_keeps (fun u rest hu => hu.congr rfl rfl rfl)
    (fun c u v hu hc => hu.exec hc) ((storeForm_iff s).mpr ⟨hstore, hlinks⟩) hstep)

end Sys2Proof.Machine
end

section
/-! The form of the lane records and of the apply engine (O58): what each procedure of the lane controllers
does to it. -/

namespace Sys2Proof.Machine

/-! ### A lane record and the engine, seen from one lane -/

/-- What `EngineInv` asks of one lane's record. -/
structure EngineFits (e : Engine) (l : Lane) (r : LaneRec) : Prop where
  holds : e.lane = some l → e.finishes l = false → r.state = .staging
  finishes : e.finishes l = true → r.state = .discarding ∧ r.staged.isSome = true

/-- What `LaneInv` asks of one lane. -/
structure LaneForm (e : Engine) (l : Lane) (r : LaneRec) : Prop where
  record : LaneRecInv r
  engine : EngineFits e l r

/-- `LaneInv`, lane by lane. -/
def LanesForm (s : State) : Prop := ∀ l, LaneForm s.store.engine l (s.lane l)

theorem engineInv_iff (s : State) :
    EngineInv s ↔ ∀ l, EngineFits s.store.engine l (s.lane l) := by
  cases he : s.store.engine with
  | empty =>
    simp only [EngineInv, he, true_iff]
    exact fun l => ⟨by simp [Engine.lane], by simp⟩
  | applying seg pos retry | waiting seg pos =>
    simp only [EngineInv, he]
    refine ⟨fun h l => ⟨fun hl _ => ?_, by simp [Engine.finishes]⟩,
      fun h => (h seg.lane).holds rfl rfl⟩
    obtain rfl : seg.lane = l := Option.some.inj hl
    exact h
  | finishing seg pos =>
    simp only [EngineInv, he]
    refine ⟨fun h l => ⟨fun hl hno => ?_, fun hf => ?_⟩, fun h => (h seg.lane).finishes ?_⟩
    · obtain rfl : seg.lane = l := Option.some.inj hl
      exact absurd hno (by simp [Engine.finishes])
    · obtain rfl : seg.lane = l := by simpa [Engine.finishes] using hf
      exact h
    · simp [Engine.finishes]

theorem lanesForm_iff (s : State) : LanesForm s ↔ LaneInv s := by
  rw [LaneInv, engineInv_iff]
  exact ⟨fun h => ⟨fun l => (h l).record, fun l => (h l).engine⟩,
    fun h l => ⟨h.1 l, h.2 l⟩⟩

theorem EngineFits.of_free {e : Engine} {l : Lane} (h : e.lane ≠ some l) (r : LaneRec) :
    EngineFits e l r :=
  ⟨fun hl => absurd hl h, fun hf => absurd (Engine.lane_of_finishes hf) h⟩

theorem EngineFits.empty (l : Lane) (r : LaneRec) : EngineFits .empty l r :=
  .of_free (by simp [Engine.lane]) r

theorem EngineFits.of_staging {e : Engine} {l : Lane} {r : LaneRec} (hf : e.finishes l = false)
    (hr : r.state = .staging) : EngineFits e l r :=
  ⟨fun _ _ => hr, fun h => by simp [hf] at h⟩

/-- The engine has nothing of a lane that neither stages nor discards. -/
theorem EngineFits.lane_ne {e : Engine} {l : Lane} {r : LaneRec} (h : EngineFits e l r)
    (hs : r.state ≠ .staging) (hd : r.state ≠ .discarding) : e.lane ≠ some l := by
  intro hl
  cases hf : e.finishes l with
  | false => exact hs (h.holds hl hf)
  | true => exact hd (h.finishes hf).1

/-- The form of a lane is one of five fields of its record. -/
theorem LaneForm.congr {e : Engine} {l : Lane} {r r' : LaneRec} (h : LaneForm e l r)
    (hstate : r'.state = r.state) (hactive : r'.active = r.active) (hfloor : r'.floor = r.floor)
    (hstaged : r'.staged = r.staged) (hhistory : r'.history = r.history) : LaneForm e l r' := by
  refine ⟨?_, ?_, ?_⟩
  · simpa only [LaneRecInv, hstate, hactive, hfloor, hstaged, hhistory] using h.record
  · simpa only [hstate] using h.engine.holds
  · simpa only [hstate, hstaged] using h.engine.finishes

/-! ### Changes of one lane -/

theorem LanesForm.congr {s t : State} (h : LanesForm s) (hlanes : t.lanes = s.lanes)
    (hengine : t.store.engine = s.store.engine) : LanesForm t := by
  intro l
  rw [hengine, State.lane_of_lanes hlanes]
  exact h l

theorem LanesForm.setLane {s : State} (h : LanesForm s) (l : Lane) {r : LaneRec}
    (hr : LaneForm s.store.engine l r) : LanesForm (s.setLane l r) := by
  intro k
  obtain rfl | rfl := Lane.eq_or_other l k
  · simpa using hr
  · simpa using h l.other

/-- A changed engine that fits the lanes as they stand. -/
theorem LanesForm.setEngine {s : State} (h : LanesForm s) {e : Engine}
    (he : ∀ l, EngineFits e l (s.lane l)) : LanesForm (s.setEngine e) :=
  fun l => ⟨(h l).record, he l⟩

theorem LanesForm.setEngine_empty {s : State} (h : LanesForm s) : LanesForm (s.setEngine .empty) :=
  h.setEngine fun l => .empty l _

/-- The engine may hold a segment of a STAGING lane. -/
theorem LanesForm.setEngine_staging {s : State} (h : LanesForm s) {e : Engine} {k : Lane}
    (hl : e.lane = some k) (hf : e.finishes k = false) (hs : (s.lane k).state = .staging) :
    LanesForm (s.setEngine e) := by
  refine h.setEngine fun l => ?_
  by_cases hk : k = l
  · exact hk ▸ .of_staging hf hs
  · exact .of_free (fun he => hk (Option.some.inj (hl.symm.trans he))) _

/-! ### The records a procedure leaves -/

theorem LaneRecInv.of_not_staging {r r' : LaneRec} (h : LaneRecInv r)
    (hs : r'.state.holdsStaging = false) (hi : r'.state = .idle → r'.staged = none)
    (hactive : r'.active = r.active) (hhistory : r'.history = r.history) : LaneRecInv r' := by
  obtain ⟨-, -, hlen, hdesc⟩ := h
  exact ⟨fun ht => by simp [hs] at ht, hi, hhistory ▸ hlen, by rwa [hactive, hhistory]⟩

theorem LaneRec.stagedGen_of {r : LaneRec} {n : StagedNotice} (h : r.staged = some n) :
    r.stagedGen = n.g := by simp only [LaneRec.stagedGen, h]

theorem LaneRecInv.staged {r : LaneRec} (h : LaneRecInv r) (hs : r.state.holdsStaging = true) :
    ∃ n, r.staged = some n ∧ max r.active r.floor < n.g := h.1 hs

theorem LaneRecInv.discarded {r : LaneRec} (h : LaneRecInv r) (reason : DiscardReason) :
    LaneRecInv (r.discarded reason) :=
  h.of_not_staging rfl (fun hi => absurd hi (by simp [LaneRec.discarded])) rfl rfl

theorem LaneRecInv.emptied {r : LaneRec} (h : LaneRecInv r) : LaneRecInv r.emptied :=
  h.of_not_staging rfl (fun _ => rfl) rfl rfl

theorem LaneRecInv.cleared {r : LaneRec} (cmd : LaneCommand) : LaneRecInv (r.cleared cmd) :=
  ⟨fun ht => absurd ht (by simp [LaneRec.cleared, LaneState.holdsStaging]),
    fun hi => absurd hi (by simp [LaneRec.cleared]), by simp [LaneRec.cleared],
    by simp [LaneRec.cleared]⟩

theorem LaneRecInv.warm {r : LaneRec} (h : LaneRecInv r) : LaneRecInv r.warm := by
  unfold LaneRec.warm
  dsimp only
  split
  · next hidle =>
    exact h.of_not_staging (by simp [hidle, LaneState.holdsStaging]) (fun _ => h.2.1 hidle) rfl rfl
  · exact h.of_not_staging rfl (fun hi => absurd hi (by simp)) rfl rfl

/-- A push keeps the history short and below the ACTIVE pushed (R38, R40). -/
theorem pushHistory_spec {r : LaneRec} (h : LaneRecInv r) {g : Nat} (hg : r.active < g) :
    (pushHistory r).length ≤ 2
    ∧ (g :: (pushHistory r).map HistoryRecord.generation).Pairwise (· > ·) := by
  obtain ⟨-, -, hlen, hdesc⟩ := h
  have habove : ∀ x ∈ r.active :: r.history.map HistoryRecord.generation, x < g := by
    intro x hx
    obtain rfl | hx := List.mem_cons.mp hx
    · exact hg
    · exact Nat.lt_trans (List.rel_of_pairwise_cons hdesc hx) hg
  unfold pushHistory
  split
  · exact ⟨hlen, List.pairwise_cons.mpr
      ⟨fun x hx => habove x (List.mem_cons_of_mem _ hx), hdesc.of_cons⟩⟩
  · refine ⟨List.length_take_le _ _, List.pairwise_cons.mpr ⟨fun x hx => habove x ?_, ?_⟩⟩
    · rw [List.map_take] at hx
      exact List.mem_of_mem_take hx
    · rw [List.map_take]
      exact hdesc.sublist (List.take_sublist _ _)

theorem LaneRecInv.activated {r : LaneRec} (h : LaneRecInv r) {n : StagedNotice}
    (hs : r.state.holdsStaging = true) (hn : r.staged = some n) (clockValue : Nat) :
    LaneRecInv (r.activated n clockValue) := by
  obtain ⟨n', hn', habove⟩ := h.staged hs
  obtain rfl : n = n' := Option.some.inj (hn.symm.trans hn')
  obtain ⟨hlen, hdesc⟩ := pushHistory_spec h (g := n.g) (by omega)
  exact ⟨fun ht => absurd ht (by simp [LaneRec.activated, LaneState.holdsStaging]), fun _ => rfl,
    hlen, hdesc⟩

/-- The record of an IDLE lane after a rollback (R42). -/
theorem LaneRecInv.rolledBack {r : LaneRec} (h : LaneRecInv r) (hidle : r.state = .idle)
    {top : HistoryRecord} {below : List HistoryRecord} (hh : r.history = top :: below) (floor : Nat) :
    LaneRecInv { r with
      floor := floor, active := top.generation, activeDigest := top.digest, history := below } := by
  obtain ⟨-, hnone, hlen, hdesc⟩ := h
  rw [hh] at hlen hdesc
  refine ⟨fun ht => absurd ht (by simp [hidle, LaneState.holdsStaging]), hnone, ?_, hdesc.of_cons⟩
  simp only [List.length_cons] at hlen
  show below.length ≤ 2
  omega

theorem LaneRecInv.dropLast {r : LaneRec} (h : LaneRecInv r) :
    LaneRecInv { r with history := r.history.dropLast } := by
  obtain ⟨hstaged, hidle, hlen, hdesc⟩ := h
  refine ⟨hstaged, hidle, ?_, ?_⟩
  · show r.history.dropLast.length ≤ 2
    rw [List.length_dropLast]
    omega
  · have hsub : (r.history.dropLast.map HistoryRecord.generation).Sublist
        (r.history.map HistoryRecord.generation) := r.history.dropLast_sublist.map _
    exact hdesc.sublist (hsub.cons_cons r.active)

/-! ### The procedures -/

/-- The engine after giving up a lane that had a staging: it finishes at most an item of it, which a
DISCARDING record allows. -/
theorem LanesForm.abandonSegment {s : State} (h : LanesForm s) {l : Lane}
    (hs : (s.lane l).state ≠ .discarding) {r : LaneRec} (hd : r.state = .discarding)
    (hr : r.staged.isSome = true) :
    EngineFits (s.abandonSegment l).store.engine l r
    ∧ EngineFits (s.abandonSegment l).store.engine l.other (s.lane l.other) := by
  have hother : ∀ {e : Engine}, e.lane = some l → EngineFits e l.other (s.lane l.other) :=
    fun he => .of_free (fun ho => Lane.other_ne l (Option.some.inj (ho.symm.trans he))) _
  by_cases hl : s.store.engine.lane = some l
  · cases he : s.store.engine with
    | empty => simp [he, Engine.lane] at hl
    | applying seg pos retry =>
      obtain rfl : seg.lane = l := by simpa [he, Engine.lane] using hl
      by_cases hg : s.nextGrant = some .apply
      · rw [State.abandonSegment_granted he hg]
        dsimp only
        split
        · exact ⟨⟨fun _ hf => absurd hf (by simp [Engine.finishes]), fun _ => ⟨hd, hr⟩⟩,
            hother rfl⟩
        · exact ⟨.empty _ _, .empty _ _⟩
      · rw [State.abandonSegment_withdrawn he hg]
        exact ⟨.empty _ _, .empty _ _⟩
    | waiting seg pos =>
      obtain rfl : seg.lane = l := by simpa [he, Engine.lane] using hl
      rw [State.abandonSegment_waiting he]
      exact ⟨.empty _ _, .empty _ _⟩
    | finishing seg pos =>
      obtain rfl : seg.lane = l := by simpa [he, Engine.lane] using hl
      exact absurd ((h seg.lane).engine.finishes (by simp [he, Engine.finishes])).1 hs
  · rw [State.abandonSegment_free hl]
    exact ⟨.of_free hl r, (h l.other).engine⟩

theorem LaneState.not_discarding {x : LaneState} (h : x.holdsStaging = true) : x ≠ .discarding := by
  rintro rfl
  exact absurd h (by simp [LaneState.holdsStaging])

theorem LanesForm.discard {s : State} (h : LanesForm s) {l : Lane}
    (hs : (s.lane l).state.holdsStaging = true) (reason : DiscardReason) (removing : SweepKind) :
    LanesForm (s.discard l reason removing) := by
  obtain ⟨hlanes, -, hstore, -⟩ := s.discard_spec l reason removing
  obtain ⟨n, hn, -⟩ := (h l).record.staged hs
  have hsome : ((s.lane l).discarded reason).staged.isSome = true := by
    simp [LaneRec.discarded, hn]
  obtain ⟨hown, hother⟩ := h.abandonSegment (LaneState.not_discarding hs)
    (r := (s.lane l).discarded reason) rfl hsome
  intro k
  rw [hstore, State.lane, hlanes]
  obtain rfl | rfl := Lane.eq_or_other l k
  · rw [PerLane.get_set_same]
    exact ⟨(h k).record.discarded reason, hown⟩
  · rw [PerLane.get_set_other]
    exact ⟨(h l.other).record, hother⟩

theorem LanesForm.discardUndo {s : State} (h : LanesForm s) {l : Lane}
    (hs : (s.lane l).state.holdsStaging = true) (reason : DiscardReason) :
    LanesForm (s.discardUndo l reason) := h.discard hs reason _

/-- A lane that neither stages nor discards takes any record of the right form. -/
theorem LanesForm.replace {s t : State} (h : LanesForm s) {l : Lane} {r : LaneRec}
    (hlanes : t.lanes = s.lanes.set l r) (hengine : t.store.engine = s.store.engine)
    (hs : (s.lane l).state ≠ .staging) (hd : (s.lane l).state ≠ .discarding)
    (hr : LaneRecInv r) : LanesForm t := by
  have hfree := (h l).engine.lane_ne hs hd
  exact (h.setLane l ⟨hr, .of_free hfree r⟩).congr hlanes hengine

theorem LanesForm.testActivation {s : State} (h : LanesForm s) (l : Lane) :
    LanesForm (s.testActivation l) := by
  cases hdue : s.activationDue l with
  | false => rwa [State.testActivation_not hdue]
  | true =>
    obtain ⟨n, hready, hn, -⟩ := (s.activationDue_iff l).mp hdue
    obtain ⟨hlanes, -⟩ := s.activate_spec l n hn
    rw [State.testActivation_due hdue]
    exact h.replace hlanes (by simp) (by simp [hready]) (by simp [hready])
      ((h l).record.activated (by simp [hready, LaneState.holdsStaging]) hn _)

theorem LanesForm.reportClock {s : State} (h : LanesForm s) : LanesForm s.reportClock := by
  unfold State.reportClock
  split
  · have hchoices : LanesForm { s with choices := s.choices + 1 } := h.congr rfl rfl
    exact (hchoices.testActivation _).testActivation _
  · exact (h.testActivation .b).testActivation .p

theorem LanesForm.completeRollback {s : State} (h : LanesForm s) {l : Lane}
    (hidle : (s.lane l).state = .idle) : LanesForm (s.completeRollback l) := by
  cases hh : (s.lane l).history with
  | nil => simpa [State.completeRollback, hh] using h
  | cons top below =>
    obtain ⟨hlanes, -⟩ := s.completeRollback_spec l top below hh
    exact h.replace hlanes (by simp) (by simp [hidle]) (by simp [hidle])
      ((h l).record.rolledBack hidle hh _)

theorem LanesForm.acceptClear {s : State} (h : LanesForm s) (l : Lane) (cmd : LaneCommand) :
    LanesForm (s.acceptClear l cmd) := by
  have cleared : ∀ {u : State}, LanesForm u → (u.lane l).state ≠ .staging →
      LanesForm ((u.setLane l ((u.lane l).cleared cmd)).reportCleared l) := by
    intro u hu hs
    have hfits : EngineFits u.store.engine l ((u.lane l).cleared cmd) :=
      ⟨fun hl hf => absurd ((hu l).engine.holds hl hf) hs,
        fun hf => ⟨rfl, ((hu l).engine.finishes hf).2⟩⟩
    exact (hu.setLane l ⟨.cleared cmd, hfits⟩).congr (by simp) (by simp)
  unfold State.acceptClear
  dsimp only
  split
  · next hs =>
    refine cleared (h.discard hs _ _) ?_
    rw [State.lane, (s.discard_spec l .aborted .clear).1, PerLane.get_set_same]
    simp [LaneRec.discarded]
  · next hs =>
    refine cleared (h.congr (by simp) (by simp)) ?_
    rw [State.lane_of_lanes (s.clearIdle_frame l).2.2.2.2.2.2.2.1]
    intro hst
    simp [hst, LaneState.holdsStaging] at hs

end Sys2Proof.Machine
end

section
/-! The commands and the form of the lanes (O58). -/

namespace Sys2Proof.Machine

/-! ### The apply engine -/

theorem LanesForm.verify {s : State} (h : LanesForm s) {l : Lane}
    (hs : (s.lane l).state = .staging) (hfree : s.store.engine.lane ≠ some l) :
    LanesForm (s.verify l) := by
  have hstaging : (s.lane l).state.holdsStaging = true := by simp [hs, LaneState.holdsStaging]
  unfold State.verify
  dsimp only
  split
  · exact h
  · next n hn =>
    split
    · have hready : LaneRecInv { s.lane l with state := .ready } := by
        obtain ⟨hstaged, -, hlen, hdesc⟩ := (h l).record
        exact ⟨fun _ => hstaged hstaging, fun hi => absurd hi (by simp), hlen, hdesc⟩
      have hset : LanesForm (s.setLane l { s.lane l with state := .ready }) :=
        h.setLane l ⟨hready, .of_free hfree _⟩
      have hreported : LanesForm (((s.setLane l { s.lane l with state := .ready }).rise
          (.stagedReady l) { lane := laneCode l, generation := n.g }).reportStaging) :=
        hset.congr (by simp) (by simp)
      exact hreported.testActivation l
    · exact h.discardUndo hstaging .digest

/-- The last item of a segment done (R29), in a lane that stages. -/
theorem LanesForm.completeSegment {s : State} (h : LanesForm s) {l : Lane}
    (hs : (s.lane l).state = .staging) (index : Nat) : LanesForm (s.completeSegment l index) := by
  have hjoined : LanesForm ((s.setEngine .empty).setLane l
      { s.lane l with segmentMap := insertIndex (s.lane l).segmentMap index }) :=
    h.setEngine_empty.setLane l ((h.setEngine_empty l).congr rfl rfl rfl rfl rfl)
  unfold State.completeSegment
  dsimp only
  split
  · exact hjoined
  · split
    · exact hjoined.verify (by simpa using hs) (by simp [Engine.lane])
    · exact hjoined

theorem LanesForm.nextItem {s : State} (h : LanesForm s) {seg : Segment}
    (hs : (s.lane seg.lane).state = .staging) (pos : Nat) : LanesForm (s.nextItem seg pos) := by
  unfold State.nextItem
  split
  · exact h.setEngine_staging rfl rfl hs
  · exact h.completeSegment hs seg.index

theorem LanesForm.waitForReclaim {s : State} (h : LanesForm s) {seg : Segment}
    (hs : (s.lane seg.lane).state = .staging) (pos : Nat) : LanesForm (s.waitForReclaim seg pos) :=
  (h.setEngine_staging (e := .waiting seg pos) rfl rfl hs).congr rfl rfl

theorem LanesForm.stop {s : State} (h : LanesForm s) {l : Lane} (hs : (s.lane l).state = .staging)
    (reason : DiscardReason) : LanesForm ((s.setEngine .empty).discardUndo l reason) := by
  have hstaging : ((s.setEngine .empty).lane l).state.holdsStaging = true := by
    show (s.lane l).state.holdsStaging = true
    rw [hs]
    rfl
  exact h.setEngine_empty.discardUndo hstaging reason

theorem LanesForm.giveUpHistory {s : State} (h : LanesForm s) {seg : Segment}
    (hs : (s.lane seg.lane).state = .staging) (pos : Nat) : LanesForm (s.giveUpHistory seg pos) := by
  unfold State.giveUpHistory
  dsimp only
  split
  · exact h.stop hs .storeFull
  · next bottom _ =>
    have hset : LanesForm (s.setLane seg.lane { s.lane seg.lane with
        history := (s.lane seg.lane).history.dropLast }) := by
      refine h.setLane seg.lane ⟨(h seg.lane).record.dropLast, ?_, ?_⟩
      · exact (h seg.lane).engine.holds
      · exact (h seg.lane).engine.finishes
    have hrisen : LanesForm ((s.setLane seg.lane { s.lane seg.lane with
        history := (s.lane seg.lane).history.dropLast }).rise (.pressure seg.lane)
          { lane := laneCode seg.lane, generation := bottom.generation }) :=
      hset.congr (by simp) (by simp)
    refine hrisen.waitForReclaim ?_ pos
    rw [State.lane_of_lanes (State.rise_frame _ _ _).2.2.2.2.2.2.1]
    simpa using hs

/-- A record changed in fields that the form does not speak of. -/
theorem LanesForm.setLane_same {s : State} (h : LanesForm s) (l : Lane) {r : LaneRec}
    (hstate : r.state = (s.lane l).state) (hactive : r.active = (s.lane l).active)
    (hfloor : r.floor = (s.lane l).floor) (hstaged : r.staged = (s.lane l).staged)
    (hhistory : r.history = (s.lane l).history) : LanesForm (s.setLane l r) :=
  h.setLane l ((h l).congr hstate hactive hfloor hstaged hhistory)

theorem LanesForm.takeOutcome {s : State} (h : LanesForm s) {seg : Segment}
    (hs : (s.lane seg.lane).state = .staging) (pos : Nat) (retry : Bool) (o : ItemOutcome) :
    LanesForm (s.takeOutcome seg pos retry o) := by
  cases o with
  | applied m c =>
    have hregion : LanesForm (s.setRegion seg.lane m) := h.congr rfl rfl
    have hstaging : ((s.setRegion seg.lane m).lane seg.lane).state = .staging := hs
    refine LanesForm.nextItem (seg := seg) ?_ (by simpa using hstaging) pos
    exact hregion.setLane_same seg.lane rfl rfl rfl rfl rfl
  | duplicate | absentDrop =>
    refine LanesForm.nextItem (seg := seg) ?_ (by simpa using hs) pos
    exact h.setLane_same seg.lane rfl rfl rfl rfl rfl
  | contentError => exact h.stop hs .content
  | noSlot =>
    cases retry with
    | true => exact h.giveUpHistory hs pos
    | false => exact h.waitForReclaim hs pos

theorem LanesForm.applyItemStep {s : State} (h : LanesForm s) : LanesForm (applyItemStep s) := by
  have hgranted : LanesForm (s.granted .apply) := h.congr rfl rfl
  unfold Machine.applyItemStep
  split
  · split
    · next seg pos retry he =>
      have hs : (s.lane seg.lane).state = .staging :=
        (h seg.lane).engine.holds (by simp [he, Engine.lane]) (by simp [he, Engine.finishes])
      split
      · next o _ => exact hgranted.takeOutcome hs pos retry o
      · exact hgranted.completeSegment hs seg.index
    · next seg pos _ =>
      have hfinished : LanesForm (s.finishItem seg pos) := h.congr (by simp) (by simp)
      exact hfinished.setEngine_empty.congr rfl rfl
    · exact h
    · exact h
  · exact h

/-! ### The sweeper's completions -/

theorem LanesForm.retireDone {s : State} (h : LanesForm s) (l : Lane) :
    LanesForm (s.retireDone l) := by
  unfold State.retireDone
  dsimp only
  split
  · next hs =>
    have hstaging : LaneRecInv { s.lane l with stagedDigest := Digest.zero, state := .staging } := by
      obtain ⟨hstaged, -, hlen, hdesc⟩ := (h l).record
      exact ⟨fun _ => hstaged (by simp [hs, LaneState.holdsStaging]), fun hi => absurd hi (by simp),
        hlen, hdesc⟩
    exact h.replace rfl rfl (by simp [hs]) (by simp [hs]) hstaging
  · split
    · have hset : LanesForm (s.setLane l { s.lane l with undoDeferred := false }) :=
        h.setLane_same l rfl rfl rfl rfl rfl
      exact hset.congr rfl rfl
    · exact h
  · exact h

/-- A completion that empties the record of a lane of which the engine finishes nothing. -/
theorem LanesForm.setLane_emptied {s : State} (h : LanesForm s) {l : Lane}
    (hd : (s.lane l).state = .discarding) (hf : s.store.engine.finishes l = false) {r : LaneRec}
    (hr : LaneRecInv r) : LanesForm (s.setLane l r) := by
  refine h.setLane l ⟨hr, .of_free (fun hl => ?_) r⟩
  have := (h l).engine.holds hl hf
  simp [hd] at this

theorem LanesForm.undoDone {s : State} (h : LanesForm s) {l : Lane}
    (hf : s.store.engine.finishes l = false) : LanesForm (s.undoDone l) := by
  unfold State.undoDone
  dsimp only
  split
  · next hd =>
    split
    · exact h.setLane_emptied hd hf (h l).record.emptied
    · have hset : LanesForm (s.setLane l { (s.lane l).emptied with pendingCommand := none }) :=
        h.setLane_emptied hd hf (h l).record.emptied
      have hrolled := hset.completeRollback (l := l) (by simp [LaneRec.emptied])
      exact hrolled.congr (by simp) (by simp)
    · exact h
    · exact h
  · exact h

theorem LanesForm.reclaimDone {s : State} (h : LanesForm s) (waiter : Bool) :
    LanesForm (s.reclaimDone waiter) := by
  unfold State.reclaimDone
  split
  · next seg pos he =>
    split
    · refine h.setEngine_staging rfl rfl ?_
      exact (h seg.lane).engine.holds (by simp [he, Engine.lane]) (by simp [he, Engine.finishes])
    · exact h
  · exact h

theorem LanesForm.clearDone {s : State} (h : LanesForm s) {l : Lane}
    (hf : s.store.engine.finishes l = false) : LanesForm (s.clearDone l) := by
  unfold State.clearDone
  dsimp only
  split
  · next hd =>
    have hrec : LaneRecInv { (s.lane l).emptied with
        undoDeferred := false, viewNewest := 0, viewOldest := 0, pendingCommand := none } :=
      (h l).record.emptied
    have hset := h.setLane_emptied hd.1 hf hrec
    split
    · exact hset.congr (by simp [State.setLane]) (by simp)
    · exact hset.congr (by simp) (by simp)
  · exact h

theorem LanesForm.sweepDone {s : State} (h : LanesForm s) (q : SweepRequest)
    (hf : s.store.engine.finishes q.lane = false) : LanesForm (s.sweepDone q) := by
  cases hk : q.kind with
  | retire g => simpa only [State.sweepDone, hk] using h.retireDone q.lane
  | undo g => simpa only [State.sweepDone, hk] using h.undoDone hf
  | reclaim => simpa only [State.sweepDone, hk] using h.reclaimDone q.waiter
  | clear => simpa only [State.sweepDone, hk] using h.clearDone hf

/-- While the sweeper has the grant, the engine finishes nothing (R60, R63). -/
theorem State.grantedSweep_not_finishes {s : State} {w : Sweep} (h : s.grantedSweep = some w)
    (l : Lane) : s.store.engine.finishes l = false := by
  obtain ⟨hgrant, -⟩ := State.grantedSweep_eq_some.mp h
  cases he : s.store.engine with
  | finishing seg pos =>
    rw [State.nextGrant_finishing he] at hgrant
    exact absurd hgrant (by simp)
  | empty | applying seg pos retry | waiting seg pos => rfl

theorem LanesForm.sweepStep {s : State} (h : LanesForm s) {w : Sweep}
    (hw : s.grantedSweep = some w) : LanesForm (s.sweepStep w) := by
  refine State.sweepStep_keeps (fun k => h.congr (by simp) (by simp)) (fun hlast => ?_)
    fun t k ht => ht.congr rfl rfl
  exact hlast.sweepDone w.request (by simpa using s.grantedSweep_not_finishes hw w.request.lane)

/-! ### The head of the ingress queue -/

theorem LanesForm.testStaging {s : State} (h : LanesForm s) {l : Lane}
    (hs : (s.lane l).state.holdsStaging = true) (x : Notice) : LanesForm (s.testStaging l x) := by
  unfold State.testStaging
  split
  · exact h
  · split
    · exact h.discardUndo hs .overtaken
    · split
      · exact h.discardUndo hs .revised
      · exact h

/-- The record that a staging begins with: its S is above ACTIVE and the floor, the NOTICE being usable
(R21, R24, R25). -/
theorem LaneRecInv.begun {r r' : LaneRec} (h : LaneRecInv r) {x : Notice} (hx : r.stale x.g = false)
    (hi : r'.state ≠ .idle) (hstaged : r'.staged = some x.staged) (hactive : r'.active = r.active)
    (hfloor : r'.floor = r.floor) (hhistory : r'.history = r.history) : LaneRecInv r' := by
  obtain ⟨-, -, hlen, hdesc⟩ := h
  have habove : max r.active r.floor < x.g := by simpa [LaneRec.stale] using hx
  refine ⟨fun _ => ⟨x.staged, hstaged, ?_⟩, fun he => absurd he hi, hhistory ▸ hlen, ?_⟩
  · rw [hactive, hfloor]
    exact habove
  · rwa [hactive, hhistory]

/-- A NOTICE's view taken into its lane's record, a stale one counted (R21). -/
def State.viewNotice (s : State) (l : Lane) (x : Notice) : State :=
  if (s.lane l).stale x.g then (s.setLane l ((s.lane l).withView x)).countUplink .passed
  else s.setLane l ((s.lane l).withView x)

/-- What the lane does with a NOTICE whose view it has taken (R22 to R28). -/
def State.judgeNotice (s : State) (l : Lane) (x : Notice) : State :=
  match (s.lane l).state with
  | .idle =>
    if (s.lane l).stale x.g then s
    else if (s.lane l).takesDelta x then s.stageDelta l x
    else if (s.lane l).takesImage l x then s.stageImage l x
    else s
  | .retiring | .staging => s.testStaging l x
  | .ready | .discarding => s

theorem State.takeNotice_eq (s : State) (l : Lane) (x : Notice) :
    s.takeNotice l x = (s.viewNotice l x).judgeNotice l x := by
  obtain ⟨u, hu⟩ : ∃ u, u = s.setLane l ((s.lane l).withView x) := ⟨_, rfl⟩
  have hstale : (s.lane l).stale x.g = (u.lane l).stale x.g := by
    rw [hu, State.lane_setLane_same]
    rfl
  unfold State.takeNotice State.viewNotice
  rw [← LaneRec.withView, ← hu]
  dsimp only
  rw [hstale]
  by_cases h : (u.lane l).stale x.g = true
  · have hcounted : (if (u.lane l).stale x.g then u.countUplink .passed else u) = u.countUplink .passed :=
      if_pos h
    rw [hcounted]
    rfl
  · have hsame : (if (u.lane l).stale x.g then u.countUplink .passed else u) = u := if_neg h
    rw [hsame]
    rfl

theorem LanesForm.judgeNotice {s : State} (h : LanesForm s) (l : Lane) (x : Notice) :
    LanesForm (s.judgeNotice l x) := by
  unfold State.judgeNotice
  split
  · next hidle =>
    split
    · exact h
    · next hstale =>
      have husable : (s.lane l).stale x.g = false := by simpa using hstale
      split
      · exact h.replace (l := l) (r := { s.lane l with
            staged := some x.staged, stagedDigest := (s.lane l).activeDigest, segmentMap := [],
            state := .staging })
          (by simp [State.stageDelta]) (by simp) (by simp [hidle]) (by simp [hidle])
          ((h l).record.begun husable (by simp) rfl rfl rfl rfl)
      · split
        · exact h.replace (l := l) (r := { s.lane l with
              staged := some x.staged, segmentMap := [], state := .retiring })
            (by simp [State.stageImage]) (by simp) (by simp [hidle]) (by simp [hidle])
            ((h l).record.begun husable (by simp) rfl rfl rfl rfl)
        · exact h
  · next hr => exact h.testStaging (by simp [hr, LaneState.holdsStaging]) x
  · next hs => exact h.testStaging (by simp [hs, LaneState.holdsStaging]) x
  · exact h
  · exact h

theorem LanesForm.takeNotice {s : State} (h : LanesForm s) (l : Lane) (x : Notice) :
    LanesForm (s.takeNotice l x) := by
  have hview : LanesForm (s.setLane l ((s.lane l).withView x)) :=
    h.setLane_same l rfl rfl rfl rfl rfl
  rw [State.takeNotice_eq]
  refine LanesForm.judgeNotice ?_ l x
  unfold State.viewNotice
  split
  · exact hview.congr rfl rfl
  · exact hview

theorem LanesForm.noticeStep {s : State} (h : LanesForm s) : LanesForm (noticeStep s) := by
  have hpop : LanesForm s.popIngress := h.congr rfl rfl
  have counted (f : UplinkCounters → UplinkCounters) : LanesForm (s.popIngress.countUplink f) :=
    h.congr rfl rfl
  unfold Machine.noticeStep
  split
  · exact h
  · split
    · exact counted _
    · split
      · exact counted _
      · split
        · exact counted _
        · split
          · exact hpop.takeNotice _ _
          · exact counted _

/-- Only a STAGING lane takes a segment (R13). -/
theorem LaneRec.staging_of_taken {r : LaneRec} {seg : Segment}
    (h : r.matchSegment seg = .taken) : r.state = .staging := by
  unfold LaneRec.matchSegment at h
  split at h
  · next hs _ => exact hs
  · exact absurd h (by simp)

theorem LanesForm.matchHead {s : State} (h : LanesForm s) (seg : Segment) :
    LanesForm (s.matchHead seg) := by
  have hpop : LanesForm s.popIngress := h.congr rfl rfl
  unfold State.matchHead
  dsimp only
  split
  · exact h.congr rfl rfl
  · split
    · exact h.congr rfl rfl
    · exact h.congr rfl rfl
    · have hcounted : LanesForm (s.popIngress.countUplink .passed) := h.congr rfl rfl
      exact hcounted.setLane_same seg.lane rfl rfl rfl rfl rfl
    · next htaken =>
      exact hpop.setEngine_staging rfl rfl (LaneRec.staging_of_taken htaken)

theorem LanesForm.segmentMatchStep {s : State} (h : LanesForm s) :
    LanesForm (segmentMatchStep s) := by
  unfold Machine.segmentMatchStep
  split
  · exact h.matchHead _
  · exact h

theorem LanesForm.offerBeacon {s : State} (h : LanesForm s) (t : Nat) :
    LanesForm (s.offerBeacon t) := by
  unfold State.offerBeacon
  split
  · next c _ =>
    have hset : LanesForm { s with clock := c } := h.congr rfl rfl
    exact hset.reportClock
  · exact h.congr rfl rfl

theorem LanesForm.beaconStep {s : State} (h : LanesForm s) : LanesForm (beaconStep s) := by
  have hpop : LanesForm s.popIngress := h.congr rfl rfl
  unfold Machine.beaconStep
  split
  · exact h
  · split
    · exact h.congr rfl rfl
    · exact hpop.offerBeacon _

theorem LanesForm.localSecondStep {s : State} (h : LanesForm s) :
    LanesForm (localSecondStep s) := by
  have told : ∀ {u : State}, LanesForm u → LanesForm (if u.reportClock.settings.period = 0
      then u.reportClock
      else { u.reportClock with
        ctl := { u.reportClock.ctl with reportTimer := u.reportClock.ctl.reportTimer + 1 } }) := by
    intro u hu
    split
    · exact hu.reportClock
    · exact hu.reportClock.congr rfl rfl
  unfold Machine.localSecondStep
  refine told ?_
  split
  · exact h.congr (by simp) (by simp)
  · exact h.congr (by simp) (by simp)

theorem LanesForm.holdoverEntryStep {s : State} (h : LanesForm s) :
    LanesForm (holdoverEntryStep s) := by
  unfold Machine.holdoverEntryStep
  split
  · exact h.localSecondStep
  · exact h

/-! ### The commands of the control unit -/

theorem LanesForm.answered {s : State} (h : LanesForm s) (head : CommandHead) (r : CommandResult)
    (body : List Byte) : LanesForm (s.answer head r body) := h.congr (by simp) (by simp)

theorem LanesForm.holdStep {s : State} (h : LanesForm s) : LanesForm (holdStep s) := by
  have hpop : LanesForm s.popControl := h.congr rfl rfl
  refine State.takeCommand_withArgs_keeps h (fun head r => hpop.answered head r []) fun head l => ?_
  have hset : LanesForm (s.popControl.setLane l { s.popControl.lane l with hold := true }) :=
    hpop.setLane_same l rfl rfl rfl rfl rfl
  exact hset.answered head .done []

theorem LanesForm.releaseStep {s : State} (h : LanesForm s) : LanesForm (releaseStep s) := by
  have hpop : LanesForm s.popControl := h.congr rfl rfl
  refine State.takeCommand_withArgs_keeps h (fun head r => hpop.answered head r []) fun head l => ?_
  have hset : LanesForm (s.popControl.setLane l { s.popControl.lane l with hold := false }) :=
    hpop.setLane_same l rfl rfl rfl rfl rfl
  exact (hset.testActivation l).answered head .done []

theorem LanesForm.subscribeStep {s : State} (h : LanesForm s) : LanesForm (subscribeStep s) := by
  have hpop : LanesForm s.popControl := h.congr rfl rfl
  refine State.takeCommand_withArgs_keeps h (fun head r => hpop.answered head r []) fun head x => ?_
  have hcarried : LanesForm (s.popControl.carryOut head (.lane x.1)) := h.congr rfl rfl
  obtain e | e | e := carrySubscribe_cases head x s.popControl
  · exact e.symm ▸ hpop.answered head .done []
  · exact e.symm ▸ hpop.answered head .argument []
  · exact e.symm ▸ hcarried.acceptClear x.1 _

theorem LanesForm.clearStep {s : State} (h : LanesForm s) : LanesForm (clearStep s) := by
  have hpop : LanesForm s.popControl := h.congr rfl rfl
  refine State.takeCommand_withArgs_keeps h (fun head r => hpop.answered head r []) fun head l => ?_
  have hcarried : LanesForm (s.popControl.carryOut head (.lane l)) := h.congr rfl rfl
  exact hcarried.acceptClear l .clear

theorem LaneState.cases_of {x : LaneState} (hi : x ≠ .idle) (hd : x ≠ .discarding) :
    x.holdsStaging = true := by
  cases x with
  | idle => exact absurd rfl hi
  | discarding => exact absurd rfl hd
  | retiring | staging | ready => rfl

theorem LanesForm.carryRollback {s : State} (h : LanesForm s) (head : CommandHead) (l : Lane) :
    LanesForm (carryRollback head l s) := by
  unfold Machine.carryRollback
  dsimp only
  split
  · exact h.answered head .state []
  · next hno =>
    split
    · next hidle => exact (h.completeRollback hidle).answered head .done []
    · next hidle =>
      have hcarried : LanesForm (s.carryOut head (.lane l)) := h.congr rfl rfl
      have hs : (s.lane l).state.holdsStaging = true :=
        LaneState.cases_of hidle fun hd => hno (.inr hd)
      exact (hcarried.discardUndo (l := l) hs .aborted).setLane_same l rfl rfl rfl rfl rfl

theorem LanesForm.rollbackStep {s : State} (h : LanesForm s) : LanesForm (rollbackStep s) := by
  have hpop : LanesForm s.popControl := h.congr rfl rfl
  exact State.takeCommand_withArgs_keeps h (fun head r => hpop.answered head r [])
    fun head l => hpop.carryRollback head l

/-! ### The resets -/

theorem LaneRecInv.cold : LaneRecInv LaneRec.cold :=
  ⟨fun h => absurd h (by simp [LaneRec.cold, LaneState.holdsStaging]), fun _ => rfl,
    by simp [LaneRec.cold], by simp [LaneRec.cold]⟩

theorem LanesForm.coldResetStep (straps : Byte) (s : State) : LanesForm (coldResetStep straps s) := by
  have hcold : ∀ u : State, LanesForm (u.coldValues straps) := by
    intro u l
    have hempty : (u.coldValues straps).store.engine = .empty := rfl
    rw [hempty]
    cases l with
    | b => exact ⟨.cold, .empty _ _⟩
    | p => exact ⟨.cold, .empty _ _⟩
  exact (hcold (if s.power = .running then s.cutSave else s)).congr
    (by simp [Machine.coldResetStep]) (by simp [Machine.coldResetStep])

theorem LanesForm.resetAssertedStep {s : State} (h : LanesForm s) :
    LanesForm (resetAssertedStep s) :=
  h.setEngine_empty.congr (by simp [Machine.resetAssertedStep, State.dropWork])
    (by simp [Machine.resetAssertedStep, State.dropWork])

theorem LanesForm.warmReset {s : State} (h : LanesForm s) : LanesForm s.warmReset := by
  have hwarm : LanesForm s.finishGranted.warmValues := by
    intro l
    have hempty : s.finishGranted.warmValues.store.engine = .empty := rfl
    have hlane : s.finishGranted.warmValues.lane l = (s.lane l).warm := by
      cases l <;> simp [State.lane, State.warmValues]
    rw [hempty, hlane]
    exact ⟨(h l).record.warm, .empty _ _⟩
  exact hwarm.congr (by simp [State.warmReset]) (by simp [State.warmReset])

theorem LanesForm.egressFrameSentStep {s : State} (h : LanesForm s) :
    LanesForm (egressFrameSentStep s) := by
  unfold Machine.egressFrameSentStep
  split
  · exact h
  · next m rest _ =>
    have hsent : LanesForm
        { s with uplink := { s.uplink with egress := rest, lastFrame := outboundFrame m } } :=
      h.congr rfl rfl
    dsimp only
    split
    · exact hsent.warmReset
    · exact hsent.congr (by simp) (by simp)

/-! ### Every command -/

/-- Every command keeps the form of the lanes; those not named leave the records and the engine (O11). -/
theorem LanesForm.exec {c : Instr} {s t : State} (hs : LanesForm s) (h : exec c s = .next t) :
    LanesForm t := by
  obtain ⟨-, -, -, -, -, -, hengine, -, hlanes, -⟩ := commandsTouchOnlyTheirBlocks c s t h
  have act : LanesForm (actOf c s) → LanesForm t := fun hact => exec_keeps hs hact h
  have swept {f : State → State}
      (hf : f s = s ∨ ∃ w, s.grantedSweep = some w ∧ f s = s.sweepStep w) : LanesForm (f s) := by
    obtain he | ⟨w, hw, he⟩ := hf
    · exact he.symm ▸ hs
    · exact he.symm ▸ hs.sweepStep hw
  cases c with
  | coldReset straps => exact act (.coldResetStep straps s)
  | resetAsserted => exact act hs.resetAssertedStep
  | egressFrameSent => exact act hs.egressFrameSentStep
  | beacon => exact act hs.beaconStep
  | notice => exact act hs.noticeStep
  | segmentMatch => exact act hs.segmentMatchStep
  | applyItem => exact act hs.applyItemStep
  | retireSlot =>
    exact act (swept ((retireSlotStep_cases s).imp_right fun ⟨w, _, hw, _, he⟩ => ⟨w, hw, he⟩))
  | undoSlot =>
    exact act (swept ((undoSlotStep_cases s).imp_right fun ⟨w, _, hw, _, he⟩ => ⟨w, hw, he⟩))
  | reclaimSlot =>
    exact act (swept ((reclaimSlotStep_cases s).imp_right fun ⟨w, hw, _, he⟩ => ⟨w, hw, he⟩))
  | clearSlot =>
    exact act (swept ((clearSlotStep_cases s).imp_right fun ⟨w, hw, _, he⟩ => ⟨w, hw, he⟩))
  | localSecond => exact act hs.localSecondStep
  | holdoverEntry => exact act hs.holdoverEntryStep
  | hold => exact act hs.holdStep
  | release => exact act hs.releaseStep
  | rollback => exact act hs.rollbackStep
  | clear => exact act hs.clearStep
  | subscribe => exact act hs.subscribeStep
  | _ => exact hs.congr hlanes hengine

/-- Settles O58: `LaneInv` is the form of both lanes, which every command keeps. -/
theorem laneRecordsKeepTheirForm : Obligations.LaneRecordsKeepTheirForm := by
  intro s t hs hstep
  exact (lanesForm_iff t).mp (step_keeps (fun u rest hu => hu.congr rfl rfl)
    (fun c u v hu hc => hu.exec hc) ((lanesForm_iff s).mpr hs) hstep)

end Sys2Proof.Machine
end

section
/-! The ranges of the queues and counters (O59): what each procedure does to them. -/

namespace Sys2Proof.Machine

/-! ### The ranges -/

/-- The queues and the counters of the uplink port are in range. -/
structure UplinkRanged (u : Uplink) : Prop where
  ingress : u.ingress.length ≤ 16
  control : u.control.length ≤ 4
  egress : u.egress.length ≤ 8
  counters : u.counters.inRange

/-- The bus counters are in range. -/
structure BusRanged (b : Bus) : Prop where
  damaged : b.damaged ≤ 65535
  wrong : b.wrong ≤ 65535
  stray : b.stray ≤ 65535

/-- The scanner's counters are in range. -/
structure ScanRanged (c : Scanner) : Prop where
  misses : ∀ pos : Fin 16, c.records[pos].missCounter ≤ 65535
  roundNo : c.roundNo ≤ 65535

/-- `QueueInv` and `CounterInv`, block by block. -/
structure Ranged (s : State) : Prop where
  uplink : UplinkRanged s.uplink
  alertNo : s.ctl.alertNo ≤ 65535
  lanes : ∀ l, (s.lane l).countersInRange
  bus : BusRanged s.bus
  scan : ScanRanged s.scan

theorem ranged_iff (s : State) : Ranged s ↔ QueueInv s ∧ CounterInv s := by
  constructor
  · rintro ⟨⟨hingress, hcontrol, hegress, hcounters⟩, hno, hlanes, ⟨hdamaged, hwrong, hstray⟩,
      ⟨hmisses, hround⟩⟩
    exact ⟨⟨hingress, hcontrol, hegress⟩, hcounters, hlanes, hdamaged, hwrong, hstray, hmisses,
      hround, hno⟩
  · rintro ⟨⟨hingress, hcontrol, hegress⟩, hcounters, hlanes, hdamaged, hwrong, hstray, hmisses,
      hround, hno⟩
    exact ⟨⟨hingress, hcontrol, hegress, hcounters⟩, hno, hlanes, ⟨hdamaged, hwrong, hstray⟩,
      ⟨hmisses, hround⟩⟩

theorem bump_le (n : Nat) : bump n ≤ 65535 := Nat.min_le_right ..

/-! ### Changes of one block -/

theorem BusRanged.congr {a b : Bus} (h : BusRanged a) (he : b.beyondLink = a.beyondLink) :
    BusRanged b := by
  obtain ⟨-, hdamaged, hwrong, hstray, -⟩ := (Bus.beyondLink_eq_iff b a).mp he
  exact ⟨hdamaged ▸ h.damaged, hwrong ▸ h.wrong, hstray ▸ h.stray⟩

theorem ScanRanged.congr {a b : Scanner} (h : ScanRanged a) (hrecords : b.records = a.records)
    (hround : b.roundNo = a.roundNo) : ScanRanged b :=
  ⟨fun pos => by rw [hrecords]; exact h.misses pos, hround ▸ h.roundNo⟩

theorem Ranged.congr {s t : State} (h : Ranged s) (huplink : t.uplink = s.uplink := by simp)
    (hno : t.ctl.alertNo = s.ctl.alertNo := by simp) (hlanes : t.lanes = s.lanes := by simp)
    (hbus : t.bus.beyondLink = s.bus.beyondLink := by simp)
    (hrecords : t.scan.records = s.scan.records := by simp)
    (hround : t.scan.roundNo = s.scan.roundNo := by simp) : Ranged t where
  uplink := huplink ▸ h.uplink
  alertNo := hno ▸ h.alertNo
  lanes l := by rw [State.lane_of_lanes hlanes]; exact h.lanes l
  bus := h.bus.congr hbus
  scan := h.scan.congr hrecords hround

theorem Ranged.setUplink {s : State} (h : Ranged s) {u : Uplink} (hu : UplinkRanged u) :
    Ranged { s with uplink := u } :=
  ⟨hu, h.alertNo, h.lanes, h.bus, h.scan⟩

theorem Ranged.setLane {s : State} (h : Ranged s) (l : Lane) {r : LaneRec}
    (hr : r.countersInRange) : Ranged (s.setLane l r) := by
  refine ⟨h.uplink, h.alertNo, fun k => ?_, h.bus, h.scan⟩
  obtain rfl | rfl := Lane.eq_or_other l k
  · simpa using hr
  · simpa using h.lanes l.other

theorem Ranged.setValidator {s : State} (h : Ranged s) (pos : Fin 16) {v : Validator}
    (hv : v.missCounter ≤ 65535) : Ranged (s.setValidator pos v) := by
  refine ⟨h.uplink, h.alertNo, h.lanes, h.bus, fun q => ?_, h.scan.roundNo⟩
  show ((s.setValidator pos v).validator q).missCounter ≤ 65535
  rw [State.validator_setValidator]
  split
  · exact hv
  · exact h.scan.misses q

/-- A record changed with its miss counter kept. -/
theorem Ranged.keepMisses {s : State} (h : Ranged s) (pos : Fin 16) {v : Validator}
    (hv : v.missCounter = (s.validator pos).missCounter) : Ranged (s.setValidator pos v) :=
  h.setValidator pos (hv ▸ h.scan.misses pos)

theorem Ranged.eachValidator {s : State} (h : Ranged s) {f : Fin 16 → Validator → Validator}
    (hf : ∀ pos v, (f pos v).missCounter = v.missCounter) : Ranged (s.eachValidator f) := by
  refine ⟨h.uplink, h.alertNo, h.lanes, h.bus, fun q => ?_, h.scan.roundNo⟩
  show ((s.eachValidator f).validator q).missCounter ≤ 65535
  rw [State.validator_eachValidator, hf]
  exact h.scan.misses q

/-! ### The uplink port -/

/-- The ways the uplink counters are counted up keep them in range (R15). -/
theorem UplinkCounters.counted_inRange {c : UplinkCounters} (h : c.inRange) :
    c.taken.inRange ∧ c.failed.inRange ∧ c.foreign.inRange ∧ c.ingressDropped.inRange
    ∧ c.controlDropped.inRange ∧ c.bad.inRange ∧ c.passed.inRange ∧ c.alertDropped.inRange := by
  obtain ⟨htaken, hfailed, hforeign, hingress, hcontrol, hbad, hpassed, halerts⟩ := h
  exact ⟨⟨bump_le _, hfailed, hforeign, hingress, hcontrol, hbad, hpassed, halerts⟩,
    ⟨htaken, bump_le _, hforeign, hingress, hcontrol, hbad, hpassed, halerts⟩,
    ⟨htaken, hfailed, bump_le _, hingress, hcontrol, hbad, hpassed, halerts⟩,
    ⟨htaken, hfailed, hforeign, bump_le _, hcontrol, hbad, hpassed, halerts⟩,
    ⟨htaken, hfailed, hforeign, hingress, bump_le _, hbad, hpassed, halerts⟩,
    ⟨htaken, hfailed, hforeign, hingress, hcontrol, bump_le _, hpassed, halerts⟩,
    ⟨htaken, hfailed, hforeign, hingress, hcontrol, hbad, bump_le _, halerts⟩,
    ⟨htaken, hfailed, hforeign, hingress, hcontrol, hbad, hpassed, bump_le _⟩⟩

theorem Ranged.countUplink {s : State} (h : Ranged s) {f : UplinkCounters → UplinkCounters}
    (hf : (f s.uplink.counters).inRange) : Ranged (s.countUplink f) :=
  h.setUplink ⟨h.uplink.ingress, h.uplink.control, h.uplink.egress, hf⟩

theorem Ranged.countPassed {s : State} (h : Ranged s) : Ranged (s.countUplink .passed) := by
  obtain ⟨-, -, -, -, -, -, hpassed, -⟩ := UplinkCounters.counted_inRange h.uplink.counters
  exact h.countUplink hpassed

theorem Ranged.countBad {s : State} (h : Ranged s) : Ranged (s.countUplink .bad) := by
  obtain ⟨-, -, -, -, -, hbad, -⟩ := UplinkCounters.counted_inRange h.uplink.counters
  exact h.countUplink hbad

theorem Ranged.popIngress {s : State} (h : Ranged s) : Ranged s.popIngress := by
  refine h.setUplink ⟨?_, h.uplink.control, h.uplink.egress, h.uplink.counters⟩
  exact Nat.le_trans (by simp) h.uplink.ingress

theorem Ranged.popControl {s : State} (h : Ranged s) : Ranged s.popControl := by
  refine h.setUplink ⟨h.uplink.ingress, ?_, h.uplink.egress, h.uplink.counters⟩
  exact Nat.le_trans (by simp) h.uplink.control

theorem Ranged.place {s : State} (h : Ranged s) (hroom : s.egressRoom = true) (kind : OutboundKind)
    (body : List Byte) (restart : Bool) : Ranged (s.place kind body restart) := by
  have hlength : s.uplink.egress.length < 8 := by simpa [State.egressRoom] using hroom
  refine h.setUplink ⟨h.uplink.ingress, h.uplink.control, ?_, h.uplink.counters⟩
  simp only [List.length_append, List.length_singleton]
  omega

theorem Ranged.alert {s : State} (h : Ranged s) (f : EventFlag) (c : AlertContext) :
    Ranged (s.alert f c) := by
  have hnumbered : Ranged { s with ctl := { s.ctl with alertNo := (s.ctl.alertNo + 1) % 65536 } } :=
    ⟨h.uplink, by show (s.ctl.alertNo + 1) % 65536 ≤ 65535; omega, h.lanes, h.bus, h.scan⟩
  obtain ⟨-, -, -, -, -, -, -, halert⟩ := UplinkCounters.counted_inRange h.uplink.counters
  unfold State.alert
  dsimp only
  split
  · next hroom => exact hnumbered.place hroom _ _ _
  · exact hnumbered.countUplink halert

theorem Ranged.rise {s : State} (h : Ranged s) (f : EventFlag) (c : AlertContext) :
    Ranged (s.rise f c) := by
  have hset : Ranged { s with ctl := { s.ctl with flags := s.ctl.flags ||| f.bit } } := h.congr
  unfold State.rise
  dsimp only
  split
  · exact hset.alert f c
  · exact hset

theorem Ranged.placeAnswer {s : State} (h : Ranged s) (hroom : s.egressRoom = true)
    (a : PendingAnswer) : Ranged (s.placeAnswer a) := by
  have hplaced := h.place hroom .answer a.body a.restart
  unfold State.placeAnswer
  dsimp only
  split
  · exact hplaced.congr
  · exact hplaced.congr

theorem Ranged.deliverAnswer {s : State} (h : Ranged s) (a : PendingAnswer) :
    Ranged (s.deliverAnswer a) := by
  unfold State.deliverAnswer
  split
  · next hroom => exact h.placeAnswer hroom a
  · exact h.congr

theorem Ranged.answer {s : State} (h : Ranged s) (head : CommandHead) (r : CommandResult)
    (body : List Byte) : Ranged (s.answer head r body) := h.deliverAnswer _

theorem Ranged.laneCommandDone {s : State} (h : Ranged s) (l : Lane) :
    Ranged (s.laneCommandDone l) := by
  unfold State.laneCommandDone
  split
  · split
    · exact h.answer _ .done []
    · exact h
  · exact h

theorem Ranged.makeStanding {s : State} (h : Ranged s) : Ranged s.makeStanding := by
  have hreset : Ranged { s with ctl := { s.ctl with reportTimer := 0 } } := h.congr
  unfold State.makeStanding
  dsimp only
  split
  · next hroom => exact (hreset.place hroom .standing _ false).congr rfl rfl rfl rfl rfl rfl
  · exact hreset.congr rfl rfl rfl rfl rfl rfl

theorem Ranged.standingIfDue {s : State} (h : Ranged s) : Ranged s.standingIfDue := by
  unfold State.standingIfDue
  split
  · exact h.makeStanding
  · exact h

/-! ### Rounds -/

theorem Ranged.beginRound {s : State} (h : Ranged s) {number : Nat} (hn : number ≤ 65535) :
    Ranged (s.beginRound number) := by
  have hbegun : Ranged { s with scan := { s.scan with
      roundNo := number, phase := .visiting, nextPos := 0, exchanged := false, reported := false } } :=
    ⟨h.uplink, h.alertNo, h.lanes, h.bus, h.scan.misses, hn⟩
  unfold State.beginRound
  dsimp only
  split
  · exact hbegun
  · exact hbegun.congr

theorem Ranged.nextRound {s : State} (h : Ranged s) : Ranged s.nextRound := by
  unfold State.nextRound
  split
  · exact h.beginRound (by omega)
  · exact h.congr

theorem Ranged.endRound {s : State} (h : Ranged s) : Ranged s.endRound := by
  unfold State.endRound
  split
  · exact h.congr
  · exact h.nextRound

theorem Ranged.settleScan {s : State} (h : Ranged s) : Ranged s.settleScan := by
  unfold State.settleScan
  split
  · split
    · exact h
    · exact h.endRound
  · split
    · exact h.nextRound
    · exact h
  · exact h
  · exact h

theorem Ranged.noteReport {s : State} (h : Ranged s) : Ranged s.noteReport :=
  h.congr rfl rfl rfl rfl rfl rfl

theorem Ranged.wakeScan {s : State} (h : Ranged s) : Ranged s.wakeScan := by
  unfold State.wakeScan
  split
  · exact h.nextRound
  · exact h.nextRound
  · exact h.noteReport
  · exact h.noteReport

/-! ### The lane reports -/

theorem Ranged.abandonWhere {s : State} (h : Ranged s) (l : Lane)
    (test : Fin 16 → Delivery → Bool) : Ranged (s.abandonWhere l test) := by
  have hended : Ranged (s.eachValidator fun pos v =>
      if s.abandons l test pos then
        v.setLane l { v.lane l with delivery := Delivery.idleWith 0 } else v) := by
    refine h.eachValidator fun pos v => ?_
    split <;> rfl
  unfold State.abandonWhere
  dsimp only
  split
  · split
    · exact hended.congr rfl rfl rfl rfl rfl rfl
    · exact hended.congr rfl rfl rfl rfl rfl rfl
  · exact hended.congr rfl rfl rfl rfl rfl rfl

theorem Ranged.eachLaneRecord {s : State} (h : Ranged s) (l : Lane)
    (f : ValidatorLane → ValidatorLane) : Ranged (s.eachLaneRecord l f) := by
  refine h.eachValidator fun pos v => ?_
  split <;> rfl

theorem Ranged.onWaitingSwitches {s : State} (h : Ranged s) (f : List Switch → List Switch) :
    Ranged (s.onWaitingSwitches f) := h.congr rfl rfl rfl rfl rfl rfl

theorem Ranged.checkedWake {s : State} (h : Ranged s) : Ranged s.checkWalk.wakeScan := by
  refine Ranged.wakeScan ?_
  unfold State.checkWalk
  split
  · exact h
  · split
    · exact h
    · exact h.congr rfl rfl rfl rfl rfl rfl

theorem Ranged.reportStaging {s : State} (h : Ranged s) : Ranged s.reportStaging := h.checkedWake

theorem Ranged.setTally {s : State} (h : Ranged s) (tally : List TallyEntry) :
    Ranged { s with scan := { s.scan with tally := tally } } := h.congr rfl rfl rfl rfl rfl rfl

theorem Ranged.reportGone {s : State} (h : Ranged s) (l : Lane) (g : Nat) :
    Ranged (s.reportGone l g) := by
  have hmarked := ((h.eachLaneRecord l (owedForDelivery g)).abandonWhere l
    fun _ d => decide (d.target = g)).eachLaneRecord l
  unfold State.reportGone
  dsimp only
  refine Ranged.checkedWake ?_
  cases l with
  | b => exact hmarked _
  | p => exact (hmarked _).setTally _

theorem Ranged.reportActivated {s : State} (h : Ranged s) (l : Lane) (outgoing : Nat) :
    Ranged (s.reportActivated l outgoing) :=
  (((h.onWaitingSwitches _).abandonWhere l _).eachLaneRecord l _).checkedWake

theorem Ranged.reportRollback {s : State} (h : Ranged s) (l : Lane) (outgoing : Nat) :
    Ranged (s.reportRollback l outgoing) :=
  (((h.onWaitingSwitches _).abandonWhere l _).eachLaneRecord l _).checkedWake

theorem Ranged.reportCleared {s : State} (h : Ranged s) (l : Lane) :
    Ranged (s.reportCleared l) := by
  have hremoved : Ranged (s.removeSwitch l) := h.onWaitingSwitches _
  have hmarked := (hremoved.abandonWhere l fun _ _ => true).eachLaneRecord l
  unfold State.reportCleared
  dsimp only
  refine Ranged.checkedWake ?_
  cases l with
  | b => exact hmarked _
  | p => exact (hmarked _).setTally []

/-! ### The lane controllers -/

/-- A record changed in fields that are no counters. -/
theorem Ranged.keepCounters {s : State} (h : Ranged s) (l : Lane) {r : LaneRec}
    (hlateness : r.lateness = (s.lane l).lateness) (hrepeats : r.repeats = (s.lane l).repeats)
    (hduplicates : r.duplicates = (s.lane l).duplicates)
    (habsent : r.absentDrops = (s.lane l).absentDrops)
    (hdiscards : r.discards = (s.lane l).discards) : Ranged (s.setLane l r) := by
  refine h.setLane l ?_
  simpa only [LaneRec.countersInRange, hlateness, hrepeats, hduplicates, habsent, hdiscards]
    using h.lanes l

theorem Ranged.requestSweep {s : State} (h : Ranged s) (l : Lane) (k : SweepKind) (waiter : Bool) :
    Ranged (s.requestSweep l k waiter) := h.congr rfl rfl rfl rfl rfl rfl

theorem Ranged.setEngine {s : State} (h : Ranged s) (e : Engine) : Ranged (s.setEngine e) :=
  h.congr rfl rfl rfl rfl rfl rfl

theorem Ranged.discard {s : State} (h : Ranged s) (l : Lane) (reason : DiscardReason)
    (removing : SweepKind) : Ranged (s.discard l reason removing) := by
  have habandoned : Ranged (s.abandonSegment l) := h.congr
  have hdiscarded : ((s.lane l).discarded reason).countersInRange := by
    obtain ⟨hlateness, hrepeats, hduplicates, habsent, -⟩ := h.lanes l
    exact ⟨hlateness, hrepeats, hduplicates, habsent, bump_le _⟩
  have hreported := ((habandoned.setLane l hdiscarded).rise (.discarded l)
    { lane := laneCode l, generation := (s.lane l).stagedGen, detail := reason.code }).reportGone l
      (s.lane l).stagedGen
  unfold State.discard
  dsimp only
  split
  · exact hreported
  · exact hreported.requestSweep l removing false

theorem Ranged.discardUndo {s : State} (h : Ranged s) (l : Lane) (reason : DiscardReason) :
    Ranged (s.discardUndo l reason) := h.discard l reason _

theorem Ranged.testActivation {s : State} (h : Ranged s) (l : Lane) :
    Ranged (s.testActivation l) := by
  unfold State.testActivation
  split
  · unfold State.activate
    dsimp only
    split
    · exact h
    · next n _ =>
      have hactivated : ((s.lane l).activated n s.clock.value).countersInRange := by
        obtain ⟨-, hrepeats, hduplicates, habsent, hdiscards⟩ := h.lanes l
        refine ⟨?_, hrepeats, hduplicates, habsent, hdiscards⟩
        unfold LaneRec.activated
        dsimp only
        split
        · exact Nat.zero_le _
        · exact Nat.min_le_right ..
      exact (((h.setLane l hactivated).requestSweep l _ _).rise _ _).reportActivated l _
  · exact h

theorem Ranged.reportClock {s : State} (h : Ranged s) : Ranged s.reportClock := by
  unfold State.reportClock
  split
  · have hchoices : Ranged { s with choices := s.choices + 1 } := h.congr rfl rfl rfl rfl rfl rfl
    exact (hchoices.testActivation _).testActivation _
  · exact (h.testActivation .b).testActivation .p

theorem Ranged.completeRollback {s : State} (h : Ranged s) (l : Lane) :
    Ranged (s.completeRollback l) := by
  unfold State.completeRollback
  dsimp only
  split
  · exact h
  · next top rest _ =>
    have hset : Ranged (s.setLane l { s.lane l with
        floor := max (s.lane l).floor (s.lane l).active, active := top.generation,
        activeDigest := top.digest, history := rest }) := h.keepCounters l rfl rfl rfl rfl rfl
    exact ((hset.requestSweep l _ _).rise _ _).reportRollback l _

theorem Ranged.acceptClear {s : State} (h : Ranged s) (l : Lane) (cmd : LaneCommand) :
    Ranged (s.acceptClear l cmd) := by
  have cleared : ∀ {u : State}, Ranged u →
      Ranged ((u.setLane l ((u.lane l).cleared cmd)).reportCleared l) := fun {u} hu =>
    (hu.keepCounters (r := (u.lane l).cleared cmd) l rfl rfl rfl rfl rfl).reportCleared l
  unfold State.acceptClear
  dsimp only
  split
  · exact cleared (h.discard l .aborted .clear)
  · refine cleared ?_
    unfold State.clearIdle
    split
    · exact h
    · exact h.requestSweep l .clear false

end Sys2Proof.Machine
end

section
/-! Every command keeps the ranges (O59). -/

namespace Sys2Proof.Machine

/-! ### The apply engine and the sweeper -/

theorem Ranged.verify {s : State} (h : Ranged s) (l : Lane) : Ranged (s.verify l) := by
  unfold State.verify
  dsimp only
  split
  · exact h
  · split
    · have hready : Ranged (s.setLane l { s.lane l with state := .ready }) :=
        h.keepCounters l rfl rfl rfl rfl rfl
      exact (hready.rise _ _).reportStaging.testActivation l
    · exact h.discardUndo l .digest

theorem Ranged.completeSegment {s : State} (h : Ranged s) (l : Lane) (index : Nat) :
    Ranged (s.completeSegment l index) := by
  have hjoined : Ranged ((s.setEngine .empty).setLane l
      { s.lane l with segmentMap := insertIndex (s.lane l).segmentMap index }) :=
    (h.setEngine .empty).keepCounters l rfl rfl rfl rfl rfl
  unfold State.completeSegment
  dsimp only
  split
  · exact hjoined
  · split
    · exact hjoined.verify l
    · exact hjoined

theorem Ranged.nextItem {s : State} (h : Ranged s) (seg : Segment) (pos : Nat) :
    Ranged (s.nextItem seg pos) := by
  unfold State.nextItem
  split
  · exact h.setEngine _
  · exact h.completeSegment _ _

theorem Ranged.waitForReclaim {s : State} (h : Ranged s) (seg : Segment) (pos : Nat) :
    Ranged (s.waitForReclaim seg pos) := (h.setEngine _).requestSweep _ _ _

theorem Ranged.giveUpHistory {s : State} (h : Ranged s) (seg : Segment) (pos : Nat) :
    Ranged (s.giveUpHistory seg pos) := by
  unfold State.giveUpHistory
  dsimp only
  split
  · exact (h.setEngine .empty).discardUndo _ _
  · have hshortened : Ranged (s.setLane seg.lane { s.lane seg.lane with
        history := (s.lane seg.lane).history.dropLast }) := h.keepCounters _ rfl rfl rfl rfl rfl
    exact (hshortened.rise _ _).waitForReclaim seg pos

theorem Ranged.setRegion {s : State} (h : Ranged s) (l : Lane) (m : Memory) :
    Ranged (s.setRegion l m) := h.congr rfl rfl rfl rfl rfl rfl

theorem Ranged.takeOutcome {s : State} (h : Ranged s) (seg : Segment) (pos : Nat) (retry : Bool)
    (o : ItemOutcome) : Ranged (s.takeOutcome seg pos retry o) := by
  obtain ⟨hlateness, hrepeats, hduplicates, habsent, hdiscards⟩ := h.lanes seg.lane
  cases o with
  | applied m c =>
    refine Ranged.nextItem ?_ seg pos
    exact (h.setRegion seg.lane m).keepCounters seg.lane rfl rfl rfl rfl rfl
  | duplicate =>
    refine Ranged.nextItem ?_ seg pos
    exact h.setLane seg.lane ⟨hlateness, hrepeats, bump_le _, habsent, hdiscards⟩
  | absentDrop =>
    refine Ranged.nextItem ?_ seg pos
    exact h.setLane seg.lane ⟨hlateness, hrepeats, hduplicates, bump_le _, hdiscards⟩
  | contentError => exact (h.setEngine .empty).discardUndo _ _
  | noSlot =>
    cases retry with
    | true => exact h.giveUpHistory seg pos
    | false => exact h.waitForReclaim seg pos

theorem Ranged.granted {s : State} (h : Ranged s) (r : Requester) : Ranged (s.granted r) :=
  h.congr rfl rfl rfl rfl rfl rfl

theorem Ranged.applyItemStep {s : State} (h : Ranged s) : Ranged (applyItemStep s) := by
  unfold Machine.applyItemStep
  split
  · split
    · split
      · exact (h.granted .apply).takeOutcome _ _ _ _
      · exact (h.granted .apply).completeSegment _ _
    · next seg pos _ =>
      have hfinished : Ranged (s.finishItem seg pos) := h.congr
      exact (hfinished.setEngine .empty).requestSweep _ _ _
    · exact h
    · exact h
  · exact h

theorem Ranged.retireDone {s : State} (h : Ranged s) (l : Lane) : Ranged (s.retireDone l) := by
  unfold State.retireDone
  dsimp only
  split
  · exact h.keepCounters l rfl rfl rfl rfl rfl
  · split
    · have hset : Ranged (s.setLane l { s.lane l with undoDeferred := false }) :=
        h.keepCounters l rfl rfl rfl rfl rfl
      exact hset.requestSweep _ _ _
    · exact h
  · exact h

theorem Ranged.undoDone {s : State} (h : Ranged s) (l : Lane) : Ranged (s.undoDone l) := by
  unfold State.undoDone
  dsimp only
  split
  · split
    · exact h.keepCounters l rfl rfl rfl rfl rfl
    · have hset : Ranged (s.setLane l { (s.lane l).emptied with pendingCommand := none }) :=
        h.keepCounters l rfl rfl rfl rfl rfl
      exact (hset.completeRollback l).laneCommandDone l
    · exact h
    · exact h
  · exact h

theorem Ranged.reclaimDone {s : State} (h : Ranged s) (waiter : Bool) :
    Ranged (s.reclaimDone waiter) := by
  unfold State.reclaimDone
  split
  · split
    · exact h.setEngine _
    · exact h
  · exact h

theorem Ranged.clearDone {s : State} (h : Ranged s) (l : Lane) : Ranged (s.clearDone l) := by
  unfold State.clearDone
  dsimp only
  split
  · refine Ranged.laneCommandDone ?_ l
    split
    · have hsubscribed : ∀ st, Ranged { s with settings := st } :=
        fun st => h.congr rfl rfl rfl rfl rfl rfl
      exact (hsubscribed _).keepCounters l rfl rfl rfl rfl rfl
    · exact h.keepCounters l rfl rfl rfl rfl rfl
  · exact h

theorem Ranged.sweepDone {s : State} (h : Ranged s) (q : SweepRequest) :
    Ranged (s.sweepDone q) := by
  cases hk : q.kind with
  | retire g => simpa only [State.sweepDone, hk] using h.retireDone q.lane
  | undo g => simpa only [State.sweepDone, hk] using h.undoDone q.lane
  | reclaim => simpa only [State.sweepDone, hk] using h.reclaimDone q.waiter
  | clear => simpa only [State.sweepDone, hk] using h.clearDone q.lane

theorem Ranged.sweepStep {s : State} (h : Ranged s) (w : Sweep) : Ranged (s.sweepStep w) :=
  State.sweepStep_keeps (fun _ => h.congr) (fun hlast => hlast.sweepDone w.request)
    fun _ _ ht => ht.congr rfl rfl rfl rfl rfl rfl

/-! ### The uplink port and the ingress head -/

theorem Ranged.frameStep {s : State} (h : Ranged s) (frame : List Byte) :
    Ranged (frameStep frame s) := by
  obtain ⟨htaken, hfailed, hforeign, hingress, hcontrol, -⟩ :=
    UplinkCounters.counted_inRange h.uplink.counters
  have hoverIngress : Ranged (s.countUplink .ingressDropped) := h.countUplink hingress
  have offerIngress (m : IngressMessage) : Ranged (s.offerIngress m) := by
    unfold State.offerIngress
    split
    · refine h.setUplink ⟨?_, h.uplink.control, h.uplink.egress, htaken⟩
      simp only [List.length_append, List.length_singleton]
      omega
    · exact hoverIngress.rise _ _
  have offerControl (m : ControlMessage) : Ranged (s.offerControl m) := by
    unfold State.offerControl
    split
    · refine h.setUplink ⟨h.uplink.ingress, ?_, h.uplink.egress, htaken⟩
      simp only [List.length_append, List.length_singleton]
      omega
    · exact h.countUplink hcontrol
  unfold Machine.frameStep
  split
  · exact h.countUplink hfailed
  · split
    · exact h.countUplink hforeign
    · split
      · exact h.countBad
      · exact offerIngress _
      · exact h.countUplink hforeign
      · split
        · exact offerControl _
        · exact h.countUplink hforeign

theorem Ranged.testStaging {s : State} (h : Ranged s) (l : Lane) (x : Notice) :
    Ranged (s.testStaging l x) := by
  unfold State.testStaging
  split
  · exact h
  · split
    · exact h.discardUndo l .overtaken
    · split
      · exact h.discardUndo l .revised
      · exact h

theorem Ranged.takeNotice {s : State} (h : Ranged s) (l : Lane) (x : Notice) :
    Ranged (s.takeNotice l x) := by
  have hview : Ranged (s.setLane l ((s.lane l).withView x)) :=
    h.keepCounters l rfl rfl rfl rfl rfl
  have judged : ∀ {u : State}, Ranged u → Ranged (u.judgeNotice l x) := by
    intro u hu
    have stageDelta : Ranged (u.stageDelta l x) := by
      refine Ranged.reportStaging ?_
      exact hu.keepCounters l rfl rfl rfl rfl rfl
    have stageImage : Ranged (u.stageImage l x) := by
      refine Ranged.reportStaging (Ranged.requestSweep ?_ l _ _)
      exact hu.keepCounters l rfl rfl rfl rfl rfl
    unfold State.judgeNotice
    split
    · split
      · exact hu
      · split
        · exact stageDelta
        · split
          · exact stageImage
          · exact hu
    · exact hu.testStaging l x
    · exact hu.testStaging l x
    · exact hu
    · exact hu
  rw [State.takeNotice_eq]
  refine judged ?_
  unfold State.viewNotice
  split
  · exact hview.countPassed
  · exact hview

theorem Ranged.noticeStep {s : State} (h : Ranged s) : Ranged (noticeStep s) := by
  unfold Machine.noticeStep
  split
  · exact h
  · split
    · exact h.popIngress.countBad
    · split
      · exact h.popIngress.countPassed
      · split
        · exact h.popIngress.countBad
        · split
          · exact h.popIngress.takeNotice _ _
          · exact h.popIngress.countBad

theorem Ranged.segmentCheckStep {s : State} (h : Ranged s) : Ranged (segmentCheckStep s) := by
  unfold Machine.segmentCheckStep
  split
  · split
    · exact h.popIngress.countBad
    · split
      · exact h.popIngress.countPassed
      · split
        · exact h.popIngress.countBad
        · exact h.setUplink ⟨h.uplink.ingress, h.uplink.control, h.uplink.egress, h.uplink.counters⟩
  · exact h

theorem Ranged.segmentMatchStep {s : State} (h : Ranged s) : Ranged (segmentMatchStep s) := by
  have matched (seg : Segment) : Ranged (s.matchHead seg) := by
    unfold State.matchHead
    dsimp only
    split
    · exact h.popIngress.countPassed
    · split
      · exact h.popIngress.countPassed
      · exact h.popIngress.countBad
      · obtain ⟨hlateness, -, hduplicates, habsent, hdiscards⟩ := h.lanes seg.lane
        exact h.popIngress.countPassed.setLane seg.lane
          ⟨hlateness, bump_le _, hduplicates, habsent, hdiscards⟩
      · exact h.popIngress.setEngine _
  unfold Machine.segmentMatchStep
  split
  · exact matched _
  · exact h

theorem Ranged.setClock {s : State} (h : Ranged s) (c : Clock) : Ranged { s with clock := c } :=
  h.congr rfl rfl rfl rfl rfl rfl

theorem Ranged.beaconStep {s : State} (h : Ranged s) : Ranged (beaconStep s) := by
  unfold Machine.beaconStep
  split
  · exact h
  · split
    · exact h.popIngress.countBad
    · unfold State.offerBeacon
      split
      · exact (h.popIngress.setClock _).reportClock
      · exact h.popIngress.setClock _

theorem Ranged.localSecondStep {s : State} (h : Ranged s) : Ranged (localSecondStep s) := by
  have told : ∀ {u : State}, Ranged u → Ranged (if u.reportClock.settings.period = 0
      then u.reportClock
      else { u.reportClock with
        ctl := { u.reportClock.ctl with reportTimer := u.reportClock.ctl.reportTimer + 1 } }) := by
    intro u hu
    split
    · exact hu.reportClock
    · exact hu.reportClock.congr rfl rfl rfl rfl rfl rfl
  unfold Machine.localSecondStep
  refine told ?_
  split
  · exact (h.standingIfDue.setClock _).rise _ _
  · exact h.standingIfDue.setClock _

theorem Ranged.holdoverEntryStep {s : State} (h : Ranged s) : Ranged (holdoverEntryStep s) := by
  unfold Machine.holdoverEntryStep
  split
  · exact h.localSecondStep
  · exact h

/-! ### The feed scanner -/

theorem Ranged.sendTo {s : State} (h : Ranged s) (pos : Fin 16) (f : BusFrame) (n : Nat) :
    Ranged (s.sendTo pos f n) :=
  ⟨h.uplink, h.alertNo, h.lanes, ⟨h.bus.damaged, h.bus.wrong, h.bus.stray⟩, h.scan.congr rfl rfl⟩

theorem Ranged.fixAndOpen {s : State} (h : Ranged s) (pos : Fin 16) (l : Lane)
    (target attempts : Nat) : Ranged (s.fixAndOpen pos l target attempts) := by
  have hset : ∀ d, Ranged (s.setDelivery pos l d) := fun d => h.keepMisses pos rfl
  unfold State.fixAndOpen
  refine Ranged.sendTo ?_ _ _ _
  split
  · exact (hset _).rise _ _
  · exact hset _

theorem Ranged.sendClose {s : State} (h : Ranged s) (pos : Fin 16) (l : Lane) :
    Ranged (s.sendClose pos l) := by
  have hset : ∀ d, Ranged (s.setDelivery pos l d) := fun d => h.keepMisses pos rfl
  exact (hset _).sendTo _ _ _

theorem Ranged.deliveryFrame {s : State} (h : Ranged s) (pos : Fin 16) (l : Lane) :
    Ranged (s.deliveryFrame pos l) := by
  unfold State.deliveryFrame
  dsimp only
  split
  · exact h
  · split
    · exact h.fixAndOpen _ _ _ _
    · exact h.sendTo _ _ _
  · split
    · exact h.sendClose pos l
    · split
      · exact h.sendTo _ _ _
      · exact h.congr rfl rfl rfl rfl rfl rfl
  · exact h.sendTo _ _ _

theorem Ranged.markUnfit {s : State} (h : Ranged s) (pos : Fin 16) (target tally : Nat) :
    Ranged (s.markUnfit pos target tally) := by
  have hset : Ranged (s.setValidator pos ((s.validator pos).setLane .p
      { (s.validator pos).lane .p with unfit := target })) := h.keepMisses pos rfl
  exact hset.rise _ _

theorem Ranged.startProduct {s : State} (h : Ranged s) (pos : Fin 16) :
    Ranged (s.startProduct pos) := by
  unfold State.startProduct
  split
  · split
    · split
      · split
        · exact (h.markUnfit _ _ _).sendTo _ _ _
        · exact h.fixAndOpen _ _ _ _
      · exact h.sendTo _ _ _
    · exact h.sendTo _ _ _
  · exact h.sendTo _ _ _

theorem Ranged.startDelivery {s : State} (h : Ranged s) (pos : Fin 16) :
    Ranged (s.startDelivery pos) := by
  unfold State.startDelivery
  split
  · split
    · exact h.fixAndOpen _ _ _ _
    · exact h.startProduct pos
  · exact h.startProduct pos

theorem Ranged.beginWalk {s : State} (h : Ranged s) (pos : Fin 16) : Ranged (s.beginWalk pos) := by
  unfold State.beginWalk
  split
  · split
    · exact h
    · exact h.congr rfl rfl rfl rfl rfl rfl
  · exact h

theorem Ranged.visit {s : State} (h : Ranged s) (pos : Fin 16) : Ranged (s.visit pos) := by
  have hwalk := h.beginWalk pos
  unfold State.visit
  split
  · unfold State.visitPresent
    dsimp only
    repeat' split
    · exact hwalk.sendTo _ _ _
    · exact hwalk.sendTo _ _ _
    · exact hwalk.deliveryFrame _ _
    · exact hwalk.deliveryFrame _ _
    · exact hwalk.sendTo _ _ _
    · exact hwalk.sendTo _ _ _
    · exact hwalk.startDelivery pos
  · exact h
  · exact h.sendTo _ _ _
  · exact h.sendTo _ _ _
  · exact h.sendTo _ _ _

theorem Ranged.scannerVisitStep {s : State} (h : Ranged s) : Ranged (scannerVisitStep s) := by
  unfold Machine.scannerVisitStep
  split
  · split
    · exact h.visit _
    · exact h.endRound
  · exact h

theorem Ranged.batchSlotReadStep {s : State} (h : Ranged s) : Ranged (batchSlotReadStep s) := by
  have sent : ∀ {u : State} (b : Build) (d : Delivery), Ranged u → Ranged (u.sendBuild b d) := by
    intro u b d hu
    have hhanded : Ranged { u with scan := { u.scan with build := none, read := u.scan.idleRead } } :=
      hu.congr rfl rfl rfl rfl rfl rfl
    unfold State.sendBuild
    dsimp only
    split
    · exact hhanded.sendClose _ _
    · exact hhanded.sendTo _ _ _
  unfold Machine.batchSlotReadStep
  split
  · dsimp only
    split
    · split
      · exact sent _ _ (h.granted .scanner)
      · exact h.congr rfl rfl rfl rfl rfl rfl
    · exact h
  · exact h

theorem Ranged.markFaulty {s : State} (h : Ranged s) (pos : Fin 16) (l : Lane) (g : Nat) :
    Ranged (s.markFaulty pos l g) := by
  have hset : Ranged (s.setValidator pos ((s.validator pos).setLane l
      { (s.validator pos).lane l with faulty := g })) := h.keepMisses pos rfl
  exact hset.rise _ _

theorem Ranged.failedAttempt {s : State} (h : Ranged s) (pos : Fin 16) (l : Lane) (owed : Bool) :
    Ranged (s.failedAttempt pos l owed) := by
  have hset : ∀ x, Ranged (s.setValidator pos ((s.validator pos).setLane l x)) :=
    fun x => h.keepMisses pos rfl
  unfold State.failedAttempt
  dsimp only
  split
  · exact hset _
  · exact (hset _).markFaulty _ _ _

theorem Ranged.openReply {s : State} (h : Ranged s) (pos : Fin 16) (l : Lane) (r : Reply) :
    Ranged (s.openReply pos l r) := by
  unfold State.openReply
  dsimp only
  split
  · exact h.keepMisses pos rfl
  · split
    · exact h.keepMisses pos rfl
    · exact h.failedAttempt _ _ _
  · exact h

theorem Ranged.closeReply {s : State} (h : Ranged s) (pos : Fin 16) (l : Lane) (r : Reply) :
    Ranged (s.closeReply pos l r) := by
  unfold State.closeReply
  dsimp only
  split
  · split
    · exact h.keepMisses pos rfl
    · exact h.failedAttempt _ _ _
  · exact h.failedAttempt _ _ _

theorem Ranged.switchReply {s : State} (h : Ranged s) (pos : Fin 16) (l : Lane) (g : Nat) :
    Ranged (s.switchReply pos l g) := by
  unfold State.switchReply
  dsimp only
  split
  · exact h.markFaulty _ _ _
  · exact h

theorem Ranged.writeStatus {s : State} (h : Ranged s) (pos : Fin 16) (t : StatusReport) :
    Ranged (s.writeStatus pos t) := by
  unfold State.writeStatus
  dsimp only
  split
  · exact h
  · refine Ranged.abandonWhere ?_ _ _
    exact h.keepMisses pos rfl

theorem Ranged.noteCapacity {s : State} (h : Ranged s) (pos : Fin 16) (r : Reply) :
    Ranged (s.noteCapacity pos r) := by
  unfold State.noteCapacity
  split
  · exact h.keepMisses pos rfl
  · exact h

/-- What a good reply reports of the validator is written (R144, R154). -/
def State.writeReply (s : State) (pos : Fin 16) (r : Reply) : State :=
  match r with
  | .status t => (s.noteCapacity pos r).writeStatus pos t
  | _ => s.noteCapacity pos r

/-- A good reply acts on the work its frame was sent for (R154 to R168). -/
def State.actOnReply (s : State) (x : Addressed) (r : Reply) : State :=
  match x.frame with
  | .poll => s
  | .open l .. => if x.deliveryGone then s else s.openReply x.pos l r
  | .batch l _ _ items =>
    if x.deliveryGone then s
    else s.setDelivery x.pos l
      (((s.validator x.pos).lane l).delivery.acknowledged items x.nextCursor)
  | .close l _ => if x.deliveryGone then s else s.closeReply x.pos l r
  | .switch l g => s.switchReply x.pos l g
  | .drop l g => s.setValidator x.pos
      ((s.validator x.pos).setLane l (((s.validator x.pos).lane l).dropped g))

theorem State.applyReply_eq (s : State) (x : Addressed) (r : Reply) :
    s.applyReply x r = (s.writeReply x.pos r).actOnReply x r := by
  cases r <;> rfl

theorem Ranged.writeReply {s : State} (h : Ranged s) (pos : Fin 16) (r : Reply) :
    Ranged (s.writeReply pos r) := by
  unfold State.writeReply
  split
  · exact (h.noteCapacity pos _).writeStatus pos _
  · exact h.noteCapacity pos r

theorem Ranged.actOnReply {s : State} (h : Ranged s) (x : Addressed) (r : Reply) :
    Ranged (s.actOnReply x r) := by
  unfold State.actOnReply
  split
  · exact h
  · split
    · exact h
    · exact h.openReply _ _ _
  · split
    · exact h
    · exact h.keepMisses _ rfl
  · split
    · exact h
    · exact h.closeReply _ _ _
  · exact h.switchReply _ _ _
  · exact h.keepMisses _ rfl

theorem Ranged.applyReply {s : State} (h : Ranged s) (x : Addressed) (r : Reply) :
    Ranged (s.applyReply x r) := by
  rw [State.applyReply_eq]
  exact (h.writeReply x.pos r).actOnReply x r

theorem Ranged.goodAt {s : State} (h : Ranged s) (pos : Fin 16) : Ranged (s.goodAt pos) := by
  have hkept : ((s.validator pos).goodPresence).missCounter = (s.validator pos).missCounter := by
    unfold Validator.goodPresence
    split
    · rfl
    · rfl
    · rfl
    · split <;> rfl
    · rfl
  unfold State.goodAt
  dsimp only
  split
  · exact (h.keepMisses pos hkept).rise _ _
  · exact h.keepMisses pos hkept

theorem Ranged.missAt {s : State} (h : Ranged s) (pos : Fin 16) : Ranged (s.missAt pos) := by
  have hcounted : ((s.validator pos).missPresence).missCounter ≤ 65535 := by
    have hbump : ((s.validator pos).missPresence).missCounter = bump (s.validator pos).missCounter := by
      unfold Validator.missPresence
      dsimp only
      split
      · rfl
      · rfl
      · rfl
      · rfl
      · split <;> rfl
    rw [hbump]
    exact bump_le _
  unfold State.missAt
  dsimp only
  split
  · exact (((h.setValidator pos hcounted).rise _ _).abandonWhere _ _).abandonWhere _ _
  · exact h.setValidator pos hcounted

theorem BusRanged.countOutcome {b : Bus} (h : BusRanged b) (o : ExchangeOutcome) :
    BusRanged (b.countOutcome o) := by
  unfold Bus.countOutcome
  split
  · exact ⟨bump_le _, h.wrong, h.stray⟩
  · exact ⟨h.damaged, bump_le _, h.stray⟩
  · exact h
  · exact h

theorem Ranged.turnaroundGapEndStep {s : State} (h : Ranged s) :
    Ranged (turnaroundGapEndStep s) := by
  unfold Machine.turnaroundGapEndStep
  split
  · next x o _ =>
    obtain ⟨hdamaged, hwrong, hstray⟩ := h.bus.countOutcome o
    have hcounted : Ranged { s with bus := { s.bus.countOutcome o with link := .idle } } :=
      ⟨h.uplink, h.alertNo, h.lanes, ⟨hdamaged, hwrong, hstray⟩, h.scan⟩
    refine Ranged.settleScan ?_
    unfold State.applyOutcome
    split
    · exact hcounted
    · split
      · exact (hcounted.goodAt _).applyReply _ _
      · exact hcounted.missAt _
  · exact h

theorem Ranged.setLink {s : State} (h : Ranged s) (k : Link) : Ranged (s.setLink k) :=
  h.congr rfl rfl rfl rfl rfl rfl

theorem Ranged.postBroadcastGapEndStep {s : State} (h : Ranged s) :
    Ranged (postBroadcastGapEndStep s) := by
  unfold Machine.postBroadcastGapEndStep
  split
  · next w _ =>
    have hsent : Ranged { s.setLink .idle with
        scan := { s.scan with broadcast := s.scan.broadcast.tail } } := h.congr rfl rfl rfl rfl rfl rfl
    refine Ranged.settleScan (hsent.eachValidator fun pos v => ?_)
    unfold Validator.switched
    split <;> rfl
  · exact h

theorem Ranged.postResetGapEndStep {s : State} (h : Ranged s) : Ranged (postResetGapEndStep s) := by
  unfold Machine.postResetGapEndStep
  split
  · exact (h.setLink .idle).beginRound (Nat.zero_le _)
  · exact h

theorem Ranged.quietIntervalEndStep {s : State} (h : Ranged s) :
    Ranged (quietIntervalEndStep s) := by
  unfold Machine.quietIntervalEndStep
  split
  · exact h.nextRound
  · exact h

theorem Ranged.idleGap {s : State} (h : Ranged s) : Ranged { s with bus := s.bus.idleGap } := by
  have hbus : BusRanged s.bus.idleGap := by
    unfold Bus.idleGap
    split
    · exact h.bus
    · refine ⟨h.bus.damaged, h.bus.wrong, ?_⟩
      dsimp only
      split
      · exact bump_le _
      · exact h.bus.stray
  exact ⟨h.uplink, h.alertNo, h.lanes, hbus, h.scan⟩

end Sys2Proof.Machine
end

section
/-! The commands of the control unit, the resets, and the ranges (O59). -/

namespace Sys2Proof.Machine

/-! ### The commands of the control unit -/

/-- A command that reads its arguments keeps the ranges, if carrying it out does. -/
theorem Ranged.takeCommand {α : Type} {s : State} (h : Ranged s) {code : Nat}
    {read : List Byte → Option α} {carry : CommandHead → α → State → State}
    (hcarry : ∀ head x, Ranged (carry head x s.popControl)) :
    Ranged (s.takeCommand code (withArgs read carry)) :=
  State.takeCommand_withArgs_keeps h (fun head r => h.popControl.answer head r []) hcarry

theorem Ranged.statusStep {s : State} (h : Ranged s) : Ranged (statusStep s) := by
  have made : ∀ {u : State} (args : List Byte), Ranged u → Ranged (u.statusTaken args) := by
    intro u args hu
    unfold State.statusTaken
    split
    · exact hu.congr rfl rfl rfl rfl rfl rfl
    · exact hu
  obtain e | ⟨head, e⟩ | ⟨body, args, hroom, e⟩ | ⟨a, args, -, -, e⟩ := statusStep_cases s
  · exact e.symm ▸ h
  · exact e.symm ▸ h.popControl.answer head .unknown []
  · exact e.symm ▸ made args (h.popControl.place hroom .answer body false)
  · exact e.symm ▸ made args (h.popControl.deliverAnswer a)

theorem Ranged.setSplitStep {s : State} (h : Ranged s) : Ranged (setSplitStep s) := by
  refine h.takeCommand fun head split => ?_
  unfold carrySetSplit
  split
  · exact h.popControl.answer head .state []
  · split
    · exact h.popControl.answer head .done []
    · have hdrawn : Ranged (s.popControl.redraw split) := h.popControl.congr rfl rfl rfl rfl rfl rfl
      exact hdrawn.answer head .done []

theorem Ranged.carryOut {s : State} (h : Ranged s) (head : CommandHead) (w : CommandWork) :
    Ranged (s.carryOut head w) := h.congr rfl rfl rfl rfl rfl rfl

theorem Ranged.subscribeStep {s : State} (h : Ranged s) : Ranged (subscribeStep s) := by
  refine h.takeCommand fun head x => ?_
  obtain e | e | e := carrySubscribe_cases head x s.popControl
  · exact e.symm ▸ h.popControl.answer head .done []
  · exact e.symm ▸ h.popControl.answer head .argument []
  · exact e.symm ▸ (h.popControl.carryOut head _).acceptClear x.1 _

theorem Ranged.clearStep {s : State} (h : Ranged s) : Ranged (clearStep s) :=
  h.takeCommand fun head l => (h.popControl.carryOut head _).acceptClear l .clear

theorem Ranged.setSettings {s : State} (h : Ranged s) (st : Settings) :
    Ranged { s with settings := st } := h.congr rfl rfl rfl rfl rfl rfl

theorem Ranged.changeClass {s : State} (h : Ranged s) (c : Fin 8) (f : ClassRec) :
    Ranged (s.changeClass c f) := by
  refine Ranged.wakeScan (Ranged.eachValidator ?_ fun pos v => ?_)
  · exact ((h.setSettings _).abandonWhere .b _).abandonWhere .p _
  · split <;> rfl

theorem Ranged.setClassStep {s : State} (h : Ranged s) : Ranged (setClassStep s) := by
  refine h.takeCommand fun head x => ?_
  unfold carrySetClass
  split
  · exact h.popControl.noteReport.answer head .done []
  · exact (h.popControl.changeClass x.1 x.2).answer head .done []

theorem Ranged.changePosition {s : State} (h : Ranged s) (pos : Fin 16)
    (entry : Option (Fin 8)) : Ranged (s.changePosition pos entry) := by
  refine Ranged.wakeScan (Ranged.setValidator (Ranged.setLink ?_ _) pos (Nat.zero_le _))
  exact ((h.setSettings _).abandonWhere .b _).abandonWhere .p _

theorem Ranged.setPositionStep {s : State} (h : Ranged s) : Ranged (setPositionStep s) := by
  refine h.takeCommand fun head x => ?_
  unfold carrySetPosition
  split
  · exact h.popControl.noteReport.answer head .done []
  · exact (h.popControl.changePosition x.1 x.2).answer head .done []

theorem Ranged.setTimingStep {s : State} (h : Ranged s) : Ranged (setTimingStep s) := by
  refine h.takeCommand fun head x => ?_
  refine Ranged.answer ?_ head .done []
  exact h.popControl.standingIfDue.congr rfl rfl rfl rfl rfl rfl

theorem Ranged.setAddressingStep {s : State} (h : Ranged s) : Ranged (setAddressingStep s) :=
  h.takeCommand fun _ _ => h.popControl.deliverAnswer _

theorem Ranged.eventsStep {s : State} (h : Ranged s) : Ranged (eventsStep s) :=
  h.takeCommand fun head _ => (h.popControl.setSettings _).answer head .done _

theorem Ranged.acknowledgeStep {s : State} (h : Ranged s) : Ranged (acknowledgeStep s) := by
  refine h.takeCommand fun head mask => Ranged.answer ?_ head .done _
  exact h.popControl.congr rfl rfl rfl rfl rfl rfl

theorem Ranged.holdStep {s : State} (h : Ranged s) : Ranged (holdStep s) := by
  refine h.takeCommand fun head l => Ranged.answer ?_ head .done []
  exact h.popControl.keepCounters l rfl rfl rfl rfl rfl

theorem Ranged.releaseStep {s : State} (h : Ranged s) : Ranged (releaseStep s) := by
  refine h.takeCommand fun head l => Ranged.answer (Ranged.testActivation ?_ l) head .done []
  exact h.popControl.keepCounters l rfl rfl rfl rfl rfl

theorem Ranged.rollbackStep {s : State} (h : Ranged s) : Ranged (rollbackStep s) := by
  refine h.takeCommand fun head l => ?_
  unfold carryRollback
  dsimp only
  split
  · exact h.popControl.answer head .state []
  · split
    · exact (h.popControl.completeRollback l).answer head .done []
    · exact ((h.popControl.carryOut head _).discardUndo l .aborted).keepCounters l rfl rfl rfl rfl rfl

theorem Ranged.inspectStep {s : State} (h : Ranged s) : Ranged (inspectStep s) :=
  h.takeCommand fun _ _ => h.popControl.congr rfl rfl rfl rfl rfl rfl

theorem Ranged.inspectNextStep {s : State} (h : Ranged s) : Ranged (inspectNextStep s) :=
  h.takeCommand fun head _ => h.popControl.carryOut head _

theorem Ranged.inspectSlotReadStep {s : State} (h : Ranged s) :
    Ranged (inspectSlotReadStep s) := by
  unfold Machine.inspectSlotReadStep
  split
  · split
    · have hpointer : ∀ slot, Ranged { s.granted .control with
          ctl := { (s.granted .control).ctl with inspectSlot := slot } } :=
        fun slot => h.congr rfl rfl rfl rfl rfl rfl
      unfold State.inspectRead
      dsimp only
      split
      · exact (hpointer _).answer _ .done _
      · exact (hpointer _).carryOut _ _
    · exact h
  · exact h

theorem Ranged.saveStep {s : State} (h : Ranged s) : Ranged (saveStep s) :=
  h.takeCommand fun head _ => h.popControl.carryOut head _

theorem Ranged.saveWriteCompleteStep {s : State} (h : Ranged s) :
    Ranged (saveWriteCompleteStep s) := by
  unfold Machine.saveWriteCompleteStep
  split
  · refine Ranged.answer ?_ _ .done []
    exact h.congr rfl rfl rfl rfl rfl rfl
  · exact h

theorem Ranged.restartStep {s : State} (h : Ranged s) : Ranged (restartStep s) :=
  h.takeCommand fun _ _ => h.popControl.deliverAnswer _

/-! ### The resets -/

theorem uplinkRanged_cold (frame : List Byte) :
    UplinkRanged { Uplink.cold with lastFrame := frame } :=
  ⟨Nat.zero_le _, Nat.zero_le _, Nat.zero_le _, by
    simp [UplinkCounters.inRange, Uplink.cold, UplinkCounters.zero]⟩

theorem scanRanged_afterReset (roster : Vector (Option (Fin 8)) 16) :
    ScanRanged (Scanner.afterReset roster) := by
  refine ⟨fun pos => ?_, Nat.zero_le _⟩
  show (anewRecords roster)[pos].missCounter ≤ 65535
  rw [anewRecords, eachOf_get]
  exact Nat.zero_le _

theorem Ranged.riseRestarted {s : State} (h : Ranged s) : Ranged s.riseRestarted := h.rise _ _

theorem Ranged.coldValues (s : State) (straps : Byte) : Ranged (s.coldValues straps) where
  uplink := uplinkRanged_cold _
  alertNo := Nat.zero_le _
  lanes l := by
    cases l <;> exact ⟨Nat.zero_le _, Nat.zero_le _, Nat.zero_le _, Nat.zero_le _, Nat.zero_le _⟩
  bus := ⟨Nat.zero_le _, Nat.zero_le _, Nat.zero_le _⟩
  scan := scanRanged_afterReset _

theorem Ranged.coldResetStep (straps : Byte) (s : State) : Ranged (coldResetStep straps s) :=
  (Ranged.coldValues _ straps).riseRestarted.beginRound (Nat.zero_le _)

theorem Ranged.dropWork {s : State} (h : Ranged s) : Ranged s.dropWork :=
  ⟨⟨Nat.zero_le _, Nat.zero_le _, Nat.zero_le _, h.uplink.counters⟩, h.alertNo, h.lanes,
    ⟨h.bus.damaged, h.bus.wrong, h.bus.stray⟩, h.scan.congr rfl rfl⟩

theorem Ranged.resetAssertedStep {s : State} (h : Ranged s) : Ranged (resetAssertedStep s) := by
  have hcut : Ranged s.cutSave := h.congr
  exact hcut.dropWork.congr rfl rfl rfl rfl rfl rfl

theorem LaneRec.countersInRange_warm {r : LaneRec} (h : r.countersInRange) :
    r.warm.countersInRange := by
  obtain ⟨hlateness, -⟩ := h
  unfold LaneRec.warm
  dsimp only
  split
  all_goals exact ⟨hlateness, Nat.zero_le _, Nat.zero_le _, Nat.zero_le _, Nat.zero_le _⟩

theorem Ranged.warmReset {s : State} (h : Ranged s) : Ranged s.warmReset := by
  have hlanes : ∀ l, (s.finishGranted.lane l).countersInRange := by
    intro l
    rw [State.lane_of_lanes (by simp : s.finishGranted.lanes = s.lanes)]
    exact h.lanes l
  refine Ranged.riseRestarted ⟨uplinkRanged_cold _, Nat.zero_le _, fun l => ?_,
    ⟨Nat.zero_le _, Nat.zero_le _, Nat.zero_le _⟩, scanRanged_afterReset _⟩
  cases l with
  | b => exact LaneRec.countersInRange_warm (hlanes .b)
  | p => exact LaneRec.countersInRange_warm (hlanes .p)

theorem Ranged.egressFrameSentStep {s : State} (h : Ranged s) :
    Ranged (egressFrameSentStep s) := by
  unfold Machine.egressFrameSentStep
  split
  · exact h
  · next m rest he =>
    have hegress := h.uplink.egress
    rw [he, List.length_cons] at hegress
    have hsent : Ranged
        { s with uplink := { s.uplink with egress := rest, lastFrame := outboundFrame m } } :=
      h.setUplink ⟨h.uplink.ingress, h.uplink.control, by show rest.length ≤ 8; omega,
        h.uplink.counters⟩
    dsimp only
    split
    · exact hsent.warmReset
    · unfold State.placeWaiting
      split
      · exact hsent.deliverAnswer _
      · exact hsent

/-! ### Every command -/

theorem Ranged.broadcastSwitchStep {s : State} (h : Ranged s) :
    Ranged (broadcastSwitchStep s) := by
  unfold Machine.broadcastSwitchStep
  split
  · exact ⟨h.uplink, h.alertNo, h.lanes, ⟨h.bus.damaged, h.bus.wrong, h.bus.stray⟩,
      h.scan.congr rfl rfl⟩
  · exact h

/-- Every command keeps the ranges; those not named leave every queue and counter (O11). -/
theorem Ranged.exec {c : Instr} {s t : State} (hs : Ranged s) (h : exec c s = .next t) :
    Ranged t := by
  obtain ⟨-, -, -, -, -, -, -, -, hlanes, hingress, hcontrol, hbus, hrecords, hctl, -, hegress,
    hcounters, -, -, -, -, hround, -⟩ := commandsTouchOnlyTheirBlocks c s t h
  have act : Ranged (actOf c s) → Ranged t := fun hact => exec_keeps hs hact h
  have swept {f : State → State}
      (hf : f s = s ∨ ∃ w, s.grantedSweep = some w ∧ f s = s.sweepStep w) : Ranged (f s) := by
    obtain he | ⟨w, -, he⟩ := hf
    · exact he.symm ▸ hs
    · exact he.symm ▸ hs.sweepStep w
  cases c with
  | coldReset straps => exact act (.coldResetStep straps s)
  | resetAsserted => exact act hs.resetAssertedStep
  | egressFrameSent => exact act hs.egressFrameSentStep
  | frameArrival frame => exact act (hs.frameStep frame)
  | beacon => exact act hs.beaconStep
  | notice => exact act hs.noticeStep
  | segmentCheck => exact act hs.segmentCheckStep
  | segmentMatch => exact act hs.segmentMatchStep
  | applyItem => exact act hs.applyItemStep
  | retireSlot =>
    exact act (swept ((retireSlotStep_cases s).imp_right fun ⟨w, _, hw, _, he⟩ => ⟨w, hw, he⟩))
  | undoSlot =>
    exact act (swept ((undoSlotStep_cases s).imp_right fun ⟨w, _, hw, _, he⟩ => ⟨w, hw, he⟩))
  | clearSlot =>
    exact act (swept ((clearSlotStep_cases s).imp_right fun ⟨w, hw, _, he⟩ => ⟨w, hw, he⟩))
  | localSecond => exact act hs.localSecondStep
  | holdoverEntry => exact act hs.holdoverEntryStep
  | periodicStanding => exact act hs.standingIfDue
  | scannerVisit => exact act hs.scannerVisitStep
  | broadcastSwitch => exact act hs.broadcastSwitchStep
  | batchSlotRead => exact act hs.batchSlotReadStep
  | lineIdleGap => exact act hs.idleGap
  | turnaroundGapEnd => exact act hs.turnaroundGapEndStep
  | postBroadcastGapEnd => exact act hs.postBroadcastGapEndStep
  | postResetGapEnd => exact act hs.postResetGapEndStep
  | quietIntervalEnd => exact act hs.quietIntervalEndStep
  | status => exact act hs.statusStep
  | setSplit => exact act hs.setSplitStep
  | subscribe => exact act hs.subscribeStep
  | setClass => exact act hs.setClassStep
  | setPosition => exact act hs.setPositionStep
  | setTiming => exact act hs.setTimingStep
  | setAddressing => exact act hs.setAddressingStep
  | events => exact act hs.eventsStep
  | acknowledge => exact act hs.acknowledgeStep
  | hold => exact act hs.holdStep
  | release => exact act hs.releaseStep
  | rollback => exact act hs.rollbackStep
  | clear => exact act hs.clearStep
  | inspect => exact act hs.inspectStep
  | inspectNext => exact act hs.inspectNextStep
  | inspectSlotRead => exact act hs.inspectSlotReadStep
  | save => exact act hs.saveStep
  | saveWriteComplete => exact act hs.saveWriteCompleteStep
  | restart => exact act hs.restartStep
  | reclaimSlot | tallySlotRead | busFrameSent | replyStart | replyReceived chars
  | replyWindowEnd =>
    obtain ⟨hdamaged, hwrong, hstray⟩ := hbus
    exact
      { uplink := ⟨hingress.1 ▸ hs.uplink.ingress, hcontrol ▸ hs.uplink.control,
          hegress ▸ hs.uplink.egress, hcounters ▸ hs.uplink.counters⟩
        alertNo := hctl.2 ▸ hs.alertNo
        lanes := fun l => by rw [State.lane_of_lanes hlanes]; exact hs.lanes l
        bus := ⟨hdamaged ▸ hs.bus.damaged, hwrong ▸ hs.bus.wrong, hstray ▸ hs.bus.stray⟩
        scan := hs.scan.congr hrecords hround.2.1 }

/-- A part after a cold reset has the clock unset. -/
theorem clockOk_cold : ClockOk Clock.cold := by
  refine ⟨?_, ?_, ?_, ?_, fun _ => ⟨rfl, rfl, rfl⟩⟩
  all_goals exact Nat.zero_le _

theorem exec_clockOk {c : Instr} {s t : State} (hs : ClockOk s.clock) (h : exec c s = .next t) :
    ClockOk t.clock := by
  by_cases hcold : ∃ straps, c = .coldReset straps
  · obtain ⟨straps, rfl⟩ := hcold
    refine exec_keeps (P := fun u => ClockOk u.clock) hs ?_ h
    have hclock : (coldResetStep straps s).clock = Clock.cold := by
      simp [coldResetStep, State.coldValues, State.riseRestarted]
    exact (show (actOf (.coldReset straps) s).clock = Clock.cold from hclock) ▸ clockOk_cold
  · exact (exec_clock (fun straps he => hcold ⟨straps, he⟩) h).ok hs

/-- Settles O59: the clock by its moves (`exec_clock`), the queues and counters as `Ranged`. -/
theorem rangesAreKept : Obligations.RangesAreKept := by
  intro s t hclock hqueues hcounters hstep
  have hranged : Ranged t := step_keeps (fun u rest hu => hu.congr rfl rfl rfl rfl rfl rfl)
    (fun c u v hu hc => hu.exec hc) ((ranged_iff s).mpr ⟨hqueues, hcounters⟩) hstep
  exact ⟨step_keeps (P := fun u => ClockOk u.clock) (fun _ _ hu => hu)
    (fun _ _ _ hu hc => exec_clockOk hu hc) hclock hstep, (ranged_iff t).mp hranged⟩

/-! ### The state after reset -/

/-- Settles O60: every region is empty, every lane and counter cold. -/
theorem resetMeetsTheInvariants : Obligations.ResetMeetsTheInvariants := by
  have hranged : Ranged State.reset :=
    { uplink := uplinkRanged_cold _
      alertNo := Nat.zero_le _
      lanes := (Ranged.coldValues State.reset 0).lanes
      bus := ⟨Nat.zero_le _, Nat.zero_le _, Nat.zero_le _⟩
      scan := ⟨by decide, Nat.zero_le _⟩ }
  have hregion : ∀ l, State.reset.region l = [] := fun l => by cases l <;> rfl
  have hlinks : LinksOk [] :=
    ⟨fun _ _ _ hread => by simp at hread, fun _ _ hread => by simp at hread⟩
  obtain ⟨hqueues, hcounters⟩ := (ranged_iff _).mp hranged
  refine ⟨fun l => ?_, fun l => ?_, ⟨fun l => ?_, trivial⟩, clockOk_cold, hqueues, hcounters⟩
  · rw [hregion]
    refine ⟨rfl, fun a x hread => by simp at hread, ?_⟩
    cases l <;> rfl
  · rw [hregion]
    exact ⟨rfl, hlinks⟩
  · cases l <;> exact LaneRecInv.cold

end Sys2Proof.Machine
end

section
/-! Flags, ALERTs, ANSWERs, the arbiter and the reports (O3 to O6). -/

namespace Sys2Proof.Machine

/-! ### Rises (R180, R181) -/

theorem State.egressRoom_iff (s : State) : s.egressRoom = true ↔ s.uplink.egress.length < 8 := by
  simp [State.egressRoom]

theorem State.egressRoom_full {s : State} (h : 8 ≤ s.uplink.egress.length) :
    s.egressRoom = false := by
  simpa [State.egressRoom] using h

/-- The state with a flag set and no ALERT made. -/
def State.flagged (s : State) (f : EventFlag) : State :=
  { s with ctl := { s.ctl with flags := s.ctl.flags ||| f.bit } }

theorem State.rise_of_disabled {s : State} {f : EventFlag}
    (h : s.settings.enables.getLsbD f.number = false) (c : AlertContext) :
    s.rise f c = s.flagged f := by
  simp [State.rise, State.flagged, h]

theorem State.rise_of_enabled {s : State} {f : EventFlag}
    (h : s.settings.enables.getLsbD f.number = true) (c : AlertContext) :
    s.rise f c = (s.flagged f).alert f c := by
  simp [State.rise, State.flagged, h]

/-- The state with the next ALERT numbered. -/
def State.numbered (s : State) : State :=
  { s with ctl := { s.ctl with alertNo := (s.ctl.alertNo + 1) % 65536 } }

theorem State.alert_of_room {s : State} (h : s.uplink.egress.length < 8) (f : EventFlag)
    (c : AlertContext) :
    s.alert f c = s.numbered.place .alert (s.numbered.alertBody f c) false :=
  if_pos ((State.egressRoom_iff s.numbered).mpr h)

theorem State.alert_of_full {s : State} (h : 8 ≤ s.uplink.egress.length) (f : EventFlag)
    (c : AlertContext) : s.alert f c = s.numbered.countUplink .alertDropped :=
  if_neg (Bool.eq_false_iff.mp (State.egressRoom_full (s := s.numbered) h))

theorem ClockState.code_eq (x : ClockState) :
    x.code = match x with | .unset => 0 | .locked => 1 | .holdover => 2 := by
  cases x <;> rfl

theorem State.alertBody_eq (s : State) (f : EventFlag) (c : AlertContext) :
    s.alertBody f c =
      be 1 s.settings.addressing.unitId.toNat ++ be 2 s.ctl.alertNo ++ be 1 f.number
        ++ be 1 c.position ++ be 1 c.lane ++ be 3 c.generation ++ be 1 c.detail ++ be 2 c.figure
        ++ be 2 s.ctl.flags.toNat ++ be 4 s.clock.value
        ++ be 1 (match s.clock.state with | .unset => 0 | .locked => 1 | .holdover => 2) := by
  unfold State.alertBody
  exact congrArg _ (congrArg (be 1) (ClockState.code_eq _))

/-- Settles O3: by whether the flag's ALERT is enabled and the egress queue has room. -/
theorem riseSetsFlagAndMakesAlert : Obligations.RiseSetsFlagAndMakesAlert := by
  refine ⟨fun s f c => ⟨fun hoff => ?_, fun hon hroom => ?_, fun hon hfull => ?_⟩, fun _ => rfl, rfl⟩
  · exact State.rise_of_disabled hoff c
  · rw [State.rise_of_enabled hon, State.alert_of_room (s := s.flagged f) hroom, State.alertBody_eq]
    rfl
  · rw [State.rise_of_enabled hon, State.alert_of_full (s := s.flagged f) hfull]
    rfl

/-! ### ANSWERs (R173, R183) -/

theorem State.deliverAnswer_of_room {s : State} (h : s.uplink.egress.length < 8)
    (a : PendingAnswer) : s.deliverAnswer a = s.placeAnswer a :=
  if_pos ((State.egressRoom_iff s).mpr h)

theorem State.deliverAnswer_of_full {s : State} (h : 8 ≤ s.uplink.egress.length)
    (a : PendingAnswer) :
    s.deliverAnswer a = { s with ctl := { s.ctl with command := .placing a } } :=
  if_neg (by simp [State.egressRoom_full h])

theorem State.placeAnswer_eq (s : State) (a : PendingAnswer) :
    s.placeAnswer a =
      { s.place .answer a.body a.restart with
        settings := { s.settings with addressing := a.addressing.getD s.settings.addressing },
        ctl := { s.ctl with
          command := if a.restart then .carryingOut a.head .restart else .available } } := by
  obtain ⟨head, body, addressing, restart⟩ := a
  cases addressing <;> rfl

/-- The state after the head of the egress queue has been sent. -/
def State.sentHead (s : State) (m : OutboundMessage) (rest : List OutboundMessage) : State :=
  { s with uplink := { s.uplink with egress := rest, lastFrame := outboundFrame m } }

theorem exec_egressFrameSent {s : State} {m : OutboundMessage} {rest : List OutboundMessage}
    (hp : s.power = .running) (he : s.uplink.egress = m :: rest) :
    exec .egressFrameSent s =
      .next (if m.restart then (s.sentHead m rest).warmReset else (s.sentHead m rest).placeWaiting) := by
  rw [exec_of_running hp]
  simp only [actOf, egressFrameSentStep, he]
  rfl

theorem State.placeWaiting_of_placing {s : State} {a : PendingAnswer}
    (h : s.ctl.command = .placing a) : s.placeWaiting = s.deliverAnswer a := by
  simp only [State.placeWaiting, h]

theorem State.placeWaiting_of_not {s : State} (h : ∀ a, s.ctl.command ≠ .placing a) :
    s.placeWaiting = s := by
  unfold State.placeWaiting
  split
  · next a ha => exact absurd ha (h a)
  · rfl

/-- Settles O4: an ANSWER by the room for it, the one that waits by the command state. -/
theorem answersArePlacedInTurn : Obligations.AnswersArePlacedInTurn := by
  refine ⟨fun s h r body => ⟨fun hroom => ?_, fun hfull => ?_⟩,
    fun s m rest hp he hrestart hroom => ⟨fun hnot => ?_, fun a ha => ?_⟩⟩
  · exact State.deliverAnswer_of_room hroom _
  · exact State.deliverAnswer_of_full hfull _
  · rw [exec_egressFrameSent hp he, hrestart, if_neg Bool.false_ne_true,
      State.placeWaiting_of_not (s := s.sentHead m rest) hnot]
    rfl
  · rw [exec_egressFrameSent hp he, hrestart, if_neg Bool.false_ne_true,
      State.placeWaiting_of_placing (s := s.sentHead m rest) ha,
      State.deliverAnswer_of_room (s := s.sentHead m rest) hroom, State.placeAnswer_eq]
    rfl

/-! ### The arbiter (R60) -/

theorem State.nextGrant_of_not_finishing {s : State}
    (h : ∀ seg pos, s.store.engine ≠ .finishing seg pos) :
    s.nextGrant = s.store.lastGranted.after.find? s.waits := by
  unfold State.nextGrant
  split
  · next seg pos he => exact absurd he (h seg pos)
  · rfl

/-- Every requester has its turn, once. -/
theorem Requester.mem_after (r q : Requester) : q ∈ r.after := by
  cases r <;> cases q <;> decide

/-- What `find?` finds in a list is the element with the property before which no element has it. -/
theorem find?_eq_some_iff_takeWhile {α : Type} [DecidableEq α] {p : α → Bool} {x : α} :
    ∀ {l : List α}, x ∈ l →
      (l.find? p = some x ↔ p x = true ∧ ∀ y ∈ l.takeWhile (fun y => decide (y ≠ x)), p y = false)
  | [], hx => by simp at hx
  | y :: ys, hx => by
    by_cases hy : y = x
    · subst hy
      cases hp : p y with
      | true => simp [hp]
      | false => simpa [hp] using fun hfound => absurd (List.find?_some hfound) (by simp [hp])
    · have hmem : x ∈ ys := (List.mem_cons.mp hx).resolve_left fun he => hy he.symm
      cases hp : p y with
      | true => simp [hp, hy]
      | false => simpa [hp, hy] using find?_eq_some_iff_takeWhile hmem

theorem State.waits_control_iff (s : State) :
    s.waits .control = true ↔
      ∃ h left done, s.ctl.command = .carryingOut h (.inspect left done) ∧ 0 < left := by
  simp only [State.waits]
  split
  · next h left done hc =>
    rw [decide_eq_true_iff]
    refine ⟨fun hleft => ⟨h, left, done, hc, hleft⟩, fun ⟨h', left', done', hc', hleft⟩ => ?_⟩
    obtain ⟨-, hwork⟩ := CommandState.carryingOut.inj (hc.symm.trans hc')
    rwa [(CommandWork.inspect.inj hwork).1]
  · next hnot =>
    refine ⟨fun hf => absurd hf Bool.false_ne_true, fun ⟨h, left, done, hc, _⟩ => ?_⟩
    exact absurd hc (hnot h left done)

theorem State.waits_apply_iff (s : State) :
    s.waits .apply = true ↔ ∃ seg pos retry, s.store.engine = .applying seg pos retry := by
  cases he : s.store.engine <;> simp [State.waits, he]

/-- Settles O5: `nextGrant` is the first waiting requester in the cyclic order. -/
theorem arbiterGrantsInCyclicOrder : Obligations.ArbiterGrantsInCyclicOrder := by
  refine ⟨fun s seg pos he => State.nextGrant_finishing he, fun s hnot => ?_, fun s => ?_,
    rfl, rfl, rfl, rfl⟩
  · rw [State.nextGrant_of_not_finishing hnot]
    refine ⟨fun r => find?_eq_some_iff_takeWhile (Requester.mem_after _ r), ?_⟩
    rw [List.find?_eq_none]
    exact ⟨fun h r => by simpa using h r (Requester.mem_after _ r), fun h r _ => by simp [h r]⟩
  · exact ⟨s.waits_apply_iff, Option.isSome_iff_exists, Option.isSome_iff_exists,
      s.waits_control_iff⟩

/-! ### The reports (section 11.3) -/

theorem State.alertBody_length (s : State) (f : EventFlag) (c : AlertContext) :
    (s.alertBody f c).length = 19 := by
  simp [State.alertBody]

theorem State.standing_length (s : State) : s.standing.length = 2318 := by
  simp [State.standing, encodeUnit, encodeSettings, encodeClock, encodeUplink, encodeCounters,
    encodeStore, encodeBus, encodeLane_length, encodeValidators_length, encodeCommand_length,
    encodeEngine_length, encodeSweeper_length]

theorem State.unusedStream_of_inspect {s : State} {h : CommandHead} {left : Nat}
    {done : List SlotReport} (hc : s.ctl.command = .carryingOut h (.inspect left done)) :
    s.unusedStream .b = laneCode s.ctl.inspectLane ∧ s.unusedStream .p = s.ctl.inspectSlot := by
  simp [State.unusedStream, hc]

theorem State.unusedStream_of_not {s : State}
    (hno : ∀ h left done, s.ctl.command ≠ .carryingOut h (.inspect left done)) (l : Lane) :
    s.unusedStream l = 0 := by
  unfold State.unusedStream
  split
  · next hc => exact absurd hc (hno _ _ _)
  · next hc => exact absurd hc (hno _ _ _)
  · rfl

theorem OutboundKind.code_eq (k : OutboundKind) :
    k.code = match k with | .answer => 5 | .standing => 6 | .alert => 7 := by
  cases k <;> rfl

/-- Settles O6: the STANDING is the one of `standing_isStanding`; the check values are evaluated. -/
theorem reportLengthsAndCheckValues : Obligations.ReportLengthsAndCheckValues := by
  refine ⟨fun s f c => ⟨s.standing_length, s.alertBody_length f c, be 2 (s.unusedStream .b),
    be 2 (s.unusedStream .p), be 3 (Config.noSweepBytes s.choices).toNat,
    encodeLane (s.lane .b) (s.unusedStream .b), encodeLane (s.lane .p) (s.unusedStream .p),
    fun h left done hc => ?_, fun hno => ?_, encodeLane_isSent _ _, encodeLane_isSent _ _,
    encodeLane_length _ _, encodeLane_length _ _, be_length _ _, s.standing_isStanding⟩,
    fun m => ?_, by decide +kernel⟩
  · obtain ⟨hlane, hslot⟩ := State.unusedStream_of_inspect hc
    rw [hlane, hslot]
    exact ⟨rfl, rfl⟩
  · rw [State.unusedStream_of_not hno, State.unusedStream_of_not hno]
    exact ⟨rfl, rfl⟩
  · rw [outboundFrame, envelope, OutboundKind.code_eq]
    rfl

end Sys2Proof.Machine
end

section
/-! The uplink port (O12, O13) and the BEACON at the head (O14). -/

namespace Sys2Proof.Machine

/-! ### What the port makes of a frame (R1 to R4) -/

theorem exec_frameArrival {s : State} (h : s.power = .running) (frame : List Byte) :
    exec (.frameArrival frame) s = .next (frameStep frame s) := exec_of_running h _

theorem frameStep_of_unchecked {frame : List Byte} (h : ¬ frameCheckGood frame = true) (s : State) :
    frameStep frame s = s.countUplink .failed := by
  simp [frameStep, h]

theorem frameStep_of_not_ours {frame : List Byte} {s : State} (hc : frameCheckGood frame = true)
    (ho : ¬ frameIsOurs s.settings.addressing frame = true) :
    frameStep frame s = s.countUplink .foreign := by
  simp [frameStep, hc, ho]

section
variable {frame : List Byte} {s : State} (hc : frameCheckGood frame = true)
  (ho : frameIsOurs s.settings.addressing frame = true)
include hc ho

theorem frameStep_of_unsound (h : openEnvelope (framePayload frame) = none) :
    frameStep frame s = s.countUplink .bad := by
  simp [frameStep, hc, ho, h]

theorem frameStep_of_outbound {body : List Byte}
    (h : openEnvelope (framePayload frame) = some (.outbound, body)) :
    frameStep frame s = s.countUplink .foreign := by
  simp [frameStep, hc, ho, h]

theorem frameStep_of_carousel {k : CarouselKind} {body : List Byte}
    (h : openEnvelope (framePayload frame) = some (.carousel k, body)) :
    frameStep frame s = s.offerIngress { kind := k, body := body } := by
  simp [frameStep, hc, ho, h]

theorem frameStep_of_control {body : List Byte}
    (h : openEnvelope (framePayload frame) = some (.control, body)) :
    frameStep frame s =
      if (controlOf body).unitId = s.settings.addressing.unitId then s.offerControl (controlOf body)
      else s.countUplink .foreign := by
  simp [frameStep, hc, ho, h]

end

/-! ### The envelope -/

theorem field_take {bs : List Byte} {off k n : Nat} (h : off + k ≤ n) :
    field (bs.take n) off k = field bs off k := by
  simp only [field, List.drop_take, List.take_take]
  rw [Nat.min_eq_left (by omega)]

/-- The identifier of a CONTROL is its body's first byte. -/
theorem controlOf_unitId_eq_iff (body : List Byte) (unit : Byte) :
    (controlOf body).unitId = unit ↔ field body 0 1 = unit.toNat := by
  have hlt : field body 0 1 < 256 := field_lt body 0 1
  rw [← BitVec.toNat_inj]
  simp [controlOf, Nat.mod_eq_of_lt hlt]

theorem controlOf_sent (m : ControlMessage) :
    controlOf ([m.unitId, m.tag, m.code] ++ m.args) = m := by
  obtain ⟨unitId, tag, code, args⟩ := m
  simp [controlOf, field, beNat]

/-- An envelope laid out as R194 says is opened to its body. -/
theorem openEnvelope_sent {kind : Nat} {k : UplinkKind} {body padding : List Byte}
    (hk : uplinkKindOf kind = some k) (hkind : kind < 256) (hlen : body.length < 65536)
    (hpad : padding = [] ∨ (3 + body.length < 46 ∧ 3 + body.length + padding.length = 46))
    (hc : k = .control → 3 ≤ body.length) :
    openEnvelope (be 1 kind ++ be 2 body.length ++ body ++ padding) = some (k, body) := by
  simp only [List.append_assoc]
  generalize hp : be 1 kind ++ (be 2 body.length ++ (body ++ padding)) = payload
  have hfirst : field payload 0 1 = kind := by
    rw [← hp]
    exact field_be_head 1 kind _ hkind
  have hsecond : field payload 1 2 = body.length := by
    rw [← hp, field_be_skip 1 kind _ 1 2 (Nat.le_refl 1)]
    exact field_be_head 2 body.length _ hlen
  have hlength : payload.length = 3 + body.length + padding.length := by
    rw [← hp]
    simp
    omega
  have hbody : (payload.drop 3).take body.length = body := by
    rw [← hp, drop_be 1 kind _ 3 (by decide), drop_be 2 body.length _ 2 (Nat.le_refl 2)]
    simp
  rw [openEnvelope_eq_some (k := k) (hfirst ▸ hk) ?_ (hsecond ▸ hc), hsecond, hbody]
  rw [hsecond, hlength]
  obtain rfl | ⟨hshort, hfull⟩ := hpad
  · exact .inl rfl
  · exact .inr ⟨hshort, hfull⟩

/-! ### Refusals -/

/-- Settles O12: the tests of `frameStep` in their order, as the statement words them. -/
theorem refusedFrameIsCountedOnce : Obligations.RefusedFrameIsCountedOnce := by
  intro frame s hp a payload kind n checked ours sound c counted foreign
  rw [exec_frameArrival hp]
  have hpayload : framePayload frame = payload := framePayload_eq frame
  refine ⟨fun hno => ?_, fun hchecked hno => ?_, fun hchecked hours hno => ?_,
    fun hchecked hours hsound hother => ?_⟩
  · rw [frameStep_of_unchecked fun h => hno ((frameCheckGood_iff frame).mp h)]
    rfl
  · rw [frameStep_of_not_ours ((frameCheckGood_iff frame).mpr hchecked)
      fun h => hno ((frameIsOurs_iff _ frame).mp h)]
    rfl
  · have hclosed : openEnvelope (framePayload frame) = none := by
      rw [hpayload]
      exact openEnvelope_eq_none hno
    rw [frameStep_of_unsound ((frameCheckGood_iff frame).mpr hchecked)
      ((frameIsOurs_iff _ frame).mpr hours) hclosed]
    rfl
  · have hcheck := (frameCheckGood_iff frame).mpr hchecked
    have haddress := (frameIsOurs_iff _ frame).mpr hours
    obtain ⟨hlow, hhigh, hlen, hcontrol⟩ := hsound
    obtain hout | ⟨hfour, hunit⟩ := hother
    · have hk : uplinkKindOf kind = some .outbound := (uplinkKindOf_outbound _).mpr ⟨hout, hhigh⟩
      have hopen := openEnvelope_eq_some (payload := payload) hk hlen (by simp)
      rw [← hpayload] at hopen
      rw [frameStep_of_outbound hcheck haddress hopen]
      rfl
    · have hk : uplinkKindOf kind = some .control := (uplinkKindOf_control _).mpr hfour
      have hbody : 3 ≤ n := hcontrol hfour
      have hopen := openEnvelope_eq_some (payload := payload) hk hlen (fun _ => hbody)
      rw [← hpayload] at hopen
      have hnot : ¬ (controlOf ((payload.drop 3).take n)).unitId = a.unitId := by
        rw [controlOf_unitId_eq_iff, field_take (by omega), field_drop]
        exact hunit
      rw [frameStep_of_control hcheck haddress hopen, hpayload, if_neg hnot]
      rfl

/-! ### Acceptance -/

theorem State.offerIngress_of_room {s : State} (h : s.uplink.ingress.length < 16)
    (m : IngressMessage) : s.offerIngress m =
      ({ s with uplink := { s.uplink with ingress := s.uplink.ingress ++ [m] } } : State).countUplink
        .taken := if_pos h

theorem State.offerIngress_of_full {s : State} (h : 16 ≤ s.uplink.ingress.length)
    (m : IngressMessage) :
    s.offerIngress m = (s.countUplink .ingressDropped).rise .ingressOverflow {} :=
  if_neg (Nat.not_lt.mpr h)

theorem State.offerControl_of_room {s : State} (h : s.uplink.control.length < 4)
    (m : ControlMessage) : s.offerControl m =
      ({ s with uplink := { s.uplink with control := s.uplink.control ++ [m] } } : State).countUplink
        .taken := if_pos h

theorem State.offerControl_of_full {s : State} (h : 4 ≤ s.uplink.control.length)
    (m : ControlMessage) : s.offerControl m = s.countUplink .controlDropped :=
  if_neg (Nat.not_lt.mpr h)

/-- Settles O13: the envelope opens to the body (`openEnvelope_sent`), which is offered to its queue. -/
theorem acceptedFrameQueuedOrDropped : Obligations.AcceptedFrameQueuedOrDropped := by
  intro frame body padding kind s hp a hlong hfcs haddress htype hpayload hlen hpad
  have hcheck := (frameCheckGood_iff frame).mpr ⟨hlong, hfcs⟩
  have hours := (frameIsOurs_iff a frame).mpr ⟨haddress, htype⟩
  have opened {k : UplinkKind} (hk : uplinkKindOf kind = some k) (hkind : kind < 256)
      (hc : k = .control → 3 ≤ body.length) : openEnvelope (framePayload frame) = some (k, body) := by
    rw [framePayload_eq, hpayload]
    exact openEnvelope_sent hk hkind hlen hpad hc
  rw [exec_frameArrival hp]
  refine ⟨fun k hk => ?_, fun m hfour hbody hunit => ?_⟩
  · have hopen : openEnvelope (framePayload frame) = some (.carousel k, body) := by
      obtain ⟨rfl, rfl⟩ | ⟨rfl, rfl⟩ | ⟨rfl, rfl⟩ := hk
      all_goals exact opened rfl (by decide) (by simp)
    rw [frameStep_of_carousel hcheck hours hopen]
    refine ⟨fun hroom => ?_, fun hfull => ?_⟩
    · rw [State.offerIngress_of_room hroom]
      rfl
    · rw [State.offerIngress_of_full hfull]
      rfl
  · subst hfour
    have hthree : 3 ≤ body.length := by simp [hbody]
    rw [frameStep_of_control hcheck hours (opened rfl (by decide) fun _ => hthree), hbody,
      controlOf_sent, if_pos hunit]
    refine ⟨fun hroom => ?_, fun hfull => ?_⟩
    · rw [State.offerControl_of_room hroom]
      rfl
    · rw [State.offerControl_of_full hfull]
      rfl

/-! ### The BEACON at the head (R8, R108 to R110) -/

theorem exec_beacon_of_malformed {s : State} {body : List Byte} (hp : s.power = .running)
    (hhead : s.headOf .beacon = some body) (hlen : body.length ≠ 4) :
    exec .beacon s = .next (s.popIngress.countUplink .bad) := by
  have hparse : parseBeacon body = none := if_neg hlen
  rw [exec_of_running hp]
  simp only [actOf, beaconStep, hhead, hparse]

theorem State.offerBeacon_of_accepted {s : State} {t : Nat} {c : Clock}
    (h : s.clock.beacon t = some c) :
    s.offerBeacon t = ({ s with clock := c } : State).reportClock := by
  simp only [State.offerBeacon, h]

/-- Settles O14: by what `Clock.beacon` makes of the fleet time. -/
theorem acceptedBeaconSetsTheClock : Obligations.AcceptedBeaconSetsTheClock := by
  intro s body hp hhead
  refine ⟨exec_beacon_of_malformed hp hhead, fun hlen => ?_⟩
  rw [exec_beacon hp hhead hlen]
  refine ⟨fun hset => ?_, fun hset hlow hnear => ?_⟩
  · have haccepted : s.popIngress.clock.beacon (beNat body) = some { s.clock with
        value := beNat body, debt := 0, timer := 0, state := .locked } := by
      obtain hunset | hahead := hset
      · exact Clock.beacon_of_unset (c := s.clock) hunset _
      · exact Clock.beacon_of_ahead (c := s.clock) hahead
    rw [State.offerBeacon_of_accepted haccepted]
  · rw [State.offerBeacon_of_accepted (s := s.popIngress) (Clock.beacon_of_behind hset hlow hnear)]
    rfl

end Sys2Proof.Machine
end

section
/-! The resets and the settings memory (O7 to O10). -/

namespace Sys2Proof.Machine

/-! ### The record a cold reset loads (R188) -/

section
variable {m : SettingsMemory} {a b : SavedRecord}

theorem SettingsMemory.newest_of_both (ha : m.place1 = some a) (hb : m.place2 = some b) :
    m.newest = if laterNumber b.number a.number then some .second else some .first := by
  simp only [SettingsMemory.newest, ha, hb]

theorem SettingsMemory.load_of_newest {p : Place} {r : SavedRecord} (hn : m.newest = some p)
    (hr : m.at p = some r) (straps : Byte) : m.load straps = r.settings := by
  simp only [SettingsMemory.load, hn, Option.bind_some, hr]

/-- The first place's record is the later one. -/
theorem SettingsMemory.loads_first (ha : m.place1 = some a) (hb : m.place2 = some b)
    (h : laterNumber b.number a.number = false) (straps : Byte) :
    m.load straps = a.settings ∧ m.newest = some .first := by
  have hn : m.newest = some .first := by
    rw [SettingsMemory.newest_of_both ha hb, h, if_neg Bool.false_ne_true]
  exact ⟨SettingsMemory.load_of_newest hn ha straps, hn⟩

/-- The second place's record is the later one. -/
theorem SettingsMemory.loads_second (ha : m.place1 = some a) (hb : m.place2 = some b)
    (h : laterNumber b.number a.number = true) (straps : Byte) :
    m.load straps = b.settings ∧ m.newest = some .second := by
  have hn : m.newest = some .second := by
    rw [SettingsMemory.newest_of_both ha hb, h, if_pos rfl]
  exact ⟨SettingsMemory.load_of_newest hn hb straps, hn⟩

end

theorem laterNumber_of_lt {a b : Nat} (h : b < a) (hwrap : ¬(a = 65535 ∧ b = 1)) :
    laterNumber a b = true ∧ laterNumber b a = false := by
  refine ⟨?_, ?_⟩
  · unfold laterNumber
    rw [if_neg (by omega), if_neg hwrap]
    exact decide_eq_true h
  · unfold laterNumber
    rw [if_neg (by omega), if_neg (by omega)]
    exact decide_eq_false (Nat.lt_asymm h)

/-- Settles O8: by which places hold a record, and which save number is the later. -/
theorem coldResetLoadsLatestRecord : Obligations.ColdResetLoadsLatestRecord := by
  intro m straps first second
  refine ⟨fun a ha hb => ?_, fun b ha hb => ?_, fun a b ha hb hone hlast => ?_,
    fun a b ha hb hlast hone => ?_, fun a b ha hb hlt hwrap => ?_, fun a b ha hb hlt hwrap => ?_,
    fun ha hb => ?_⟩
  · have hn : m.newest = some .first := by simp only [SettingsMemory.newest, ha, hb]
    exact ⟨SettingsMemory.load_of_newest hn ha straps, hn⟩
  · have hn : m.newest = some .second := by simp only [SettingsMemory.newest, ha, hb]
    exact ⟨SettingsMemory.load_of_newest hn hb straps, hn⟩
  · exact SettingsMemory.loads_first ha hb (by rw [hone, hlast]; rfl) straps
  · exact SettingsMemory.loads_second ha hb (by rw [hone, hlast]; rfl) straps
  · exact SettingsMemory.loads_first ha hb (laterNumber_of_lt hlt hwrap).2 straps
  · exact SettingsMemory.loads_second ha hb
      (laterNumber_of_lt hlt fun ⟨hb, ha⟩ => hwrap ⟨ha, hb⟩).1 straps
  · have hn : m.newest = none := by simp only [SettingsMemory.newest, ha, hb]
    have hload : m.load straps = Settings.default straps := by
      simp only [SettingsMemory.load, hn, Option.bind_none]
    rw [hload]
    refine ⟨hn, rfl, rfl, rfl, rfl, ?_, ?_, rfl, rfl, rfl⟩
    · have hclasses : (Settings.default straps).classes = (Settings.default 0).classes := rfl
      rw [hclasses]
      decide
    · have hroster : (Settings.default straps).roster = (Settings.default 0).roster := rfl
      rw [hroster]
      decide

/-! ### RESET_ASSERTED (R189, R190) -/

theorem State.cutSave_of_saving {s : State} {place : Place} {saved : SavedRecord}
    (h : s.savingTo place saved) :
    s.cutSave.settingsMemory = s.settingsMemory.write place (some saved)
    ∨ s.cutSave.settingsMemory = s.settingsMemory.write place none := by
  obtain ⟨head, hc⟩ := h
  simp only [State.cutSave, hc]
  split
  · exact .inl rfl
  · exact .inr rfl

/-- Settles O9: `dropWork` ends the work, `cutSave` decides the write of a SAVE. -/
theorem resetAssertedEndsEveryOperation : Obligations.ResetAssertedEndsEveryOperation := by
  intro s hp
  refine ⟨resetAssertedStep s, exec_of_running hp _, rfl, ?_, rfl, rfl, rfl, rfl, ?_, rfl, ?_, ?_, ?_,
    fun place saved hsaving => State.cutSave_of_saving hsaving, fun hnot => ?_⟩
  · simp [resetAssertedStep, State.dropWork]
  · simp [resetAssertedStep, State.dropWork]
  · simp [resetAssertedStep, State.dropWork]
  · simp [resetAssertedStep, State.dropWork]
  · simp [resetAssertedStep, State.dropWork]
  · simp [resetAssertedStep, State.dropWork, State.cutSave_of_not_saving hnot]

/-! ### RESTARTED (R181, R190, R191) -/

/-- What the rise of RESTARTED leaves of flags, alert number and egress queue, after a reset has emptied
them. -/
theorem State.riseRestarted_spec {s : State} (hegress : s.uplink.egress = [])
    (hflags : s.ctl.flags = 0) (hno : s.ctl.alertNo = 0) :
    s.riseRestarted.ctl.flags = 0x8000#16 ∧ s.riseRestarted.uplink.counters = s.uplink.counters
    ∧ (s.settings.enables.getLsbD 15 = false →
      s.riseRestarted.uplink.egress = [] ∧ s.riseRestarted.ctl.alertNo = 0)
    ∧ (s.settings.enables.getLsbD 15 = true → s.riseRestarted.ctl.alertNo = 1
      ∧ s.riseRestarted.uplink.egress.map OutboundMessage.body =
        [be 1 s.settings.addressing.unitId.toNat ++ be 2 1 ++ be 1 15 ++ be 1 0 ++ be 1 0
          ++ be 3 0 ++ be 1 s.ctl.cause.code ++ be 2 0 ++ be 2 0x8000 ++ be 4 s.clock.value
          ++ be 1 s.clock.state.code]) := by
  have hset : s.ctl.flags ||| EventFlag.restarted.bit = 0x8000#16 := by
    rw [hflags]
    rfl
  have hroom : (s.flagged .restarted).uplink.egress.length < 8 := by
    show s.uplink.egress.length < 8
    simp [hegress]
  refine ⟨by rw [State.riseRestarted, State.rise_flags]; exact hset, ?_, fun hoff => ?_,
    fun hon => ?_⟩
  · cases hon : s.settings.enables.getLsbD 15 with
    | false => rw [State.riseRestarted, State.rise_of_disabled hon]; rfl
    | true => rw [State.riseRestarted, State.rise_of_enabled hon, State.alert_of_room hroom]; rfl
  · rw [State.riseRestarted, State.rise_of_disabled hoff]
    exact ⟨hegress, hno⟩
  · rw [State.riseRestarted, State.rise_of_enabled hon, State.alert_of_room hroom]
    refine ⟨?_, ?_⟩
    · show (s.ctl.alertNo + 1) % 65536 = 1
      rw [hno]
    · have hbits : (0x8000#16).toNat = 0x8000 := rfl
      simp only [State.place, State.flagged, State.numbered, State.alertBody, hegress, hno, hset, hbits,
        EventFlag.number, List.nil_append, List.map_singleton]

end Sys2Proof.Machine
end

section
/-! What the cold and the warm reset set (O7, O10). -/

namespace Sys2Proof.Machine

/-! ### The cold reset (R139, R149, R190) -/

theorem State.nextVisit_isSome_iff (s : State) :
    s.nextVisit.isSome = true ↔ ∃ pos : Fin 16, s.scan.nextPos ≤ pos.val ∧ s.visitable pos = true := by
  simp [State.nextVisit, List.find?_isSome]

/-- A record set up anew is visited where its position is not VACANT (R139, R145). -/
theorem State.visitable_of_anew {s : State} {pos : Fin 16}
    (h : s.validator pos = Validator.anew s.settings.roster[pos]) :
    s.visitable pos = s.settings.roster[pos].isSome := by
  rw [State.visitable, h]
  cases s.settings.roster[pos] <;> rfl

theorem Scanner.afterReset_validator (s : State) (roster : Vector (Option (Fin 8)) 16)
    (h : s.scan.records = anewRecords roster) (pos : Fin 16) :
    s.validator pos = Validator.anew roster[pos] := by
  rw [State.validator, h, anewRecords, eachOf_get]

/-- A SAVE in flight in a part that runs is cut by the reset (R189). -/
def State.beforeCold (s : State) : State := if s.power = .running then s.cutSave else s

@[simp] theorem State.beforeCold_pending (s : State) : s.beforeCold.pending = s.pending := by
  unfold State.beforeCold
  split <;> simp

theorem coldResetStep_eq (straps : Byte) (s : State) :
    coldResetStep straps s = ((s.beforeCold.coldValues straps).riseRestarted).beginRound 0 := rfl

/-- Where round 0 stands after a cold reset (R145, R147, R149). -/
theorem State.beginRound_phase_anew {s : State}
    (h : ∀ pos, s.validator pos = Validator.anew s.settings.roster[pos]) :
    (s.beginRound 0).scan.phase = if ∃ pos : Fin 16, s.settings.roster[pos] ≠ none then .visiting
      else .paused (250 * 2 ^ s.settings.quiet.val) := by
  obtain ⟨-, hpos, -, -, hphase⟩ := s.beginRound_spec 0
  have hrecords : ∀ pos, (s.beginRound 0).validator pos
      = Validator.anew (s.beginRound 0).settings.roster[pos] := by
    intro pos
    rw [State.validator_of_records (s := s) (by simp), h pos]
    simp
  have hany : (s.beginRound 0).nextVisit.isSome = true
      ↔ ∃ pos : Fin 16, s.settings.roster[pos] ≠ none := by
    rw [State.nextVisit_isSome_iff]
    refine exists_congr fun pos => ?_
    rw [hpos, State.visitable_of_anew (hrecords pos)]
    simp [Option.isSome_iff_ne_none]
  rw [hphase]
  simp only [hany, quietMs]

/-- Settles O7: the cold values (`coldValues`), the rise of RESTARTED, and round 0 begun. -/
theorem coldResetValues : Obligations.ColdResetValues := by
  intro straps s
  refine ⟨coldResetStep straps s, rfl, ?_⟩
  rw [coldResetStep_eq]
  obtain ⟨v, hv⟩ : ∃ v, v = s.beforeCold.coldValues straps := ⟨_, rfl⟩
  rw [← hv]
  have hscan : v.scan = Scanner.afterReset v.settings.roster := by rw [hv]; rfl
  have hrecords : ∀ pos, v.riseRestarted.validator pos
      = Validator.anew v.riseRestarted.settings.roster[pos] := by
    intro pos
    rw [Scanner.afterReset_validator _ v.settings.roster (by simp [hscan, Scanner.afterReset])]
    simp
  obtain ⟨hround, hpos, hexchanged, hreported, -⟩ := v.riseRestarted.beginRound_spec 0
  obtain ⟨hflags, hcounters, hoff, hon⟩ := v.riseRestarted_spec (by rw [hv]; rfl) (by rw [hv]; rfl)
    (by rw [hv]; rfl)
  have hphase := State.beginRound_phase_anew hrecords
  have hkept : s.power = .heldInReset → s.beforeCold = s := fun hheld =>
    if_neg (by simp [hheld])
  have hvalidators : ∀ pos, (v.riseRestarted.beginRound 0).validator pos
      = Validator.anew v.settings.roster[pos] := by
    intro pos
    rw [State.validator_of_records (s := v.riseRestarted) (by simp), hrecords]
    simp
  simp only [State.riseRestarted_frame] at hphase
  simp only [State.beginRound_frame, State.beginRound_lists, State.beginRound_reading,
    State.riseRestarted_frame, State.riseRestarted_parts, hround, hpos, hexchanged, hreported, hflags,
    hcounters, hphase, hvalidators, State.lane_of_lanes (s := v) (t := v.riseRestarted.beginRound 0)
      (by simp)]
  rw [hscan]
  refine ⟨by rw [hv]; simp [State.coldValues], by rw [hv]; rfl, by rw [hv]; rfl, by rw [hv]; rfl,
    by rw [hv]; rfl, fun hheld => ?_, fun l => ?_, by rw [hv]; rfl, by rw [hv]; rfl, by rw [hv]; rfl,
    by rw [hv]; rfl, by rw [hv]; rfl, by rw [hv]; rfl, by rw [hv]; rfl, by rw [hv]; rfl,
    fun pos => trivial, rfl, trivial, rfl, rfl, rfl, rfl, trivial, trivial, trivial, trivial,
    by rw [hv]; rfl, by rw [hv]; rfl, by rw [hv]; rfl, by rw [hv]; rfl, by rw [hv]; rfl, trivial,
    by rw [hv]; rfl, by rw [hv]; rfl, by rw [hv]; rfl, by rw [hv]; rfl, hoff, fun h => ?_⟩
  · rw [hv, hkept hheld]
    exact ⟨rfl, rfl⟩
  · rw [hv]
    cases l <;> rfl
  · obtain ⟨hno, hbody⟩ := hon h
    refine ⟨hno, hbody.trans ?_⟩
    rw [hv]
    rfl

end Sys2Proof.Machine
end

section
/-! The warm reset (O10). -/

namespace Sys2Proof.Machine

/-! ### The lanes and the sweeper (R19, R89) -/

theorem LaneRec.warm_of_idle {r : LaneRec} (h : r.state = .idle) :
    r.warm = { r with
      repeats := 0, duplicates := 0, absentDrops := 0, discards := 0, undoDeferred := false,
      pendingCommand := none } := if_pos h

theorem LaneRec.warm_of_not_idle {r : LaneRec} (h : r.state ≠ .idle) :
    r.warm = { r with
      repeats := 0, duplicates := 0, absentDrops := 0, discards := 0, undoDeferred := false,
      pendingCommand := none, state := .discarding, lastReason := .aborted } := if_neg h

theorem LaneRec.warmUndo_of_idle {r : LaneRec} (h : r.state = .idle) (l : Lane) :
    r.warmUndo l = [] := if_pos h

theorem LaneRec.warmUndo_of_not_idle {r : LaneRec} (h : r.state ≠ .idle) (l : Lane) :
    r.warmUndo l = [{ lane := l, kind := .undo r.stagedGen, waiter := false }] := if_neg h

/-! ### The item in progress (R58, R63) -/

/-- The store as a warm reset leaves it: no segment, the arbiter as cold (R73). -/
def Store.atRest (t : Store) : Store := { t with engine := .empty, lastGranted := .control }

theorem State.finishItem_of_applied {s : State} {seg : Segment} {pos : Nat} {m : Memory}
    {c : DigestChange} (h : s.itemOutcome seg pos = some (.applied m c)) :
    s.finishItem seg pos = s.setRegion seg.lane m := by
  simp only [State.finishItem, h]

theorem State.finishItem_of_not {s : State} {seg : Segment} {pos : Nat}
    (h : ∀ m c, s.itemOutcome seg pos ≠ some (.applied m c)) : s.finishItem seg pos = s := by
  unfold State.finishItem
  split
  · next m c he => exact absurd he (h m c)
  · rfl

theorem State.finishGranted_of_finishing {s : State} {seg : Segment} {pos : Nat}
    (h : s.store.engine = .finishing seg pos) : s.finishGranted = s.finishItem seg pos := by
  have hsame : s.abandonSegment seg.lane = s := by simp [State.abandonSegment, h]
  simp only [State.finishGranted, h, Engine.lane, hsame]

theorem State.finishGranted_of_granted {s : State} {seg : Segment} {pos : Nat} {retry : Bool}
    (h : s.store.engine = .applying seg pos retry) (hg : s.nextGrant = some .apply)
    (hfirst : Config.itemGrantedFirst s.choices = true) :
    s.finishGranted =
      ((({ s with choices := s.choices + 1 } : State).granted .apply).setEngine
        (.finishing seg pos)).finishItem seg pos := by
  simp [State.finishGranted, h, Engine.lane, State.abandonSegment, State.giveUpItem, hg, hfirst]

theorem State.finishGranted_of_withdrawn {s : State} {seg : Segment} {pos : Nat} {retry : Bool}
    (h : s.store.engine = .applying seg pos retry)
    (hno : s.nextGrant ≠ some .apply ∨ Config.itemGrantedFirst s.choices = false) :
    s.finishGranted.store.atRest = s.store.atRest := by
  by_cases hg : s.nextGrant = some .apply
  · have hfirst := hno.resolve_left (not_not_intro hg)
    simp [State.finishGranted, h, Engine.lane, State.abandonSegment, State.giveUpItem, hg, hfirst,
      Store.atRest]
  · simp [State.finishGranted, h, Engine.lane, State.abandonSegment, State.giveUpItem, hg,
      Store.atRest]

theorem State.finishGranted_of_none {s : State}
    (h : s.store.engine = .empty ∨ ∃ seg pos, s.store.engine = .waiting seg pos) :
    s.finishGranted.store.atRest = s.store.atRest := by
  obtain h | ⟨seg, pos, h⟩ := h
  · simp [State.finishGranted, h, Engine.lane]
  · simp [State.finishGranted, h, Engine.lane, State.abandonSegment, Store.atRest]

/-- The change of the region by an item finished; an item without one changes nothing. -/
theorem State.finishItem_atRest (s : State) (seg : Segment) (pos : Nat) :
    (∀ m c, s.itemOutcome seg pos = some (.applied m c) →
      (s.finishItem seg pos).store.atRest = { s.store.atRest with
        regions := s.store.regions.set seg.lane m,
        free := s.store.free.set seg.lane
          (s.store.free.get seg.lane + (s.region seg.lane).length - m.length) })
    ∧ ((∀ m c, s.itemOutcome seg pos ≠ some (.applied m c)) →
      (s.finishItem seg pos).store.atRest = s.store.atRest) := by
  refine ⟨fun m c h => ?_, fun h => ?_⟩
  · rw [State.finishItem_of_applied h]
    rfl
  · rw [State.finishItem_of_not h]

/-! ### The whole reset (R191) -/

@[simp] theorem State.warmReset_blocks (s : State) :
    s.warmReset.settings = s.settings ∧ s.warmReset.settingsMemory = s.settingsMemory
    ∧ s.warmReset.lanes = { b := s.lanes.b.warm, p := s.lanes.p.warm }
    ∧ s.warmReset.store = s.finishGranted.store.atRest
    ∧ s.warmReset.sweeper = s.warmSweeper
    ∧ s.warmReset.clock = { s.clock with rejected := 0 }
    ∧ s.warmReset.bus = { Bus.cold with link := .postReset, line := s.bus.line }
    ∧ s.warmReset.scan = Scanner.afterReset s.settings.roster := by
  simp [State.warmReset, State.warmValues, Store.atRest, State.warmSweeper]

@[simp] theorem State.warmReset_uplink (s : State) :
    s.warmReset.uplink.ingress = [] ∧ s.warmReset.uplink.control = []
    ∧ s.warmReset.uplink.lastFrame = s.uplink.lastFrame
    ∧ s.warmReset.ctl.command = .available ∧ s.warmReset.ctl.cause = .warm
    ∧ s.warmReset.ctl.reportTimer = 0 ∧ s.warmReset.ctl.inspectLane = .b
    ∧ s.warmReset.ctl.inspectSlot = 0 := by
  simp [State.warmReset, State.warmValues, Uplink.cold, Control.afterReset]

theorem State.lane_warmReset (s : State) (l : Lane) : s.warmReset.lane l = (s.lane l).warm := by
  cases l <;> simp [State.lane, PerLane.get]

theorem State.warmSweeper_eq (s : State) :
    s.warmSweeper = Sweeper.start
      { requests := (s.lane .b).warmUndo .b ++ (s.lane .p).warmUndo .p, sweep := none } := rfl

theorem State.warmSweeper_of_idle {s : State} (hb : (s.lane .b).state = .idle)
    (hp : (s.lane .p).state = .idle) : s.warmSweeper = { requests := [], sweep := none } := by
  rw [State.warmSweeper_eq, LaneRec.warmUndo_of_idle hb, LaneRec.warmUndo_of_idle hp]
  rfl

theorem State.warmSweeper_of_one {s : State} {l : Lane} (h : (s.lane l).state ≠ .idle)
    (ho : (s.lane l.other).state = .idle) :
    s.warmSweeper =
      { requests := [],
        sweep := some
          { request := { lane := l, kind := .undo (s.lane l).stagedGen, waiter := false },
            cursor := 0 } } := by
  cases l with
  | b =>
    rw [Lane.other] at ho
    rw [State.warmSweeper_eq, LaneRec.warmUndo_of_not_idle h, LaneRec.warmUndo_of_idle ho]
    rfl
  | p =>
    rw [Lane.other] at ho
    rw [State.warmSweeper_eq, LaneRec.warmUndo_of_idle ho, LaneRec.warmUndo_of_not_idle h]
    rfl

theorem State.warmSweeper_of_both {s : State} (hb : (s.lane .b).state ≠ .idle)
    (hp : (s.lane .p).state ≠ .idle) :
    s.warmSweeper =
      { requests := [{ lane := .p, kind := .undo (s.lane .p).stagedGen, waiter := false }],
        sweep := some
          { request := { lane := .b, kind := .undo (s.lane .b).stagedGen, waiter := false },
            cursor := 0 } } := by
  rw [State.warmSweeper_eq, LaneRec.warmUndo_of_not_idle hb, LaneRec.warmUndo_of_not_idle hp]
  rfl

/-- Settles O10: each block as `warmValues` sets it, and the rise of RESTARTED. -/
theorem warmResetValues : Obligations.WarmResetValues := by
  intro s m rest hp he hrestart
  refine ⟨(s.sentHead m rest).warmReset, ?_, ?_⟩
  · rw [exec_egressFrameSent hp he, hrestart, if_pos rfl]
  obtain ⟨hflags, hcounters, hoff, hon⟩ :=
    (s.sentHead m rest).finishGranted.warmValues.riseRestarted_spec rfl rfl rfl
  obtain ⟨hsettings, hmemory, -, hstore, hsweeper, hclock, hbus, hscan⟩ :=
    (s.sentHead m rest).warmReset_blocks
  obtain ⟨hingress, hcontrol, hframe, hcommand, hcause, htimer, hlane, hslot⟩ :=
    (s.sentHead m rest).warmReset_uplink
  have hset : (s.sentHead m rest).finishGranted.warmValues.settings = s.settings := by
    simp [State.warmValues, State.sentHead]
  have htime : (s.sentHead m rest).finishGranted.warmValues.clock = { s.clock with rejected := 0 } := by
    simp [State.warmValues, State.sentHead]
  rw [hset, htime] at hon
  rw [hset] at hoff
  rw [hbus, hstore, hsweeper, hscan]
  refine ⟨hsettings, hmemory, hframe, hingress, hcontrol, hcounters, fun l hidle => ?_,
    fun l hidle => ?_, ⟨fun seg pos h => ?_, fun seg pos retry h => ⟨fun hg hfirst => ?_, fun hno => ?_⟩,
      fun h => ?_⟩, State.warmSweeper_of_idle (s := s.sentHead m rest),
    fun l => State.warmSweeper_of_one (s := s.sentHead m rest),
    State.warmSweeper_of_both (s := s.sentHead m rest), hclock, rfl, rfl, rfl, rfl, fun pos => ?_,
    rfl, rfl, rfl, rfl, rfl, rfl, rfl, hcommand, hflags, hcause, htimer, hlane, hslot, hoff,
    fun h => ?_⟩
  · rw [State.lane_warmReset]
    exact LaneRec.warm_of_idle hidle
  · rw [State.lane_warmReset]
    exact LaneRec.warm_of_not_idle hidle
  · rw [State.finishGranted_of_finishing (s := s.sentHead m rest) h]
    exact State.finishItem_atRest (s.sentHead m rest) seg pos
  · rw [State.finishGranted_of_granted (s := s.sentHead m rest) h hg hfirst]
    exact State.finishItem_atRest (((({ s.sentHead m rest with choices := s.choices + 1 } : State).granted
      .apply).setEngine (.finishing seg pos))) seg pos
  · exact State.finishGranted_of_withdrawn (s := s.sentHead m rest) h hno
  · exact State.finishGranted_of_none (s := s.sentHead m rest) h
  · exact Scanner.afterReset_validator _ _ (by rw [hscan]; rfl) pos
  · obtain ⟨hno, hbody⟩ := hon h
    refine ⟨hno, hbody.trans ?_⟩
    rw [ClockState.code_eq]
    rfl

end Sys2Proof.Machine
end

section
/-! The waiting SEGMENT's test (O20) and the outcomes of an item (O21, O22, O23). -/

namespace Sys2Proof.Machine

/-! ### SEGMENT_MATCH (R13) -/

section
variable {r : LaneRec} {seg : Segment}

theorem LaneRec.matchSegment_of_not_staging (h : r.state ≠ .staging) :
    r.matchSegment seg = .passedOver := by
  unfold LaneRec.matchSegment
  split
  · next hs _ => exact absurd hs h
  · rfl

variable {n : StagedNotice} (hs : r.state = .staging) (hn : r.staged = some n)
include hs hn

theorem LaneRec.matchSegment_of_staging : r.matchSegment seg =
    if seg.g ≠ n.g ∨ seg.b ≠ n.b then .passedOver
    else if n.n ≤ seg.index then .malformed
    else if r.segmentMap.contains seg.index then .repeated
    else .taken := by
  simp only [LaneRec.matchSegment, hs, hn]

theorem LaneRec.matchSegment_of_other (h : seg.g ≠ n.g ∨ seg.b ≠ n.b) :
    r.matchSegment seg = .passedOver := by
  rw [LaneRec.matchSegment_of_staging hs hn, if_pos h]

variable (hg : seg.g = n.g) (hb : seg.b = n.b)
include hg hb

theorem LaneRec.matchSegment_of_beyond (h : n.n ≤ seg.index) :
    r.matchSegment seg = .malformed := by
  rw [LaneRec.matchSegment_of_staging hs hn, if_neg (by simp [hg, hb]), if_pos h]

theorem LaneRec.matchSegment_of_repeated (h : seg.index < n.n) (hi : seg.index ∈ r.segmentMap) :
    r.matchSegment seg = .repeated := by
  rw [LaneRec.matchSegment_of_staging hs hn, if_neg (by simp [hg, hb]), if_neg (Nat.not_le.mpr h),
    if_pos (List.contains_iff_mem.mpr hi)]

theorem LaneRec.matchSegment_of_new (h : seg.index < n.n) (hi : seg.index ∉ r.segmentMap) :
    r.matchSegment seg = .taken := by
  rw [LaneRec.matchSegment_of_staging hs hn, if_neg (by simp [hg, hb]), if_neg (Nat.not_le.mpr h),
    if_neg (by simpa using hi)]

end

/-- What each outcome of the test makes of the state (R13). -/
def State.takeMatch (s : State) (seg : Segment) : MatchOutcome → State
  | .passedOver => s.popIngress.countUplink .passed
  | .malformed => s.popIngress.countUplink .bad
  | .repeated => (s.popIngress.countUplink .passed).setLane seg.lane
      { s.lane seg.lane with repeats := bump (s.lane seg.lane).repeats }
  | .taken => s.popIngress.setEngine (.applying seg 0 false)

theorem exec_segmentMatch {s : State} {seg : Segment} (hp : s.power = .running)
    (hhead : s.uplink.checkedHead = some seg) (hempty : s.store.engine = .empty)
    (hlane : s.settings.laneOfStream seg.stream = some seg.lane) :
    exec .segmentMatch s = .next (s.takeMatch seg ((s.lane seg.lane).matchSegment seg)) := by
  rw [exec_of_running hp]
  simp only [actOf, segmentMatchStep, hhead, hempty, State.matchHead, hlane, ne_eq,
    not_true_eq_false, if_false]
  cases (s.lane seg.lane).matchSegment seg <;> rfl

/-- Settles O20: the table of `matchSegment`, outcome by outcome. -/
theorem segmentMatchTable : Obligations.SegmentMatchTable := by
  intro s seg hp hhead hempty hlane
  rw [exec_segmentMatch hp hhead hempty hlane]
  refine ⟨fun hs => ?_, fun n hs hn => ⟨fun hother => ?_, fun hg hb hbeyond => ?_,
    fun hg hb hin hi => ?_, fun hg hb hin hi => ?_⟩⟩
  · rw [LaneRec.matchSegment_of_not_staging hs]
    rfl
  · rw [LaneRec.matchSegment_of_other hs hn hother]
    rfl
  · rw [LaneRec.matchSegment_of_beyond hs hn hg hb hbeyond]
    rfl
  · rw [LaneRec.matchSegment_of_repeated hs hn hg hb hin hi]
    rfl
  · rw [LaneRec.matchSegment_of_new hs hn hg hb hin hi]
    rfl

/-! ### Blocklist items (R64 to R68) -/

theorem State.itemOutcome_block {s : State} {seg : Segment} {items : List BlockItem} {n : StagedNotice}
    (h : seg.items = .block items) (hn : (s.lane seg.lane).staged = some n) (pos : Nat) :
    s.itemOutcome seg pos = items[pos]?.map (applyBlockItem n.g (decide (seg.b = 0))
      (s.store.free.get seg.lane) (s.region seg.lane)) := by
  simp only [State.itemOutcome, h, LaneRec.stagedGen_of hn]

theorem State.itemOutcome_product {s : State} {seg : Segment} {records : List ProductRecord}
    {n : StagedNotice} (h : seg.items = .product records) (hn : (s.lane seg.lane).staged = some n)
    (pos : Nat) : s.itemOutcome seg pos =
      records[pos]?.map (applyRecord n.g (s.store.free.get seg.lane) (s.region seg.lane)) := by
  simp only [State.itemOutcome, h, LaneRec.stagedGen_of hn]

/-- An item whose content is refused (R64). -/
theorem applyBlockItem_contentError {g free : Nat} {image : Bool} {m : Memory} {i : BlockItem}
    (h : i.token = 0 ∨ 7 < i.priority ∨ (i.op = .drop ∧ image = true)) :
    applyBlockItem g image free m i = .contentError := by
  unfold applyBlockItem
  split
  · rfl
  · next ht =>
    split
    · next hp =>
      obtain hzero | hbig | ⟨hop, himage⟩ := h
      · exact absurd hzero ht
      · omega
      · simp [hop, himage]
    · rfl

/-- An item with good content is an ADD, or a DROP of a delta (R65, R67). -/
theorem applyBlockItem_add {g free : Nat} {image : Bool} {m : Memory} {i : BlockItem}
    (ht : i.token ≠ 0) (hp : i.priority < 8) (hop : i.op = .add) :
    applyBlockItem g image free m i = addItem g free m i.token ⟨i.priority, hp⟩ := by
  simp only [applyBlockItem, ht, hp, hop, if_false, dif_pos]

theorem applyBlockItem_drop {g free : Nat} {m : Memory} {i : BlockItem}
    (ht : i.token ≠ 0) (hp : i.priority < 8) (hop : i.op = .drop) :
    applyBlockItem g false free m i = dropItem g m i.token := by
  simp [applyBlockItem, ht, hp, hop]

/-- Settles O21: the content tests, then `addItem` and `dropItem` by what `findToken` finds. -/
theorem blocklistItemOutcomes : Obligations.BlocklistItemOutcomes := by
  refine ⟨fun s seg items pos n hitems hn => ⟨fun i hi => ?_, fun hpos => ?_⟩,
    fun g free image m i => ⟨applyBlockItem_contentError, fun ht hp => ⟨fun hop hnone => ?_,
      fun a e hop hfound => ⟨fun hsame => ?_, fun hother hnew => ?_, fun hother hold => ?_⟩,
      fun hop himage hnone => ?_, fun a e hop himage hfound => ⟨fun hnew => ?_, fun hold => ?_⟩⟩,
      fun hm => ⟨fun a e => Memory.findToken_some hm, fun hnone a e => Memory.findToken_none hm hnone,
        (Memory.lowestFree_spec hm 0).1, fun a => (Memory.lowestFree_spec hm 0).2 a (Nat.zero_le a)⟩⟩⟩
  · rw [State.itemOutcome_block hitems hn, hi, Option.map_some]
  · rw [State.itemOutcome_block hitems hn, List.getElem?_eq_none hpos, Option.map_none]
  · rw [applyBlockItem_add ht hp hop, addItem, hnone]
    rfl
  · rw [applyBlockItem_add ht hp hop, addItem, hfound]
    exact if_pos hsame
  · rw [applyBlockItem_add ht hp hop, addItem, hfound]
    exact (if_neg hother).trans (if_pos hnew)
  · rw [applyBlockItem_add ht hp hop, addItem, hfound]
    exact (if_neg hother).trans (if_neg hold)
  · subst himage
    rw [applyBlockItem_drop ht hp hop, dropItem, hnone]
  · subst himage
    rw [applyBlockItem_drop ht hp hop, dropItem, hfound]
    exact if_pos hnew
  · subst himage
    rw [applyBlockItem_drop ht hp hop, dropItem, hfound]
    exact if_neg hold

/-! ### Product records (R69) -/

theorem ascending_iff : ∀ l : List Nat, ascending l = true ↔ l.Pairwise (· < ·)
  | [] => by simp [ascending]
  | [x] => by simp [ascending]
  | x :: y :: rest => by
    rw [ascending, Bool.and_eq_true, decide_eq_true_eq, ascending_iff (y :: rest),
      List.pairwise_cons (a := x)]
    refine and_congr_left fun hrest => ⟨fun hxy z hz => ?_, fun h => h y List.mem_cons_self⟩
    obtain rfl | hz := List.mem_cons.mp hz
    · exact hxy
    · exact Nat.lt_trans hxy (List.rel_of_pairwise_cons hrest hz)

theorem recordContentGood_iff (r : ProductRecord) :
    recordContentGood r = true ↔
      r.code ≠ 0 ∧ r.zones.Pairwise (· < ·) ∧ ∀ d, r.lastDay = some d → r.firstDay ≤ d := by
  have hdays : (match r.lastDay with
      | none => true
      | some d => decide (r.firstDay ≤ d)) = true ↔ ∀ d, r.lastDay = some d → r.firstDay ≤ d := by
    cases r.lastDay <;> simp
  rw [recordContentGood, Bool.and_eq_true, Bool.and_eq_true, decide_eq_true_eq, ascending_iff, and_assoc]
  exact and_congr_right fun _ => and_congr_right fun _ => hdays

/-- A record whose content is refused (R69). -/
theorem applyRecord_contentError {g free : Nat} {m : Memory} {r : ProductRecord}
    (h : r.code = 0 ∨ ¬ r.zones.Pairwise (· < ·) ∨ (∃ d, r.lastDay = some d ∧ d < r.firstDay)
      ∨ m.hasCode g r.code = true) : applyRecord g free m r = .contentError := by
  unfold applyRecord
  split
  · rfl
  · next hgood =>
    have hgood : recordContentGood r = true := by simpa using hgood
    obtain ⟨hcode, hzones, hdays⟩ := (recordContentGood_iff r).mp hgood
    split
    · rfl
    · next hnew =>
      obtain hzero | hfalls | ⟨d, hd, hearly⟩ | hrepeat := h
      · exact absurd hzero hcode
      · exact absurd hzones hfalls
      · exact absurd (hdays d hd) (Nat.not_le.mpr hearly)
      · exact absurd hrepeat hnew

theorem applyRecord_of_good {g free : Nat} {m : Memory} {r : ProductRecord}
    (hgood : recordContentGood r = true) (hnew : m.hasCode g r.code = false) :
    applyRecord g free m r =
      if free < r.slots then .noSlot else .applied (m.addRecord g r) (.recordIn (productWeight r)) := by
  simp [applyRecord, hgood, hnew]

/-- A short record is one head (R52). -/
theorem Memory.addRecord_short {m : Memory} {g : Nat} {r : ProductRecord} (h : r.zones.length ≤ 4) :
    m.addRecord g r = m.write (m.lowestFree 0) (.head (headOf r g none)) := if_pos h

/-- A long record is a head and a tail (R52). -/
theorem Memory.addRecord_long {m : Memory} {g : Nat} {r : ProductRecord} (h : 4 < r.zones.length) :
    m.addRecord g r =
      (m.write (m.lowestFree 0)
          (.head (headOf r g (some (m.lowestFree (m.lowestFree 0 + 1)))))).write
        (m.lowestFree (m.lowestFree 0 + 1))
        (.tail { zones := r.zones.drop 4, head := m.lowestFree 0 }) :=
  if_neg (Nat.not_le.mpr h)

theorem Memory.recordAt_of_single {h : ProductHead} (m : Memory) (ht : h.tail = none) :
    m.recordAt h =
      { code := h.code, fare := h.fare, concession := h.concession, firstDay := h.firstDay,
        lastDay := h.lastDay, transfer := h.transfer, zones := h.zones } := by
  simp [Memory.recordAt, ht]

theorem Memory.recordAt_of_pair {m : Memory} {h : ProductHead} {t : Nat} {x : ProductTail}
    (ht : h.tail = some t) (hx : m.read t = some (.tail x)) :
    m.recordAt h =
      { code := h.code, fare := h.fare, concession := h.concession, firstDay := h.firstDay,
        lastDay := h.lastDay, transfer := h.transfer, zones := h.zones ++ x.zones } := by
  simp [Memory.recordAt, ht, hx]

/-- Settles O22: the content tests, then the slots, then the head and tail that `addRecord` writes. -/
theorem productRecordOutcomes : Obligations.ProductRecordOutcomes := by
  refine ⟨fun s seg records pos n hitems hn => ⟨fun r hr => ?_, fun hpos => ?_⟩,
    fun g code m hm => ⟨Memory.hasCode_iff hm g code, fun n => ⟨m.le_lowestFree n,
      (Memory.lowestFree_spec hm n).1, (Memory.lowestFree_spec hm n).2⟩⟩,
    fun m h => ⟨m.recordAt_of_single, fun t x => Memory.recordAt_of_pair⟩,
    fun g free m r => ⟨applyRecord_contentError, fun hcode hzones hdays hnew =>
      ⟨fun hshort => ?_, fun hroom hm => ?_⟩⟩⟩
  · rw [State.itemOutcome_product hitems hn, hr, Option.map_some]
  · rw [State.itemOutcome_product hitems hn, List.getElem?_eq_none hpos, Option.map_none]
  · rw [applyRecord_of_good ((recordContentGood_iff r).mpr ⟨hcode, hzones, hdays⟩) hnew]
    exact if_pos hshort
  · rw [applyRecord_of_good ((recordContentGood_iff r).mpr ⟨hcode, hzones, hdays⟩) hnew,
      if_neg (show ¬ free < r.slots from Nat.not_lt.mpr hroom)]
    have hhead := (Memory.lowestFree_spec hm 0).1
    by_cases h4 : r.zones.length ≤ 4
    · rw [Memory.addRecord_short h4]
      refine ⟨_, headOf r g none, rfl, Memory.read_write_same .., ?_, rfl, rfl,
        fun _ => ⟨rfl, Memory.length_write_free hhead _, fun b hb => Memory.read_write_ne _ _ _ _ hb⟩,
        fun hlong => absurd h4 (Nat.not_le.mpr hlong)⟩
      rw [Memory.recordAt_of_single _ rfl]
      simp [headOf, List.take_of_length_le h4]
    · have hlong : 4 < r.zones.length := Nat.not_le.mp h4
      rw [Memory.addRecord_long hlong]
      have habove := m.le_lowestFree (m.lowestFree 0 + 1)
      have htail := (Memory.lowestFree_spec hm (m.lowestFree 0 + 1)).1
      have hne : m.lowestFree (m.lowestFree 0 + 1) ≠ m.lowestFree 0 := by omega
      refine ⟨_, headOf r g (some (m.lowestFree (m.lowestFree 0 + 1))), rfl, ?_, ?_, rfl, rfl,
        fun hshort => absurd hshort h4,
        fun _ => ⟨rfl, Memory.read_write_same .., ?_, fun b hb ht => ?_⟩⟩
      · rw [Memory.read_write_ne _ _ _ _ hne.symm, Memory.read_write_same]
      · rw [Memory.recordAt_of_pair rfl (Memory.read_write_same ..)]
        simp [headOf]
      · rw [Memory.length_write_free (by rw [Memory.read_write_ne _ _ _ _ hne]; exact htail),
          Memory.length_write_free hhead]
      · rw [Memory.read_write_ne _ _ _ _ ht, Memory.read_write_ne _ _ _ _ hb]

/-! ### The next item (R62) -/

theorem State.nextItem_of_more {s : State} {seg : Segment} {pos : Nat} (h : pos + 1 < seg.size) :
    s.nextItem seg pos = s.setEngine (.applying seg (pos + 1) false) := if_pos h

theorem State.nextItem_of_last {s : State} {seg : Segment} {pos : Nat} (h : pos + 1 = seg.size) :
    s.nextItem seg pos = s.completeSegment seg.lane seg.index :=
  if_neg (by omega)

theorem LaneRec.removingSweep_eq (r : LaneRec) :
    r.removingSweep = if r.pendingCommand = none ∨ r.pendingCommand = some .rollback
      then .undo r.stagedGen else .clear := by
  unfold LaneRec.removingSweep LaneRec.clearPending
  obtain h | h | h | ⟨stream, h⟩ : r.pendingCommand = none ∨ r.pendingCommand = some .rollback
      ∨ r.pendingCommand = some .clear ∨ ∃ stream, r.pendingCommand = some (.subscribe stream) := by
    cases r.pendingCommand with
    | none => simp
    | some c => cases c <;> simp
  all_goals simp [h]

/-- Settles O23: the item's change of the record and region, then the next item; and the end of an
item granted before its lane left STAGING. -/
theorem appliedItemGoesOn : Obligations.AppliedItemGoesOn := by
  refine ⟨fun s seg pos retry happlies hmore => ⟨fun m change ho => ?_, fun ho => ?_, fun ho => ?_⟩,
    fun s seg pos hp he => ⟨fun m change ho => ?_, fun ho => ?_⟩⟩
  · rw [exec_applyItem happlies ho, State.takeOutcome]
    exact congrArg _ (State.nextItem_of_more hmore)
  · rw [exec_applyItem happlies ho, State.takeOutcome]
    exact congrArg _ (State.nextItem_of_more hmore)
  · rw [exec_applyItem happlies ho, State.takeOutcome]
    exact congrArg _ (State.nextItem_of_more hmore)
  · rw [exec_applyItem_finishing hp he, State.finishItem_of_applied ho, State.segmentAbandoned,
      LaneRec.removingSweep_eq]
    rfl
  · rw [exec_applyItem_finishing hp he, State.finishItem_of_not ho, State.segmentAbandoned,
      LaneRec.removingSweep_eq]
    rfl

end Sys2Proof.Machine
end

section
/-! The last item of a segment (O24) and the items that are not applied (O25). -/

namespace Sys2Proof.Machine

/-! ### States that agree beyond the store and the lanes -/

/-- Two states differ in the entry store, the sweeper and the lane records at most. -/
structure State.Elsewhere (s u : State) : Prop where
  settings : u.settings = s.settings
  clock : u.clock = s.clock
  ctl : u.ctl = s.ctl
  uplink : u.uplink = s.uplink
  bus : u.bus = s.bus
  scan : u.scan = s.scan

namespace State.Elsewhere

theorem sameOutbound {s u : State} (h : s.Elsewhere u) : s.sameOutbound u := by
  simp [State.sameOutbound, h.ctl, h.uplink]

theorem requestSweep {s u : State} (hs : u.sweeper = s.sweeper) (l : Lane) (k : SweepKind)
    (waiter : Bool) : (u.requestSweep l k waiter).sweeper = (s.requestSweep l k waiter).sweeper := by
  simp only [State.requestSweep, hs]

/-- The rises from a state that agrees with the one before. -/
theorem raises {s u t : State} (h : s.Elsewhere u) {rises : List (EventFlag × AlertContext)}
    (hu : u.raises t rises) : s.raises t rises :=
  State.raises_congr hu h.sameOutbound h.settings ⟨rfl, rfl, rfl, rfl⟩ rfl

theorem hearsReport {s u t : State} (h : s.Elsewhere u) (hu : u.hearsReport t) : s.hearsReport t :=
  State.hearsReport_congr hu (by rw [h.scan]) (by rw [h.scan]) rfl rfl rfl

theorem reportsGone {s u t : State} (h : s.Elsewhere u) {l : Lane} {g : Nat}
    (hactive : (u.lane l).active = (s.lane l).active) (hu : u.reportsGone t l g) :
    s.reportsGone t l g :=
  State.reportsGone_congr hu h.scan.symm (by rw [h.bus]) hactive.symm rfl rfl ⟨rfl, rfl, rfl⟩

/-- The discard of a staging of which the engine has nothing (R33). -/
theorem discardUndo {s u : State} (h : s.Elsewhere u) {l : Lane} {n : StagedNotice}
    (reason : DiscardReason) (hstaging : (u.lane l).state = .staging)
    (hn : (u.lane l).staged = some n) (hactive : (u.lane l).active = (s.lane l).active)
    (hfree : u.store.engine = .empty) :
    (u.discardUndo l reason).lane l = { u.lane l with
      state := .discarding, lastReason := reason, discards := min ((u.lane l).discards + 1) 65535,
      floor := floorAfter reason (u.lane l).floor n.g }
    ∧ (u.discardUndo l reason).lane l.other = u.lane l.other
    ∧ (u.discardUndo l reason).store = u.store
    ∧ (u.discardUndo l reason).sweeper = (u.requestSweep l (.undo n.g) false).sweeper
    ∧ (u.discardUndo l reason).ctl.flags = s.ctl.flags ||| (EventFlag.discarded l).bit
    ∧ s.raises (u.discardUndo l reason)
      [(.discarded l, { lane := laneCode l, generation := n.g, detail := reason.code })]
    ∧ s.reportsGone (u.discardUndo l reason) l n.g ∧ s.hearsReport (u.discardUndo l reason)
    ∧ (u.discardUndo l reason).scan.broadcast = s.scan.broadcast
    ∧ (u.discardUndo l reason).clock = s.clock ∧ (u.discardUndo l reason).settings = s.settings := by
  have hgen : (u.lane l).stagedGen = n.g := LaneRec.stagedGen_of hn
  have hsame : u.abandonSegment l = u := State.abandonSegment_free (by simp [hfree, Engine.lane])
  obtain ⟨hlanes, hflags, hstore, hsweeper⟩ := u.discardUndo_spec l reason
  have hundo : u.discardUndo l reason = u.discard l reason (.undo n.g) := by
    rw [State.discardUndo, hgen]
  have hrises := u.discard_raises l reason (.undo n.g)
  obtain ⟨hgone, hbroadcast⟩ := u.discard_reports l reason (.undo n.g)
  have hhears := u.discard_hears l reason (.undo n.g)
  rw [hgen] at hrises hgone
  rw [← hundo] at hrises hgone hbroadcast hhears
  rw [hsame] at hstore hsweeper
  refine ⟨?_, ?_, hstore, ?_, ?_, h.raises hrises, h.reportsGone hactive hgone, h.hearsReport hhears,
    hbroadcast.trans (by rw [h.scan]), ?_, ?_⟩
  · rw [State.lane, hlanes, PerLane.get_set_same]
    simp [LaneRec.discarded, hstaging, hgen, bump]
  · rw [State.lane, hlanes, PerLane.get_set_other]
    rfl
  · rw [hsweeper, hgen, if_neg (by simp [hstaging, hfree, Engine.finishes])]
  · rw [hflags, h.ctl]
  · rw [← h.clock]
    simp [State.discardUndo]
  · rw [← h.settings]
    simp [State.discardUndo]

end State.Elsewhere

/-! ### Items that are not applied (R31, R70, R71) -/

theorem State.giveUpHistory_of_some {s : State} {seg : Segment} {bottom : HistoryRecord}
    {kept : List HistoryRecord} (h : (s.lane seg.lane).history = kept ++ [bottom]) (pos : Nat) :
    s.giveUpHistory seg pos =
      ((s.setLane seg.lane { s.lane seg.lane with history := kept }).rise (.pressure seg.lane)
        { lane := laneCode seg.lane, generation := bottom.generation }).waitForReclaim seg pos := by
  simp [State.giveUpHistory, h]

/-- Settles O25: a discard of the staging, or the wait for a RECLAIM. -/
theorem failedItemDiscardsOrWaits : Obligations.FailedItemDiscardsOrWaits := by
  intro s seg pos retry n happlies hstaging hn l gone
  have stopped (reason : DiscardReason) : gone reason reason.code
      (floorAfter reason (s.lane l).floor n.g)
      (((s.granted .apply).setEngine .empty).discardUndo l reason) := by
    have helse : s.Elsewhere ((s.granted .apply).setEngine .empty) :=
      ⟨rfl, rfl, rfl, rfl, rfl, rfl⟩
    obtain ⟨hlane, hother, hstore, hsweeper, hflags, hrises, hgone, hhears, -, hclock, hsettings⟩ :=
      helse.discardUndo (l := l) reason hstaging hn rfl rfl
    exact ⟨hlane, hstore, hsweeper, hflags, hrises, hother, hclock, hsettings, hgone, hhears⟩
  refine ⟨fun ho => ⟨_, exec_applyItem happlies ho, stopped .content⟩, fun ho hretry => ?_,
    fun ho hretry hnone => ?_, fun kept bottom ho hretry hhistory => ?_⟩
  · rw [exec_applyItem happlies ho, hretry]
    rfl
  · refine ⟨_, exec_applyItem happlies ho, ?_⟩
    have hgive : (s.granted .apply).takeOutcome seg pos retry .noSlot =
        ((s.granted .apply).setEngine .empty).discardUndo l .storeFull := by
      have hempty : ((s.granted .apply).lane seg.lane).history = [] := hnone
      simp only [State.takeOutcome, hretry, State.giveUpHistory, hempty, List.getLast?_nil, if_true]
      rfl
    rw [hgive]
    exact stopped .storeFull
  · refine ⟨_, exec_applyItem happlies ho, ?_⟩
    have hwait : (s.granted .apply).takeOutcome seg pos retry .noSlot =
        (((s.granted .apply).setLane l { s.lane l with history := kept }).rise (.pressure l)
          { lane := laneCode l, generation := bottom.generation }).waitForReclaim seg pos := by
      rw [State.takeOutcome, hretry, if_pos rfl,
        State.giveUpHistory_of_some (s := s.granted .apply) hhistory]
      rfl
    rw [hwait]
    refine ⟨?_, ?_, ?_, ?_, ?_, ?_, ?_, ?_, ?_, ?_⟩
    · rw [State.lane_of_lanes (s := s.setLane l { s.lane l with history := kept })
        (by simp [State.waitForReclaim, State.setLane])]
      simp
    · rw [State.lane_of_lanes (s := s.setLane l { s.lane l with history := kept })
        (by simp [State.waitForReclaim, State.setLane])]
      simp
    · simp [State.waitForReclaim, State.granted, State.setEngine]
    · exact State.Elsewhere.requestSweep (by simp) _ _ _
    · simp [State.waitForReclaim]
    · refine State.raises_one (u := (s.granted .apply).setLane l { s.lane l with history := kept })
        ⟨rfl, rfl, rfl, rfl⟩ rfl ?_ ?_
      · simp [State.waitForReclaim]
      · simp [State.sameOutbound, State.waitForReclaim]
    all_goals simp [State.waitForReclaim]

/-! ### The last item (R29, R30, R37) -/

/-- The engine empty, and the segment's index in the map (R29). -/
def State.joined (s : State) (l : Lane) (index : Nat) : State :=
  (s.setEngine .empty).setLane l
    { s.lane l with segmentMap := insertIndex (s.lane l).segmentMap index }

theorem State.lane_joined (s : State) (l : Lane) (index : Nat) :
    (s.joined l index).lane l =
      { s.lane l with segmentMap := insertIndex (s.lane l).segmentMap index } :=
  State.lane_setLane_same _ _ _

theorem State.lane_joined_other (s : State) (l : Lane) (index : Nat) :
    (s.joined l index).lane l.other = s.lane l.other :=
  State.lane_setLane_other _ _ _

theorem State.completeSegment_eq (s : State) (l : Lane) (index : Nat) :
    s.completeSegment l index =
      match (s.lane l).staged with
      | none => s.joined l index
      | some n =>
        if mapFull (insertIndex (s.lane l).segmentMap index) n.n then (s.joined l index).verify l
        else s.joined l index := rfl

theorem State.completeSegment_of_open {s : State} {l : Lane} {n : StagedNotice} {index : Nat}
    (hn : (s.lane l).staged = some n)
    (h : ¬ mapFull (insertIndex (s.lane l).segmentMap index) n.n = true) :
    s.completeSegment l index = s.joined l index := by
  rw [State.completeSegment_eq, hn]
  exact if_neg h

theorem State.completeSegment_of_full {s : State} {l : Lane} {n : StagedNotice} {index : Nat}
    (hn : (s.lane l).staged = some n)
    (h : mapFull (insertIndex (s.lane l).segmentMap index) n.n = true) :
    s.completeSegment l index = (s.joined l index).verify l := by
  rw [State.completeSegment_eq, hn]
  exact if_pos h

/-- The report of an activation, seen from before a report that left the records, the link, the BATCH being
built and the tallies. -/
theorem State.reportsMoved_after {s u t : State} {l : Lane} {a g : Nat}
    (hrecords : u.scan.records = s.scan.records) (hbus : u.bus = s.bus)
    (hbuild : u.scan.build = s.scan.build) (htally : u.scan.tally = s.scan.tally)
    (hphase : s.scan.phase = .visiting → u.scan.phase = .visiting) (hwalk : s.keepsWalk t)
    (h : u.reportsMoved t l a g) : s.reportsMoved t l a g := by
  have hvalidators (pos : Fin 16) : u.validator pos = s.validator pos :=
    State.validator_of_records hrecords pos
  obtain ⟨hchanges, hmarks, ⟨hnone, hsome⟩, -, hkept⟩ := h
  refine ⟨?_, ?_, ⟨fun hb => hnone (hbuild.trans hb), fun b hb => ?_⟩, hwalk, hkept.trans htally⟩
  · simpa only [State.changesLaneRecords, hvalidators] using hchanges
  · simpa only [State.marksExchange, hvalidators, hbus] using hmarks
  · obtain ⟨hended, hgoes⟩ := hsome b (hbuild.trans hb)
    simp only [hvalidators] at hended hgoes
    refine ⟨fun he => ?_, fun he => (hgoes he).trans hbuild⟩
    obtain ⟨hgone, hpos⟩ := hended he
    exact ⟨hgone, fun hv => hpos (hphase hv)⟩

/-- A walk live after the activation of a READY lane was live when the lane was READY (R153). -/
theorem State.live_before_activation {u t : State} {l : Lane} {n : StagedNotice}
    (hlanes : t.lanes = u.lanes.set l ((u.lane l).activated n u.clock.value))
    (hready : (u.lane l).state = .ready) (hn : (u.lane l).staged = some n) {g : Nat}
    (h : g = (t.lane .p).active ∨ ((t.lane .p).state = .ready ∧ g = (t.lane .p).stagedGen)) :
    g = (u.lane .p).active ∨ ((u.lane .p).state = .ready ∧ g = (u.lane .p).stagedGen) := by
  cases l with
  | b =>
    have hsame : t.lane .p = u.lane .p := by
      rw [State.lane, hlanes]
      exact PerLane.get_set_other u.lanes .b _
    rwa [hsame] at h
  | p =>
    have hactivated : t.lane .p = (u.lane .p).activated n u.clock.value := by
      rw [State.lane, hlanes, PerLane.get_set_same]
    rw [hactivated] at h
    obtain hactive | ⟨hidle, -⟩ := h
    · exact .inr ⟨hready, hactive.trans (LaneRec.stagedGen_of hn).symm⟩
    · exact absurd hidle (by simp [LaneRec.activated])

/-- What the last item leaves before the map is looked at: the record counted, the store changed. -/
structure State.Counted (s u : State) (l : Lane) (counted : LaneRec) (store : Store) : Prop
    extends s.Elsewhere u where
  lane : u.lane l = counted
  other : u.lane l.other = s.lane l.other
  store : u.store = { store with lastGranted := .apply, engine := u.store.engine }
  sweeper : u.sweeper = s.sweeper

namespace State.Counted

variable {s u : State} {l : Lane} {counted : LaneRec} {store : Store}

theorem joined (h : s.Counted u l counted store) (index : Nat) :
    s.Counted (u.joined l index) l
      { counted with segmentMap := insertIndex counted.segmentMap index } store where
  settings := h.settings
  clock := h.clock
  ctl := h.ctl
  uplink := h.uplink
  bus := h.bus
  scan := h.scan
  lane := by rw [State.lane_joined, h.lane]
  other := (State.lane_joined_other ..).trans h.other
  store := by
    show { u.store with engine := .empty } = _
    rw [h.store]
    rfl
  sweeper := h.sweeper

/-- The store once the engine is EMPTY. -/
theorem store_eq (h : s.Counted u l counted store) (he : u.store.engine = .empty) :
    u.store = { store with lastGranted := .apply, engine := .empty } := by
  have hstore := h.store
  rwa [he] at hstore

/-- A state in which the lane has become READY and the scanner has heard of it, seen from the state before
the item (R30). -/
structure Readied (s v : State) (l : Lane) (x : LaneRec) (store : Store) (n : StagedNotice) :
    Prop where
  lane : v.lane l = { x with state := .ready }
  other : v.lane l.other = s.lane l.other
  store : v.store = { store with lastGranted := .apply, engine := .empty }
  sweeper : v.sweeper = s.sweeper
  clock : v.clock = s.clock
  settings : v.settings = s.settings
  bus : v.bus = s.bus
  records : v.scan.records = s.scan.records
  broadcast : v.scan.broadcast = s.scan.broadcast
  tally : v.scan.tally = s.scan.tally
  build : v.scan.build = s.scan.build
  flags : v.ctl.flags = s.ctl.flags ||| (EventFlag.stagedReady l).bit
  rises : s.raises v [(.stagedReady l, { lane := laneCode l, generation := n.g })]
  walk : s.keepsWalk v
  hears : s.hearsReport v

variable {n : StagedNotice}

/-- A full map whose digest agrees makes the lane READY, and the activation is tested (R30, R37). -/
theorem verify_readies (h : s.Counted u l counted store) (he : u.store.engine = .empty)
    (hn : counted.staged = some n)
    (hagree : counted.stagedDigest.count = n.count ∧ counted.stagedDigest.sum = n.sum) :
    ∃ v, u.verify l = v.testActivation l ∧ Readied s v l counted store n := by
  obtain ⟨v, hverify, hlanes, hstore, hsweeper, hclock, hsettings, hbus, hrecords, hbroadcast, htally,
    hhears, hflags, hwalk, hbuild, hctl, huplink⟩ :=
    State.verify_ready (s := u) (l := l) (h.lane ▸ hn) (h.lane ▸ hagree)
  rw [h.lane] at hlanes
  refine ⟨v, hverify, ?_, ?_, ?_, ?_, ?_, ?_, ?_, ?_, ?_, ?_, ?_, ?_, ?_, ?_, ?_⟩
  · rw [State.lane, hlanes, PerLane.get_set_same]
  · rw [State.lane, hlanes, PerLane.get_set_other]
    exact h.other
  · exact hstore.trans (h.store_eq he)
  · exact hsweeper.trans h.sweeper
  · exact hclock.trans h.clock
  · exact hsettings.trans h.settings
  · exact hbus.trans h.bus
  · rw [hrecords, h.scan]
  · rw [hbroadcast, h.scan]
  · rw [htally, h.scan]
  · rw [hbuild, h.scan]
  · rw [hflags, h.ctl]
  · refine State.raises_one h.sameOutbound h.settings hclock.symm ?_
    simp [State.sameOutbound, hctl, huplink]
  · exact State.keepsWalk_congr hwalk (by simp [h.scan]) ⟨rfl, rfl, rfl⟩ ⟨rfl, rfl, rfl⟩
  · exact h.toElsewhere.hearsReport hhears

/-- The activation that follows READY at once (R37, R38). -/
theorem Readied.activates {v : State} (h : Readied s v l counted store n)
    (hn : counted.staged = some n) :
    (v.activate l).lane l = LaneRec.activated { counted with state := .ready } n s.clock.value
    ∧ (v.activate l).lane l.other = s.lane l.other
    ∧ (v.activate l).sweeper = (s.requestSweep l .reclaim false).sweeper
    ∧ (v.activate l).ctl.flags =
      s.ctl.flags ||| (EventFlag.stagedReady l).bit ||| (EventFlag.activated l).bit
    ∧ s.raises (v.activate l) [(.stagedReady l, { lane := laneCode l, generation := n.g }),
      (.activated l, { lane := laneCode l, generation := n.g, detail := 1 })]
    ∧ s.reportsMoved (v.activate l) l n.g counted.active
    ∧ s.hearsTwoReports (v.activate l) (fun w => w.lane l = { counted with state := .ready }
      ∧ w.lane l.other = s.lane l.other ∧ s.reportsStaging w)
    ∧ s.joinsSwitch (v.activate l) { lane := l, generation := n.g } := by
  have hstaged : (v.lane l).staged = some n := by rw [h.lane]; exact hn
  have hready : (v.lane l).state = .ready := by rw [h.lane]
  have hactive : (v.lane l).active = counted.active := by rw [h.lane]
  obtain ⟨hlanes, hflags, hsweeper⟩ := v.activate_spec l n hstaged
  obtain ⟨hmoved, hbroadcast⟩ := v.activate_reports l n hstaged
  have hwalk : s.keepsWalk (v.activate l) := by
    refine State.keepsWalk_trans h.walk hmoved.2.2.2.1 hmoved.2.2.1.1 fun w _ hlive => ?_
    exact State.live_before_activation hlanes hready hstaged hlive
  refine ⟨?_, ?_, ?_, ?_, ?_, ?_, ⟨v, h.settings, h.broadcast, fun pos => ?_,
    ⟨h.lane, h.other, h.records, h.tally, h.build, h.bus, h.walk⟩, h.hears,
    v.activate_hears l n hstaged⟩, ?_⟩
  · rw [State.lane, hlanes, PerLane.get_set_same, h.lane, h.clock]
  · rw [State.lane, hlanes, PerLane.get_set_other]
    exact h.other
  · rw [hsweeper]
    exact State.Elsewhere.requestSweep h.sweeper _ _ _
  · rw [hflags, h.flags]
  · exact State.raises_append h.rises (v.activate_raises l n hstaged) h.settings (by simp)
  · rw [← hactive]
    exact State.reportsMoved_after h.records h.bus h.build h.tally (fun hv => (h.hears.1 hv).1) hwalk
      hmoved
  · rw [State.validator_of_records h.records]
  · have hjoins := State.onWaiting_joins hbroadcast
    simpa only [State.joinsSwitch, h.bus, h.broadcast] using hjoins

end State.Counted

/-- Settles O24: the index joined, then the comparison of a full map and what follows from it. -/
theorem lastItemIsVerified : Obligations.LastItemIsVerified := by
  intro s seg pos retry n happlies hlast hstaging hn l r due readyRise done
  have key : ∀ (d : Digest) (a b : Nat) (store : Store) (u : State),
      s.Counted u l { r with stagedDigest := d, duplicates := a, absentDrops := b } store →
      exec .applyItem s = .next (u.nextItem seg pos) →
      done { r with stagedDigest := d, duplicates := a, absentDrops := b } store := by
    intro d a b store u hu hexec
    unfold done
    intro x full agrees
    have hmap : mapFull x.segmentMap n.n = true ↔ full := mapFull_iff _ _
    have hx := hu.joined seg.index
    have hstaged : (u.lane l).staged = some n := by rw [hu.lane]; exact hn
    rw [State.nextItem_of_last hlast] at hexec
    by_cases hfull : full
    · rw [State.completeSegment_of_full hstaged (by rw [hu.lane]; exact hmap.mpr hfull)] at hexec
      by_cases hagree : agrees
      · obtain ⟨v, hverify, hv⟩ := hx.verify_readies (n := n) rfl hn hagree
        have hdue : v.activationDue l = true ↔ due := by
          rw [State.activationDue_iff, hv.lane, hv.clock]
          exact ⟨fun ⟨m, _, hm, hhold, htime⟩ => by
              obtain rfl : n = m := Option.some.inj (hn.symm.trans hm)
              exact ⟨hhold, (effectiveTimeCome_iff _ _).mp htime⟩,
            fun ⟨hhold, htime⟩ => ⟨n, rfl, hn, hhold, (effectiveTimeCome_iff _ _).mpr htime⟩⟩
        rw [hverify] at hexec
        by_cases hd : due
        · rw [State.testActivation_due (hdue.mpr hd)] at hexec
          obtain ⟨hlane, hother, hsweeper, hflags, hrises, hmoved, htwo, hjoins⟩ :=
            hv.activates hn
          exact ⟨_, hexec, by simpa using hv.store, hother, by simpa using hv.clock,
            by simpa using hv.settings, fun hno => absurd hfull hno,
            fun _ _ hno => absurd hd hno,
            fun _ _ _ => ⟨hlane, hsweeper, hflags, hrises, hmoved, htwo, hjoins⟩,
            fun _ hno => absurd hagree hno⟩
        · rw [State.testActivation_not (by simpa using fun h => hd (hdue.mp h))] at hexec
          exact ⟨_, hexec, hv.store, hv.other, hv.clock, hv.settings, fun hno => absurd hfull hno,
            fun _ _ _ => ⟨hv.lane, hv.sweeper, hv.flags, hv.rises, hv.bus, hv.records, hv.tally,
              hv.broadcast, hv.build, hv.walk, hv.hears⟩,
            fun _ _ hyes => absurd hyes hd, fun _ hno => absurd hagree hno⟩
      · have hlane := hx.lane
        rw [State.verify_discards (n := n) (by rw [hlane]; exact hn) (by rw [hlane]; exact hagree)]
          at hexec
        obtain ⟨hgone, hother, hstore, hsweeper, hflags, hrises, hreports, hhears, hbroadcast, hclock,
          hsettings⟩ := hx.toElsewhere.discardUndo (l := l) (n := n) .digest
            (by rw [hlane]; exact hstaging) (by rw [hlane]; exact hn) (by rw [hlane]) rfl
        refine ⟨_, hexec, hstore.trans (hx.store_eq rfl), hother.trans hx.other, hclock, hsettings,
          fun hno => absurd hfull hno, fun _ hyes => absurd hyes hagree,
          fun _ hyes => absurd hyes hagree,
          fun _ _ => ⟨?_, ?_, hflags, hrises, hreports, hhears, hbroadcast⟩⟩
        · rw [hgone, hlane]
          rfl
        · rw [hsweeper]
          exact State.Elsewhere.requestSweep hx.sweeper _ _ _
    · rw [State.completeSegment_of_open hstaged (by rw [hu.lane]; exact fun h => hfull (hmap.mp h))]
        at hexec
      exact ⟨_, hexec, hx.store_eq rfl, hx.other, hx.clock, hx.settings,
        fun _ => ⟨hx.lane, hx.sweeper, hx.ctl, hx.uplink, hx.bus, hx.scan⟩,
        fun hyes => absurd hyes hfull, fun hyes => absurd hyes hfull, fun hyes => absurd hyes hfull⟩
  refine ⟨fun i => mem_insertIndex r.segmentMap seg.index i, fun m change ho => ?_, fun ho => ?_,
    fun ho => ?_⟩
  all_goals
    refine key _ _ _ _ _ ?_ (exec_applyItem happlies ho)
    exact ⟨⟨rfl, rfl, rfl, rfl, rfl, rfl⟩, State.lane_setLane_same _ _ _,
      State.lane_setLane_other _ _ _, rfl, rfl⟩

end Sys2Proof.Machine
end

section
/-! Activation (O33), the periodic STANDING (O32), the local second (O31) and the sweep step (O29). -/

namespace Sys2Proof.Machine

/-! ### Activation (R37, R38, R115) -/

theorem LaneRec.activated_eq (r : LaneRec) (n : StagedNotice) (clockValue : Nat) :
    r.activated n clockValue = { r with
      history :=
        if r.active = 0 then r.history
        else ({ generation := r.active, digest := r.activeDigest } :: r.history).take 2,
      active := n.g, activeDigest := r.stagedDigest, staged := none, segmentMap := [],
      stagedDigest := Digest.zero, state := .idle,
      lateness := if n.e = 0 then 0 else min (clockValue - n.e) 65535 } := rfl

/-- The test as the statements word it. -/
theorem State.activationDue_iff_due (s : State) (l : Lane) :
    s.activationDue l = true ↔ (s.lane l).state = .ready ∧ (s.lane l).hold = false
      ∧ ∃ n, (s.lane l).staged = some n
        ∧ (n.e = 0 ∨ (s.clock.state ≠ .unset ∧ n.e ≤ s.clock.value)) := by
  rw [State.activationDue_iff]
  constructor
  · rintro ⟨n, hready, hn, hhold, htime⟩
    exact ⟨hready, hhold, n, hn, (effectiveTimeCome_iff _ _).mp htime⟩
  · rintro ⟨hready, hhold, n, hn, htime⟩
    exact ⟨n, hready, hn, hhold, (effectiveTimeCome_iff _ _).mpr htime⟩

theorem State.activationDue_of {s : State} {l : Lane} {n : StagedNotice}
    (hready : (s.lane l).state = .ready) (hn : (s.lane l).staged = some n)
    (hhold : (s.lane l).hold = false)
    (htime : n.e = 0 ∨ (s.clock.state ≠ .unset ∧ n.e ≤ s.clock.value)) :
    s.activationDue l = true :=
  (s.activationDue_iff_due l).mpr ⟨hready, hhold, n, hn, htime⟩

/-- A lane that is not READY, or held, or before its time, is not activated. -/
theorem State.not_activationDue_of {s : State} {l : Lane}
    (h : (s.lane l).state ≠ .ready ∨ (s.lane l).hold = true
      ∨ ∃ n, (s.lane l).staged = some n ∧ n.e ≠ 0
        ∧ (s.clock.state = .unset ∨ s.clock.value < n.e)) : s.activationDue l = false := by
  rw [← Bool.not_eq_true, State.activationDue_iff_due]
  rintro ⟨hready, hhold, n, hn, htime⟩
  obtain hstate | hheld | ⟨m, hm, hlater, hclock⟩ := h
  · exact hstate hready
  · simp [hheld] at hhold
  · obtain rfl : n = m := Option.some.inj (hn.symm.trans hm)
    obtain hzero | ⟨hset, hcome⟩ := htime
    · exact hlater hzero
    · obtain hunset | hearly := hclock
      · exact hset hunset
      · omega

/-- Settles O33: the activation's laws, and the order of the two tests at a clock report. -/
theorem activationMakesItsChanges : Obligations.ActivationMakesItsChanges := by
  refine ⟨fun s => ⟨fun hnot => ?_, fun hb hp => ?_⟩,
    fun s l => ⟨fun n hready hn hhold htime => ?_, fun h => ?_⟩⟩
  · have hno : ¬(s.activationDue .b = true ∧ s.activationDue .p = true) := fun ⟨hb, hp⟩ =>
      hnot ⟨(s.activationDue_iff_due .b).mp hb, (s.activationDue_iff_due .p).mp hp⟩
    unfold State.reportClock
    exact if_neg (by simpa using hno)
  · have hdue := And.intro ((s.activationDue_iff_due .b).mpr hb) ((s.activationDue_iff_due .p).mpr hp)
    refine ⟨if Config.laneBReportsFirst s.choices then .b else .p, ?_⟩
    unfold State.reportClock
    exact if_pos (by simpa using hdue)
  · obtain ⟨hlanes, hflags, hsweeper⟩ := s.activate_spec l n hn
    obtain ⟨hmoved, hbroadcast⟩ := s.activate_reports l n hn
    dsimp only
    rw [State.testActivation_due (State.activationDue_of hready hn hhold htime)]
    refine ⟨?_, ?_, by simp, by simp, by simp, hsweeper, hflags, s.activate_raises l n hn, hmoved,
      s.activate_hears l n hn, State.onWaiting_joins hbroadcast⟩
    · rw [State.lane, hlanes, PerLane.get_set_same]
      exact LaneRec.activated_eq _ _ _
    · rw [State.lane, hlanes, PerLane.get_set_other]
      rfl
  · exact State.testActivation_not (State.not_activationDue_of h)

/-! ### The periodic STANDING (R184) -/

theorem State.standingDue_iff (s : State) :
    s.standingDue = true ↔
      s.settings.period ≠ 0 ∧ 2 ^ (s.settings.period.val - 1) ≤ s.ctl.reportTimer := by
  rw [State.standingDue, Bool.and_eq_true, decide_eq_true_eq, decide_eq_true_eq]
  rfl

theorem State.standingIfDue_of_due {s : State} (h : s.standingDue = true) :
    s.standingIfDue = s.makeStanding := if_pos h

/-- A STANDING just made is not due again: the interval is at least a second. -/
theorem State.makeStanding_not_due (s : State) : s.makeStanding.standingDue = false := by
  have hzero : s.makeStanding.ctl.reportTimer = 0 := by
    unfold State.makeStanding State.standingMade
    dsimp only
    split <;> simp
  rw [← Bool.not_eq_true, State.standingDue_iff, hzero]
  rintro ⟨-, h⟩
  have : 0 < 2 ^ (s.makeStanding.settings.period.val - 1) := Nat.two_pow_pos _
  omega

theorem State.standingIfDue_idem (s : State) : s.standingIfDue.standingIfDue = s.standingIfDue := by
  cases h : s.standingDue with
  | true =>
    rw [State.standingIfDue_of_due h]
    exact State.standingIfDue_of_not_due s.makeStanding_not_due
  | false => rw [State.standingIfDue_of_not_due h, State.standingIfDue_of_not_due h]

theorem State.makeStanding_of_room {s : State} (h : s.uplink.egress.length < 8) :
    s.makeStanding =
      { s with
        choices := s.choices + 1,
        uplink := { s.uplink with egress := s.uplink.egress ++
          [{ kind := .standing,
             body := ({ s with ctl := { s.ctl with reportTimer := 0 } } : State).standing,
             unitMac := s.settings.addressing.unitMac,
             gatewayMac := s.settings.addressing.gatewayMac,
             etherType := s.settings.addressing.etherType, restart := false }] },
        ctl := { s.ctl with reportTimer := 0 } } := by
  have hroom : ({ s with ctl := { s.ctl with reportTimer := 0 } } : State).egressRoom = true :=
    (State.egressRoom_iff _).mpr h
  simp only [State.makeStanding, hroom, if_true]
  rfl

theorem State.makeStanding_of_full {s : State} (h : 8 ≤ s.uplink.egress.length) :
    s.makeStanding = { s with choices := s.choices + 1, ctl := { s.ctl with reportTimer := 0 } } := by
  have hfull : ({ s with ctl := { s.ctl with reportTimer := 0 } } : State).egressRoom = false :=
    State.egressRoom_full (s := { s with ctl := { s.ctl with reportTimer := 0 } }) h
  simp only [State.makeStanding, hfull, Bool.false_eq_true, if_false]
  rfl

theorem exec_periodicStanding {s : State} (h : s.power = .running) :
    exec .periodicStanding s = .next s.standingIfDue := exec_of_running h _

/-- Settles O32: `makeStanding` by the room in the egress queue, and the same STANDING made first by a
local second or a SET-TIMING. -/
theorem periodicStandingIsMade : Obligations.PeriodicStandingIsMade := by
  refine ⟨State.standingDue_iff, fun s hp hperiod htimer => ?_⟩
  have hdue : s.standingDue = true := s.standingDue_iff.mpr ⟨hperiod, htimer⟩
  rw [exec_periodicStanding hp, State.standingIfDue_of_due hdue]
  refine ⟨fun hroom => ?_, fun hfull => ?_, fun t ht => ?_, fun m quiet period htakes hargs => ?_⟩
  · rw [State.makeStanding_of_room hroom]
    rfl
  · rw [State.makeStanding_of_full hfull]
  · obtain rfl := Host.Outcome.next.inj ht
    have hpower : s.makeStanding.power = .running := by
      rw [← State.standingIfDue_of_due hdue]
      simpa using hp
    have hsame : s.standingIfDue = s.makeStanding.standingIfDue := by
      rw [← State.standingIfDue_of_due hdue, State.standingIfDue_idem]
    rw [exec_of_running hp, exec_of_running hpower]
    simp only [actOf, localSecondStep, hsame]
  · have hpopped : s.popControl.standingDue = true := hdue
    have hzero : s.popControl.makeStanding.ctl.reportTimer = 0 := by
      unfold State.makeStanding State.standingMade
      dsimp only
      split <;> simp
    refine ⟨_, exec_periodicStanding (s := s.popControl) hp, ?_⟩
    rw [exec_setTiming htakes, withArgs_of_some ((argSetTiming_iff _ _ _).mpr hargs), carrySetTiming,
      State.standingIfDue_of_due hpopped, hzero]
    simp

/-! ### The local second (R106, R107, R115, R184) -/

/-- The clock after the second, HOLDOVER risen where the second enters it. -/
def State.ticked (s : State) : State :=
  if s.clock.entersHoldover then ({ s with clock := s.clock.second } : State).rise .holdover {}
  else { s with clock := s.clock.second }

/-- The report timer's second (R184). -/
def State.countReport (s : State) : State :=
  if s.settings.period = 0 then s
  else { s with ctl := { s.ctl with reportTimer := s.ctl.reportTimer + 1 } }

theorem localSecondStep_eq (s : State) :
    localSecondStep s = s.standingIfDue.ticked.reportClock.countReport := rfl

@[simp] theorem State.ticked_frame (s : State) :
    s.ticked.power = s.power ∧ s.ticked.settings = s.settings ∧ s.ticked.lanes = s.lanes
    ∧ s.ticked.store = s.store ∧ s.ticked.clock = s.clock.second
    ∧ s.ticked.uplink.ingress = s.uplink.ingress ∧ s.ticked.uplink.control = s.uplink.control
    ∧ s.ticked.ctl.reportTimer = s.ctl.reportTimer := by
  unfold State.ticked
  split <;> simp

@[simp] theorem State.countReport_frame (s : State) :
    s.countReport.settings = s.settings ∧ s.countReport.lanes = s.lanes
    ∧ s.countReport.store = s.store ∧ s.countReport.clock = s.clock
    ∧ s.countReport.uplink = s.uplink ∧ s.countReport.ctl.flags = s.ctl.flags := by
  unfold State.countReport
  split <;> simp

theorem State.countReport_timer (s : State) :
    s.countReport.ctl.reportTimer =
      if s.settings.period = 0 then s.ctl.reportTimer else s.ctl.reportTimer + 1 := by
  unfold State.countReport
  split <;> rfl

theorem Clock.entersHoldover_iff (c : Clock) :
    c.entersHoldover = true ↔ c.state = .locked ∧ 300 ≤ c.timer + 1 := by
  simp [Clock.entersHoldover]

theorem Clock.second_eq (c : Clock) :
    c.second = if c.state = .unset then c else
      { c with
        value := if 0 < c.debt then c.value else min (c.value + 1) 4294967295,
        debt := c.debt - 1,
        timer := min (c.timer + 1) 300,
        state := if c.state = .locked ∧ 300 ≤ c.timer + 1 then .holdover else c.state } := by
  split
  · next hunset => exact Clock.second_of_unset hunset
  · next hset => exact Clock.second_of_set hset

/-- A flag once set stays set at a clock report. -/
theorem State.reportClock_keepsFlag {s : State} {i : Nat} (h : s.ctl.flags.getLsbD i = true) :
    s.reportClock.ctl.flags.getLsbD i = true := by
  have tested : ∀ {u : State} (l : Lane), u.ctl.flags.getLsbD i = true →
      (u.testActivation l).ctl.flags.getLsbD i = true := by
    intro u l hu
    cases hdue : u.activationDue l with
    | false => rwa [State.testActivation_not hdue]
    | true =>
      obtain ⟨n, -, hn, -⟩ := (u.activationDue_iff l).mp hdue
      rw [State.testActivation_due hdue, (u.activate_spec l n hn).2.1, BitVec.getLsbD_or, hu]
      rfl
  unfold State.reportClock
  split
  · exact tested _ (tested _ h)
  · exact tested _ (tested _ h)

theorem State.ticked_holdover {s : State} (h : s.clock.entersHoldover = true) :
    s.ticked.ctl.flags.getLsbD 13 = true := by
  rw [State.ticked, if_pos h, State.rise_flags, BitVec.getLsbD_or]
  simp [EventFlag.bit, EventFlag.number]

/-- Settles O31: the second on the clock (`Clock.second_eq`), the report to the lanes, and the timer. -/
theorem localSecondAdvancesTheClock : Obligations.LocalSecondAdvancesTheClock := by
  intro s hp c enters ticked told
  have hexec : exec .localSecond s = .next (localSecondStep s) := exec_of_running hp _
  have hclock : (localSecondStep s).clock = c.second := by
    rw [localSecondStep_eq]
    simp [c]
  have henters : s.clock.entersHoldover = true ↔ enters := Clock.entersHoldover_iff _
  have htold : ∀ u : State, u.settings = s.settings → u.ctl.reportTimer = s.ctl.reportTimer →
      exec .localSecond s = .next u.reportClock.countReport → told u := by
    intro u hsettings htimer he
    have hperiod : u.reportClock.settings.period = s.settings.period := by simp [hsettings]
    have hcount : u.reportClock.ctl.reportTimer = s.ctl.reportTimer := by simp [htimer]
    refine ⟨fun hzero => ?_, fun hset => ?_⟩
    · rw [he, State.countReport, hperiod, if_pos hzero]
    · rw [he, State.countReport, hperiod, if_neg hset, hcount]
  have hholdover : enters → (localSecondStep s).ctl.flags.getLsbD 13 = true := by
    intro h
    rw [localSecondStep_eq, (State.countReport_frame _).2.2.2.2.2]
    refine State.reportClock_keepsFlag (State.ticked_holdover ?_)
    simpa using henters.mpr h
  have htickedClock : ticked = { s with clock := s.clock.second } :=
    congrArg (fun c => ({ s with clock := c } : State)) (Clock.second_eq s.clock).symm
  have hbefore : ∀ l, s.standingIfDue.ticked.lane l = s.lane l :=
    State.lane_of_lanes (by simp)
  have hafter : ∀ l, (localSecondStep s).lane l = s.standingIfDue.ticked.reportClock.lane l := by
    intro l
    rw [localSecondStep_eq]
    exact State.lane_of_lanes (by simp) l
  refine ⟨fun hdue => ⟨fun h => ?_, fun h => ?_⟩, ⟨_, hexec, fun hunset => ?_, fun hset => ?_,
    hholdover, fun l n hready hn hhold htime => ?_, fun l hnot => ?_, ?_, ?_, ?_, ?_, fun hzero => ?_,
      fun hset hdue => ?_⟩, fun h => ⟨_, ?_, hexec, ?_, ?_, hholdover h⟩⟩
  · have hstep := localSecondStep_eq s
    rw [State.standingIfDue_of_not_due hdue, State.ticked, if_pos (henters.mpr h)] at hstep
    rw [htickedClock]
    exact htold _ (by simp) (by simp) (hstep ▸ hexec)
  · have hstep := localSecondStep_eq s
    rw [State.standingIfDue_of_not_due hdue, State.ticked, if_neg (fun hyes => h (henters.mp hyes))]
      at hstep
    rw [htickedClock]
    exact htold _ rfl rfl (hstep ▸ hexec)
  · exact hclock.trans (Clock.second_of_unset hunset)
  · exact hclock.trans (Clock.second_of_set hset)
  · have hdue : s.standingIfDue.ticked.activationDue l = true := by
      refine State.activationDue_of (n := n) ?_ ?_ ?_ ?_
      · rwa [hbefore]
      · rwa [hbefore]
      · rwa [hbefore]
      · rw [hclock] at htime
        simpa using htime
    rw [hafter, State.reportClock_due hdue (by rw [hbefore]; exact hn), hclock]
    exact ⟨rfl, rfl, by simp [LaneRec.activated, c]⟩
  · rw [hafter, State.reportClock_not (State.not_activationDue_of ?_), hbefore]
    rw [hbefore]
    rw [hclock] at hnot
    simpa using hnot
  · rw [localSecondStep_eq]
    simp
  · rw [localSecondStep_eq]
    simp
  · rw [localSecondStep_eq]
    simp
  · rw [localSecondStep_eq]
    simp
  · have hdue : s.standingDue = false := by
      rw [← Bool.not_eq_true, State.standingDue_iff]
      exact fun hd => hd.1 hzero
    rw [localSecondStep_eq, State.standingIfDue_of_not_due hdue, State.countReport_timer, if_pos (by simpa using hzero)]
    simp
  · rw [localSecondStep_eq, State.standingIfDue_of_not_due hdue, State.countReport_timer,
      if_neg (by simpa using hset)]
    simp
  · rw [exec_of_running hp]
    exact congrArg _ (if_pos (henters.mpr h))
  · rw [hclock, Clock.second_of_set (by rw [h.1]; simp)]
    exact if_pos h
  · rw [hclock, Clock.second_of_set (by rw [h.1]; simp)]
    exact Nat.min_eq_right h.2

/-! ### The sweep step (R54, R75 to R81) -/

section
variable {m : Memory} {a g : Nat} {x : Entry} {added : Nat} {removed : Option Nat}
  (hx : m.read a = some x) (hs : x.stamps = some (added, removed)) (kept : List Nat)
include hx hs

theorem sweepSlot_retire : sweepSlot (.retire g) kept m a =
    if removed = none then m.write a (x.setRemoved (some g)) else m := by
  simp only [sweepSlot, hx, hs]

theorem sweepSlot_undo : sweepSlot (.undo g) kept m a =
    if added = g then m.freeEntry a
    else if removed = some g then m.write a (x.setRemoved none) else m := by
  simp only [sweepSlot, hx, hs]

theorem sweepSlot_reclaim : sweepSlot .reclaim kept m a =
    if kept.any x.visibleIn then m else m.freeEntry a := by
  simp only [sweepSlot, hx, hs]

theorem sweepSlot_clear : sweepSlot .clear kept m a = m.freeEntry a := by
  simp only [sweepSlot, hx, hs]

end

theorem Entry.visibleIn_iff {x : Entry} {added : Nat} {removed : Option Nat}
    (hs : x.stamps = some (added, removed)) (v : Nat) :
    x.visibleIn v = true ↔ added ≤ v ∧ ∀ r, removed = some r → v < r := by
  simp only [Entry.visibleIn, hs, stampsVisible_iff]

theorem sweepSlot_of_free {m : Memory} {a : Nat} (h : m.read a = none) (k : SweepKind)
    (kept : List Nat) : sweepSlot k kept m a = m := by
  simp only [sweepSlot, h]

theorem sweepSlot_of_tail {m : Memory} {a : Nat} {x : ProductTail} (h : m.read a = some (.tail x))
    (k : SweepKind) (kept : List Nat) : sweepSlot k kept m a = m := by
  simp only [sweepSlot, h, Entry.stamps]

/-- Settles O29: the step's equation, the list's laws, and `sweepSlot` by the slot and the kind. -/
theorem sweepStepChangesItsSlot : Obligations.SweepStepChangesItsSlot := by
  refine ⟨fun s w hw hmore => ?_, fun s l k waiter => rfl, fun new waiting => ⟨fun hno => ?_,
    fun before x after hwaiting hbefore hx => ?_⟩, fun w => ⟨fun x => Sweeper.start_of_sweep,
      Sweeper.start_of_nil, fun x rest => Sweeper.start_of_cons⟩, LaneRec.mem_retained,
    fun m a b x hm => ⟨m.read_write a b x, Memory.read_erase hm a b⟩,
    fun m kept a g => ⟨fun k h => sweepSlot_of_free h k kept, fun k x h => sweepSlot_of_tail h k kept,
      fun x added removed hx hs => ⟨sweepSlot_retire hx hs kept, fun hnew => ?_, fun hold => ?_,
        fun hseen => ?_, fun hunseen => ?_, sweepSlot_clear hx hs kept⟩,
      fun h t hread ht => ?_, fun h hread ht => ?_, fun e hread => ?_⟩⟩
  · rw [exec_sweep hw, State.sweepStep_on hmore]
    rfl
  · refine joinRequests_joins fun x hx => ?_
    rw [← Bool.not_eq_true, SweepRequest.sameWork_iff]
    exact hno x hx
  · rw [hwaiting]
    refine joinRequests_merges (fun y hy => ?_) ((SweepRequest.sameWork_iff x new).mpr hx)
    rw [← Bool.not_eq_true, SweepRequest.sameWork_iff]
    exact hbefore y hy
  · rw [sweepSlot_undo hx hs kept, if_pos hnew]
  · rw [sweepSlot_undo hx hs kept, if_neg hold]
  · rw [sweepSlot_reclaim hx hs kept, if_pos]
    obtain ⟨v, hv, hvisible⟩ := hseen
    exact List.any_eq_true.mpr ⟨v, hv, (Entry.visibleIn_iff hs v).mpr hvisible⟩
  · rw [sweepSlot_reclaim hx hs kept, if_neg]
    rw [List.any_eq_true]
    rintro ⟨v, hv, hvisible⟩
    obtain ⟨hadded, hremoved⟩ := (Entry.visibleIn_iff hs v).mp hvisible
    obtain hlow | ⟨r, hr, hhigh⟩ := hunseen v hv
    · omega
    · have := hremoved r hr
      omega
  · simp only [Memory.freeEntry, hread, ht]
  · simp only [Memory.freeEntry, hread, ht]
  · simp only [Memory.freeEntry, hread]

end Sys2Proof.Machine
end

section
/-! The NOTICE in the lane states that act on it (O17, O18). -/

namespace Sys2Proof.Machine

/-! ### The view taken (R21) -/

theorem LaneRec.withView_stale (r : LaneRec) (x : Notice) :
    (r.withView x).stale x.g = r.stale x.g := rfl

theorem State.viewNotice_of_stale {s : State} {l : Lane} {x : Notice}
    (h : x.g ≤ max (s.lane l).active (s.lane l).floor) :
    s.viewNotice l x = (s.setLane l ((s.lane l).withView x)).countUplink .passed :=
  if_pos (decide_eq_true h)

theorem State.viewNotice_of_usable {s : State} {l : Lane} {x : Notice}
    (h : max (s.lane l).active (s.lane l).floor < x.g) :
    s.viewNotice l x = s.setLane l ((s.lane l).withView x) :=
  if_neg (by simpa [LaneRec.stale] using h)

/-- What taking the view leaves (R21). -/
theorem State.viewNotice_frame (s : State) (l : Lane) (x : Notice) :
    (s.viewNotice l x).lane l = (s.lane l).withView x
    ∧ (s.viewNotice l x).lane l.other = s.lane l.other
    ∧ (s.viewNotice l x).store = s.store ∧ (s.viewNotice l x).sweeper = s.sweeper
    ∧ (s.viewNotice l x).choices = s.choices ∧ (s.viewNotice l x).ctl = s.ctl
    ∧ (s.viewNotice l x).scan = s.scan ∧ (s.viewNotice l x).bus = s.bus
    ∧ (s.viewNotice l x).clock = s.clock ∧ (s.viewNotice l x).settings = s.settings
    ∧ (s.viewNotice l x).uplink.ingress = s.uplink.ingress
    ∧ (s.viewNotice l x).uplink.checkedHead = s.uplink.checkedHead := by
  have hsame : (s.setLane l ((s.lane l).withView x)).lane l = (s.lane l).withView x :=
    State.lane_setLane_same _ _ _
  have hother : (s.setLane l ((s.lane l).withView x)).lane l.other = s.lane l.other :=
    State.lane_setLane_other _ _ _
  unfold State.viewNotice
  split
  all_goals exact ⟨hsame, hother, rfl, rfl, rfl, rfl, rfl, rfl, rfl, rfl, rfl, rfl⟩

theorem exec_notice_eq {s : State} {l : Lane} {x : Notice} (h : s.noticeAtHead l x) :
    exec .notice s = .next ((s.popIngress.viewNotice l x).judgeNotice l x) := by
  rw [exec_notice h, State.takeNotice_eq]

/-! ### An IDLE lane (R21 to R25) -/

section
variable {s : State} {l : Lane} {x : Notice} (hidle : (s.lane l).state = .idle)
include hidle

theorem State.judgeNotice_of_idle : s.judgeNotice l x =
    if (s.lane l).stale x.g then s
    else if (s.lane l).takesDelta x then s.stageDelta l x
    else if (s.lane l).takesImage l x then s.stageImage l x
    else s := by
  simp only [State.judgeNotice, hidle]

end

theorem LaneRec.takesDelta_withView (r : LaneRec) (x : Notice) :
    (r.withView x).takesDelta x = true ↔
      x.b ≠ 0 ∧ x.b = r.active ∧ r.active ≠ 0 ∧ x.oldest ≠ 0 ∧ x.oldest ≤ r.active :=
  decide_eq_true_iff

theorem LaneRec.takesImage_withView (r : LaneRec) (l : Lane) (x : Notice) :
    (r.withView x).takesImage l x = true ↔
      x.b = 0 ∧ x.g = x.newest ∧ (l = .p ∨ r.active = 0 ∨ x.oldest = 0 ∨ r.active < x.oldest) := by
  rw [LaneRec.takesImage, Bool.and_eq_true, Bool.or_eq_true, decide_eq_true_iff, decide_eq_true_iff,
    decide_eq_true_iff, and_assoc]
  rfl

/-- A staging begun is reported to the scanner, which changes nothing there but the round and the walk
(R162). -/
theorem State.reportStaging_reports (s : State) :
    s.reportStaging.lanes = s.lanes ∧ s.reportStaging.store = s.store
    ∧ s.reportStaging.sweeper = s.sweeper ∧ s.reportStaging.clock = s.clock
    ∧ s.reportStaging.settings = s.settings ∧ s.reportStaging.bus = s.bus
    ∧ s.reportStaging.ctl = s.ctl ∧ s.reportStaging.uplink = s.uplink
    ∧ s.reportStaging.scan.records = s.scan.records ∧ s.reportStaging.scan.tally = s.scan.tally
    ∧ s.reportStaging.scan.broadcast = s.scan.broadcast
    ∧ s.reportStaging.scan.build = s.scan.build ∧ s.keepsWalk s.reportStaging
    ∧ s.hearsReport s.reportStaging := by
  obtain ⟨hwalk, hbuild⟩ := s.reportStaging_keeps
  refine ⟨?_, ?_, ?_, ?_, ?_, ?_, ?_, ?_, ?_, ?_, ?_, hbuild, hwalk, s.reportStaging_hears⟩
  all_goals simp

/-- Of two writes of one lane the later stands. -/
theorem State.setLane_setLane_lanes (s : State) (l : Lane) (q r : LaneRec) :
    ((s.setLane l q).setLane l r).lanes = (s.setLane l r).lanes :=
  PerLane.set_set _ _ _ _

/-- The report of a staging begun, heard from a state with the same scanner (R162). -/
theorem State.reportStaging_of {s w : State} (hscan : w.scan = s.scan) :
    w.reportStaging.scan.records = s.scan.records ∧ w.reportStaging.scan.tally = s.scan.tally
    ∧ w.reportStaging.scan.broadcast = s.scan.broadcast
    ∧ w.reportStaging.scan.build = s.scan.build ∧ s.keepsWalk w.reportStaging
    ∧ s.hearsReport w.reportStaging := by
  obtain ⟨_, _, _, _, _, _, _, _, hrecords, htally, hbroadcast, hbuild, hwalk, hhears⟩ :=
    w.reportStaging_reports
  refine ⟨by rw [hrecords, hscan], by rw [htally, hscan], by rw [hbroadcast, hscan],
    by rw [hbuild, hscan], ?_, ?_⟩
  · exact State.keepsWalk_congr hwalk (by rw [hscan]; exact ⟨rfl, rfl, rfl⟩) ⟨rfl, rfl, rfl⟩
      ⟨rfl, rfl, rfl⟩
  · exact State.hearsReport_congr hhears (by rw [hscan]) (by rw [hscan]) rfl rfl rfl

/-- What a staging begun in lane `l` leaves: the lane's new record, the sweeper as given, and the report. -/
theorem State.reportStaging_begun {s w : State} {l : Lane} {r : LaneRec}
    (hlanes : w.lanes = (s.setLane l r).lanes) (hrest : w =
      { s.popIngress with lanes := w.lanes, sweeper := w.sweeper }) :
    w.reportStaging.lane l = r ∧ w.reportStaging.lane l.other = s.lane l.other
    ∧ w.reportStaging.store = s.store ∧ w.reportStaging.sweeper = w.sweeper
    ∧ w.reportStaging.clock = s.clock ∧ w.reportStaging.settings = s.settings
    ∧ w.reportStaging.bus = s.bus ∧ w.reportStaging.ctl = s.ctl
    ∧ w.reportStaging.uplink =
        { s.uplink with ingress := s.uplink.ingress.tail, checkedHead := none }
    ∧ w.reportStaging.scan.records = s.scan.records ∧ w.reportStaging.scan.tally = s.scan.tally
    ∧ w.reportStaging.scan.broadcast = s.scan.broadcast
    ∧ w.reportStaging.scan.build = s.scan.build ∧ s.keepsWalk w.reportStaging
    ∧ s.hearsReport w.reportStaging := by
  obtain ⟨klanes, kstore, ksweeper, kclock, ksettings, kbus, kctl, kuplink, _⟩ :=
    w.reportStaging_reports
  have hl := klanes.trans hlanes
  have hscan : w.scan = s.scan := by rw [hrest]; rfl
  have hset : w.settings = s.settings := by rw [hrest]; rfl
  refine ⟨?_, ?_, ?_, ksweeper, ?_, ksettings.trans hset, ?_, ?_, ?_,
    State.reportStaging_of hscan⟩
  · rw [State.lane_of_lanes hl l, State.lane_setLane_same]
  · rw [State.lane_of_lanes hl l.other, State.lane_setLane_other]
  · rw [kstore, hrest]; rfl
  · rw [kclock, hrest]; rfl
  · rw [kbus, hrest]; rfl
  · rw [kctl, hrest]; rfl
  · rw [kuplink, hrest]; rfl

/-- Settles O17: by the tests of R21 to R23 on the view just taken. -/
theorem idleLaneJudgesNotices : Obligations.IdleLaneJudgesNotices := by
  have viewed : ∀ (s : State) (l : Lane) (x : Notice), s.noticeAtHead l x →
      (s.lane l).state = .idle → max (s.lane l).active (s.lane l).floor < x.g →
      exec .notice s = .next ((s.popIngress.setLane l ((s.lane l).withView x)).judgeNotice l x)
      ∧ ((s.popIngress.setLane l ((s.lane l).withView x)).lane l).state = .idle
      ∧ ((s.popIngress.setLane l ((s.lane l).withView x)).lane l).stale x.g = false
      ∧ (s.popIngress.setLane l ((s.lane l).withView x)).lane l = (s.lane l).withView x := by
    intro s l x hhead hidle husable
    have hlane : (s.popIngress.setLane l ((s.lane l).withView x)).lane l = (s.lane l).withView x :=
      State.lane_setLane_same _ _ _
    refine ⟨?_, ?_, ?_, hlane⟩
    · rw [exec_notice_eq hhead, State.viewNotice_of_usable (s := s.popIngress) husable]
      rfl
    · rw [hlane]
      exact hidle
    · rw [hlane, LaneRec.withView_stale]
      simpa [LaneRec.stale] using husable
  refine ⟨fun s l x hhead hidle husable hb hbase hactive holdest hreach => ?_,
    fun s l x hhead hidle husable hb hnewest hneeds => ?_,
    fun s l x hhead hidle => ⟨fun hstale => ?_, fun husable hnodelta hnoimage => ?_⟩⟩
  · obtain ⟨hexec, hstate, hstale, hlane⟩ := viewed s l x hhead hidle husable
    have hdelta : ((s.lane l).withView x).takesDelta x = true :=
      (LaneRec.takesDelta_withView _ _).mpr ⟨hb, hbase, hactive, holdest, hreach⟩
    rw [State.judgeNotice_of_idle hstate, hstale, if_neg Bool.false_ne_true, hlane, if_pos hdelta]
      at hexec
    refine ⟨_, hexec, ?_⟩
    refine State.reportStaging_begun (w := State.setLane _ l _) ?_ rfl
    rw [State.setLane_setLane_lanes, hlane]
    rfl
  · obtain ⟨hexec, hstate, hstale, hlane⟩ := viewed s l x hhead hidle husable
    have hdelta : ((s.lane l).withView x).takesDelta x = false :=
      Bool.eq_false_iff.mpr fun h => ((LaneRec.takesDelta_withView _ _).mp h).1 hb
    have himage : ((s.lane l).withView x).takesImage l x = true :=
      (LaneRec.takesImage_withView _ _ _).mpr ⟨hb, hnewest, hneeds⟩
    rw [State.judgeNotice_of_idle hstate, hstale, if_neg Bool.false_ne_true, hlane, hdelta,
      if_neg Bool.false_ne_true, if_pos himage] at hexec
    refine ⟨_, hexec, ?_⟩
    refine State.reportStaging_begun (w := State.requestSweep (State.setLane _ l _) l _ _) ?_ rfl
    refine (State.setLane_setLane_lanes _ _ _ _).trans ?_
    rw [hlane]
    rfl
  · have hstale' : ((s.popIngress.viewNotice l x).lane l).stale x.g = true := by
      rw [(s.popIngress.viewNotice_frame l x).1, LaneRec.withView_stale]
      exact decide_eq_true hstale
    have hidle' : ((s.popIngress.viewNotice l x).lane l).state = .idle := by
      rw [(s.popIngress.viewNotice_frame l x).1]
      exact hidle
    rw [exec_notice_eq hhead, State.judgeNotice_of_idle hidle', if_pos hstale']
    exact congrArg Host.Outcome.next (State.viewNotice_of_stale (s := s.popIngress) hstale)
  · obtain ⟨hexec, hstate, hstale, hlane⟩ := viewed s l x hhead hidle husable
    rw [hexec, State.judgeNotice_of_idle hstate, hstale, if_neg Bool.false_ne_true, hlane,
      if_neg (fun h => hnodelta ((LaneRec.takesDelta_withView _ _).mp h)),
      if_neg (fun h => hnoimage ((LaneRec.takesImage_withView _ _ _).mp h))]
    rfl

end Sys2Proof.Machine
end

section
/-! The NOTICE in a lane that holds a staging (O18). -/

namespace Sys2Proof.Machine

/-- Giving up a segment reads the store, the sweeper, the arbiter's grant and the lane's state alone. -/
theorem State.givesUpSegment_of {s u t : State} {l : Lane} {k : SweepKind}
    (h : u.givesUpSegment t l k) (hstore : u.store = s.store) (hsweeper : u.sweeper = s.sweeper)
    (hscan : u.scan = s.scan) (hctl : u.ctl = s.ctl) (hchoices : u.choices = s.choices)
    (hstate : (u.lane l).state = (s.lane l).state) : s.givesUpSegment t l k := by
  have hgrant : u.nextGrant = s.nextGrant :=
    State.nextGrant_of hstore hsweeper (by rw [hscan]) (by rw [hctl])
  simpa only [State.givesUpSegment, State.afterAsking, State.clearWaiter, State.requestSweep, hstore,
    hsweeper, hchoices, hstate, hgrant] using h

/-- R26 on the view just taken. -/
theorem LaneRec.overtaken_withView (r : LaneRec) (x : Notice) (n : StagedNotice) :
    (r.withView x).overtaken n = true ↔
      if n.b = 0 then n.g < x.newest else x.oldest = 0 ∨ r.active < x.oldest := by
  unfold LaneRec.overtaken
  split
  all_goals exact decide_eq_true_iff

/-- R27. -/
theorem StagedNotice.revisedBy_iff (n : StagedNotice) (x : Notice) :
    n.revisedBy x = true ↔ x.g = n.g
      ∧ ((x.b = n.b ∧ x.n ≠ n.n) ∨ x.count ≠ n.count ∨ x.sum ≠ n.sum ∨ x.e ≠ n.e) := by
  rw [StagedNotice.revisedBy, Bool.and_eq_true, Bool.or_eq_true, decide_eq_true_iff,
    decide_eq_true_iff, decide_eq_true_iff]

/-- R26 and R27 in the two states of a staging. -/
theorem State.judgeNotice_of_staging {s : State} {l : Lane} {n : StagedNotice}
    (hstate : (s.lane l).state = .retiring ∨ (s.lane l).state = .staging)
    (hn : (s.lane l).staged = some n) (x : Notice) :
    s.judgeNotice l x =
      if (s.lane l).overtaken n then s.discardUndo l .overtaken
      else if n.revisedBy x then s.discardUndo l .revised else s := by
  rcases hstate with hstate | hstate
  all_goals simp only [State.judgeNotice, State.testStaging, hstate, hn]

/-- What a NOTICE that discards leaves, for the two reasons that do not move the floor (R33 to R36). -/
theorem State.discardUndo_viewed {s : State} {l : Lane} {x : Notice} {n : StagedNotice}
    (hn : (s.lane l).staged = some n) {reason : DiscardReason}
    (hfloor : ∀ floor staged, floorAfter reason floor staged = floor) {t : State}
    (ht : t = (s.popIngress.viewNotice l x).discardUndo l reason) :
    t.lane l = { s.lane l with
          viewNewest := x.newest, viewOldest := x.oldest, state := .discarding,
          lastReason := reason, discards := min ((s.lane l).discards + 1) 65535,
          undoDeferred := if (s.lane l).state = .retiring then true else (s.lane l).undoDeferred }
    ∧ t.lane l.other = s.lane l.other
    ∧ t.uplink.ingress = s.uplink.ingress.tail ∧ t.uplink.checkedHead = none
    ∧ t.store.regions = s.store.regions ∧ t.store.free = s.store.free
    ∧ s.givesUpSegment t l (.undo n.g) ∧ s.reportsGone t l n.g ∧ s.hearsReport t
    ∧ t.scan.broadcast = s.scan.broadcast
    ∧ t.ctl.flags = s.ctl.flags ||| (EventFlag.discarded l).bit
    ∧ (s.popIngress.viewNotice l x).raises t [(EventFlag.discarded l,
        { lane := laneCode l, generation := n.g, detail := reason.code })]
    ∧ t.clock = s.clock ∧ t.settings = s.settings := by
  obtain ⟨hlane, hother, hstore, hsweeper, hchoices, hctl, hscan, hbus, hclock, hsettings, hingress,
    hhead⟩ := s.popIngress.viewNotice_frame l x
  have hgen : ((s.popIngress.viewNotice l x).lane l).stagedGen = n.g := by
    rw [hlane]
    exact LaneRec.stagedGen_of hn
  obtain ⟨klanes, kflags, _, _⟩ := (s.popIngress.viewNotice l x).discardUndo_spec l reason
  rw [← ht] at klanes kflags
  rw [State.discardUndo, hgen] at ht
  generalize s.popIngress.viewNotice l x = v at *
  obtain ⟨kingress, khead, _, _, _, _, _, _, _, kregions, kfree⟩ := v.discard_parts l reason (.undo n.g)
  obtain ⟨_, _, _, ksettings, _, kclock⟩ := v.discard_frame l reason (.undo n.g)
  obtain ⟨kgone, kbroadcast⟩ := v.discard_reports l reason (.undo n.g)
  have khears := v.discard_hears l reason (.undo n.g)
  have kgives := v.discard_gives l reason (.undo n.g)
  have kraises := v.discard_raises l reason (.undo n.g)
  rw [hgen] at kgone kraises
  rw [← ht] at kingress khead kregions kfree ksettings kclock kgone kbroadcast khears kgives kraises
  refine ⟨?_, ?_, kingress.trans ?_, khead.trans ?_, kregions.trans (by rw [hstore]; rfl),
    kfree.trans (by rw [hstore]; rfl), ?_, ?_, ?_, kbroadcast.trans (by rw [hscan]; rfl),
    kflags.trans (by rw [hctl]; rfl), kraises, kclock.trans hclock, ksettings.trans hsettings⟩
  · rw [State.lane, klanes, PerLane.get_set_same, hlane, LaneRec.discarded, hfloor]
    rfl
  · rw [State.lane, klanes, PerLane.get_set_other]
    exact hother
  · rw [hingress]; rfl
  · rw [hhead]; rfl
  · exact State.givesUpSegment_of kgives hstore hsweeper hscan hctl hchoices (by rw [hlane]; rfl)
  · exact State.reportsGone_congr kgone hscan.symm (by rw [hbus]; rfl) (by rw [hlane]; rfl) rfl rfl
      ⟨rfl, rfl, rfl⟩
  · exact State.hearsReport_congr khears (by rw [hscan]; rfl) (by rw [hscan]; rfl) rfl rfl rfl

/-- Settles O18: R26 is tested before R27, on the view just taken. -/
theorem overtakenOrRevisedIsDiscarded : Obligations.OvertakenOrRevisedIsDiscarded := by
  intro s l x n hhead hstate hn stale overtaken revised viewed
  have hlane := (s.popIngress.viewNotice_frame l x).1
  have hover : ((s.popIngress.viewNotice l x).lane l).overtaken n = true ↔ overtaken := by
    rw [hlane]
    exact LaneRec.overtaken_withView _ _ _
  have hrevised : n.revisedBy x = true ↔ revised := n.revisedBy_iff x
  have hexec : exec .notice s = .next
      (if ((s.popIngress.viewNotice l x).lane l).overtaken n then
        (s.popIngress.viewNotice l x).discardUndo l .overtaken
      else if n.revisedBy x then (s.popIngress.viewNotice l x).discardUndo l .revised
      else s.popIngress.viewNotice l x) := by
    rw [exec_notice_eq hhead, State.judgeNotice_of_staging (n := n)]
    · rw [hlane]; exact hstate
    · rw [hlane]; exact hn
  have hstale : stale → s.popIngress.viewNotice l x = viewed.countUplink .passed :=
    fun h => State.viewNotice_of_stale (s := s.popIngress) h
  have husable : ¬ stale → s.popIngress.viewNotice l x = viewed :=
    fun h => State.viewNotice_of_usable (s := s.popIngress) (Nat.lt_of_not_le h)
  have hraises : ∀ t rises, (s.popIngress.viewNotice l x).raises t rises →
      (stale → (s.countUplink .passed).raises t rises) ∧ (¬ stale → s.raises t rises) := by
    intro t rises ht
    refine ⟨fun h => ?_, fun h => ?_⟩
    · rw [hstale h] at ht
      exact State.raises_congr ht ⟨rfl, rfl, rfl, rfl⟩ rfl ⟨rfl, rfl, rfl, rfl⟩ rfl
    · rw [husable h] at ht
      exact State.raises_congr ht ⟨rfl, rfl, rfl, rfl⟩ rfl ⟨rfl, rfl, rfl, rfl⟩ rfl
  refine ⟨?_, fun hnot hnotrev => ?_⟩
  · rintro reason code (⟨hov, rfl, rfl⟩ | ⟨hnot, hrev, rfl, rfl⟩)
    · rw [if_pos (hover.mpr hov)] at hexec
      obtain ⟨h1, h2, h3, h4, h5, h6, h7, h8, h9, h10, h11, hraised, hclock, hset⟩ :=
        State.discardUndo_viewed (x := x) hn (reason := .overtaken) (fun _ _ => rfl) rfl
      exact ⟨_, hexec, h1, h2, h3, h4, h5, h6, h7, h8, h9, h10, h11, hraises _ _ hraised, hclock, hset⟩
    · rw [if_neg (hnot ∘ hover.mp), if_pos (hrevised.mpr hrev)] at hexec
      obtain ⟨h1, h2, h3, h4, h5, h6, h7, h8, h9, h10, h11, hraised, hclock, hset⟩ :=
        State.discardUndo_viewed (x := x) hn (reason := .revised) (fun _ _ => rfl) rfl
      exact ⟨_, hexec, h1, h2, h3, h4, h5, h6, h7, h8, h9, h10, h11, hraises _ _ hraised, hclock, hset⟩
  · rw [hexec, if_neg (hnot ∘ hover.mp), if_neg (hnotrev ∘ hrevised.mp)]
    exact ⟨fun h => by rw [hstale h], fun h => by rw [husable h]⟩

end Sys2Proof.Machine
end

section
/-! Weights, digests and the figures of a delivery (O35, O36). -/

namespace Sys2Proof.Machine

/-! ### Levels of a digest (R94) -/

theorem Digest.levelIn_level_same (d : Digest) (p : Fin 8) (w : Sum) :
    (d.levelIn p w).levels[p] = { count := d.levels[p].count + 1, sum := d.levels[p].sum + w } := by
  simp [Digest.levelIn]

theorem Digest.levelOut_level_same (d : Digest) (p : Fin 8) (w : Sum) :
    (d.levelOut p w).levels[p] = { count := d.levels[p].count - 1, sum := d.levels[p].sum - w } := by
  simp [Digest.levelOut]

theorem Digest.levelIn_level_other (d : Digest) {p l : Fin 8} (h : l ≠ p) (w : Sum) :
    (d.levelIn p w).levels[l] = d.levels[l] :=
  Vector.getElem_set_ne p.isLt l.isLt fun hpl => h (Fin.ext hpl.symm)

theorem Digest.levelOut_level_other (d : Digest) {p l : Fin 8} (h : l ≠ p) (w : Sum) :
    (d.levelOut p w).levels[l] = d.levels[l] :=
  Vector.getElem_set_ne p.isLt l.isLt fun hpl => h (Fin.ext hpl.symm)

theorem Digest.zero_level (l : Fin 8) : Digest.zero.levels[l] = { count := 0, sum := 0 } := by
  simp [Digest.zero]

/-! ### The weight of an entry (R90) -/

/-- The product of R90 before the reduction. -/
theorem blockProduct_lt {upper lower : Nat} (hu : upper < 2 ^ 28) (hl : lower < 2 ^ 28) :
    (lower + 1) * (upper + 40503) < 2 ^ 28 * (2 ^ 28 + 40503) :=
  Nat.mul_lt_mul_of_le_of_lt hl (Nat.add_lt_add_right hu _) (by decide)

/-- Settles O35: the weights are R90's and R91's, a change touches the level it names, and the effective
capacity is R96's. -/
theorem weightAndEffectiveCapacity : Obligations.WeightAndEffectiveCapacity := by
  refine ⟨fun token priority htoken _ => ?_, fun r last concession transfer hlast hconc htrans => ?_,
    fun _ _ _ => ⟨rfl, rfl⟩, ⟨rfl, rfl, Digest.zero_level⟩, fun d token p q => ⟨?_, ?_, fun hqp => ?_⟩,
    fun _ _ => rfl, fun classCapacity reported => ⟨?_, ?_, ?_⟩⟩
  · intro upper lower
    have hu : upper < 2 ^ 28 := Nat.div_lt_of_lt_mul (Nat.lt_of_lt_of_eq htoken (by decide))
    have hl : lower < 2 ^ 28 := Nat.mod_lt _ (by decide)
    have hprod := blockProduct_lt hu hl
    exact ⟨Nat.le_of_lt_succ hu, Nat.le_of_lt_succ hl, hprod, Nat.lt_trans hprod (by decide),
      BitVec.toNat_ofNat _ _⟩
  · have hl : r.lastDay.getD 65536 = last := by rcases hlast with h | ⟨h, rfl⟩ <;> rw [h] <;> rfl
    have hc : r.concession.getD 65536 = concession := by
      rcases hconc with h | ⟨h, rfl⟩ <;> rw [h] <;> rfl
    have ht : r.transfer.getD 0 = transfer := by rcases htrans with h | ⟨h, rfl⟩ <;> rw [h] <;> rfl
    have hweight := productWeight_toNat r
    rw [hl, hc, ht] at hweight
    refine ⟨hweight, fun hfits hordered => ?_⟩
    obtain ⟨_, _, _, hconcession, hlastDay, htransfer, _⟩ := id hfits
    have hbound := productWeight_le hfits hordered
      (last := last) (concession := concession) (transfer := transfer)
      (hlast.elim (fun h => Nat.le_of_lt (hlastDay _ h)) fun h => Nat.le_of_eq h.2)
      (hconc.elim (fun h => Nat.le_of_lt (hconcession _ h)) fun h => Nat.le_of_eq h.2)
      (htrans.elim (fun h => Nat.le_of_lt_succ (htransfer _ h).2) fun h => h.2 ▸ by decide)
    exact ⟨hbound, hweight.trans (Nat.mod_eq_of_lt (Nat.lt_of_le_of_lt hbound (by decide)))⟩
  · exact ⟨rfl, rfl, Digest.levelIn_level_same _ _ _, fun l h => Digest.levelIn_level_other _ h _⟩
  · exact ⟨rfl, rfl, Digest.levelOut_level_same _ _ _, fun l h => Digest.levelOut_level_other _ h _⟩
  · refine ⟨rfl, rfl, ?_, ?_, fun l hp hq => ?_⟩
    · refine (Digest.levelIn_level_same _ _ _).trans ?_
      rw [Digest.levelOut_level_other _ hqp.symm]
    · exact (Digest.levelIn_level_other _ hqp _).trans (Digest.levelOut_level_same _ _ _)
    · exact (Digest.levelIn_level_other _ hp _).trans (Digest.levelOut_level_other _ hq _)
  · rintro rfl
    simp [effectiveCapacity]
  · exact fun h => if_pos h
  · exact fun h => if_neg h

/-! ### Suffixes and the cutoff (R98, R99) -/

theorem Digest.levelsFrom_eq_cons (d : Digest) (l : Fin 8) :
    d.levelsFrom l.val = d.levels[l] :: d.levelsFrom (l.val + 1) := by
  rw [Digest.levelsFrom, List.drop_eq_getElem_cons (by simp)]
  simp [Digest.levelsFrom]

theorem Digest.suffixCount_eq_add (d : Digest) (l : Fin 8) :
    d.suffixCount l.val = d.levels[l].count + d.suffixCount (l.val + 1) := by
  simp only [Digest.suffixCount, d.levelsFrom_eq_cons l, List.map_cons, ← List.sum_eq_foldl,
    List.sum_cons]

theorem Digest.suffixSum_eq_add (d : Digest) (l : Fin 8) :
    d.suffixSum l.val = d.levels[l].sum + d.suffixSum (l.val + 1) := by
  simp only [Digest.suffixSum, d.levelsFrom_eq_cons l, List.map_cons, ← List.sum_eq_foldl,
    List.sum_cons]

theorem Digest.levelsFrom_eight (d : Digest) : d.levelsFrom 8 = [] :=
  List.drop_of_length_le (by simp)

theorem Digest.suffixCount_eight (d : Digest) : d.suffixCount 8 = 0 := by
  rw [Digest.suffixCount, d.levelsFrom_eight]; rfl

theorem Digest.suffixSum_eight (d : Digest) : d.suffixSum 8 = 0 := by
  rw [Digest.suffixSum, d.levelsFrom_eight]; rfl

theorem Digest.suffixCount_seven (d : Digest) : d.suffixCount 7 = d.levels[7].count := by
  have h := d.suffixCount_eq_add 7
  rwa [show (7 : Fin 8).val + 1 = 8 from rfl, d.suffixCount_eight] at h

theorem Digest.suffixSum_seven (d : Digest) : d.suffixSum 7 = d.levels[7].sum := by
  have h := d.suffixSum_eq_add 7
  rw [show (7 : Fin 8).val + 1 = 8 from rfl, d.suffixSum_eight] at h
  exact h.trans (BitVec.add_zero _)

/-- R98: the cutoff is the lowest level whose suffix fits. -/
theorem Digest.cutoff_eq_some {d : Digest} {capacity l : Nat} (h : d.cutoff capacity = some l) :
    l ≤ 7 ∧ d.suffixCount l ≤ capacity ∧ ∀ k < l, capacity < d.suffixCount k := by
  rw [Digest.cutoff, show [0, 1, 2, 3, 4, 5, 6, 7] = List.range 8 from rfl,
    List.find?_range_eq_some] at h
  obtain ⟨hfits, hmem, hlower⟩ := h
  exact ⟨Nat.le_of_lt_succ (List.mem_range.mp hmem), of_decide_eq_true hfits,
    fun k hk => by simpa using hlower k hk⟩

/-- R99: no level fits exactly if level 7 does not, whose suffix is the least. -/
theorem Digest.cutoff_eq_none_iff (d : Digest) (capacity : Nat) :
    d.cutoff capacity = none ↔ capacity < d.suffixCount 7 := by
  have hmono : ∀ l : Fin 8, d.suffixCount (l.val + 1) ≤ d.suffixCount l.val := fun l =>
    (d.suffixCount_eq_add l).symm ▸ Nat.le_add_left _ _
  have hdown : ∀ k, k ≤ 7 → d.suffixCount 7 ≤ d.suffixCount (7 - k) := by
    intro k hk
    induction k with
    | zero => exact Nat.le_refl _
    | succ k ih =>
      have hstep := hmono ⟨7 - (k + 1), by omega⟩
      rw [show 7 - (k + 1) + 1 = 7 - k by omega] at hstep
      exact Nat.le_trans (ih (by omega)) hstep
  have hchain : ∀ l, l ≤ 7 → d.suffixCount 7 ≤ d.suffixCount l := fun l hl => by
    have hl' := hdown (7 - l) (by omega)
    rwa [Nat.sub_sub_self hl] at hl'
  rw [Digest.cutoff, List.find?_eq_none]
  refine ⟨fun h => by simpa using h 7 (by decide), fun h l hl => ?_⟩
  have hle : l ≤ 7 := by
    simp only [List.mem_cons, List.not_mem_nil, or_false] at hl
    omega
  simpa using Nat.lt_of_lt_of_le h (hchain l hle)

/-- Settles O36: by the cutoff found or not found. -/
theorem fitFiguresNeverExceedCapacity : Obligations.FitFiguresNeverExceedCapacity := by
  intro capacity d
  have hnone := d.cutoff_eq_none_iff capacity
  rw [d.suffixCount_seven] at hnone
  have hsuffixes : (∀ l : Fin 7,
      d.suffixCount l.val = d.levels[l.val].count + d.suffixCount (l.val + 1))
      ∧ ∀ l : Fin 7, d.suffixSum l.val = d.levels[l.val].sum + d.suffixSum (l.val + 1) :=
    ⟨fun l => d.suffixCount_eq_add l.castSucc, fun l => d.suffixSum_eq_add l.castSucc⟩
  cases hcut : d.cutoff capacity with
  | none =>
    have hf : fitBlock capacity d =
        { capacity := capacity, cutoff := 7, truncated := true, expectCount := capacity,
          expectSum := 0 } := by
      simp only [fitBlock, hcut]
    simp only [hf]
    exact ⟨trivial, Nat.le_refl _, Nat.le_refl _, hsuffixes.1, d.suffixCount_seven, hsuffixes.2, d.suffixSum_seven,
      ⟨fun _ => hnone.mp hcut, fun _ => trivial⟩, fun _ => ⟨trivial, trivial⟩, nofun⟩
  | some l =>
    obtain ⟨hle, hfits, hlower⟩ := Digest.cutoff_eq_some hcut
    have hf : fitBlock capacity d =
        { capacity := capacity, cutoff := l, truncated := false, expectCount := d.suffixCount l,
          expectSum := d.suffixSum l } := by
      simp only [fitBlock, hcut]
    simp only [hf]
    refine ⟨trivial, hfits, hle, hsuffixes.1, d.suffixCount_seven, hsuffixes.2, d.suffixSum_seven,
      ⟨nofun, fun h => ?_⟩, nofun, fun _ => ⟨hfits, hlower, trivial, trivial⟩⟩
    rw [hnone.mpr h] at hcut
    cases hcut

end Sys2Proof.Machine
end

section
/-! The link's own steps and the frames of the part (O41). -/

namespace Sys2Proof.Machine

/-! ### Frames -/

theorem BusFrame.deliveryLane_iff (frame : BusFrame) (l : Lane) :
    frame.deliveryLane = some l ↔
      (∃ g n k c, frame = .open l g n k c) ∨ (∃ g n items, frame = .batch l g n items)
      ∨ ∃ g, frame = .close l g := by
  cases frame
  all_goals simp [BusFrame.deliveryLane]

theorem Link.broadcastOnLine_iff (k : Link) (w : Switch) :
    k.broadcastOnLine = some w ↔ k = .sending (.broadcast w) ∨ k = .postBroadcast w := by
  unfold Link.broadcastOnLine
  split
  all_goals simp_all

/-! ### What the bus commands do in each state of the link (R122, R126, R146) -/

theorem broadcastSwitchStep_eq {s : State} {w : Switch} {ws : List Switch}
    (hw : s.scan.broadcast = w :: ws) (hlink : s.bus.link = .idle) (hbuild : s.scan.build = none) :
    broadcastSwitchStep s = { s with
      bus := { s.bus with
        link := .sending (.broadcast w), line := busBytes 0 (.switch w.lane w.generation) },
      scan := { s.scan with
        exchanged := if s.scan.phase = .visiting then true else s.scan.exchanged } } := by
  simp only [broadcastSwitchStep, hw, hlink, hbuild]

theorem Bus.startBit_of_waiting {b : Bus} {x : Addressed} (h : b.link = .waiting x) :
    b.startBit = { b with link := .receiving x [] } := by
  simp only [Bus.startBit, h]

/-- Outside an exchange a start bit begins stray traffic (R126). -/
def Link.strays (k : Link) : Prop :=
  k = .idle ∨ (∃ x o, k = .turnaround x o) ∨ (∃ w, k = .postBroadcast w) ∨ k = .postReset

theorem Bus.startBit_of_strays {b : Bus} (h : b.link.strays) :
    b.startBit = { b with strayRun := true } := by
  obtain h | ⟨x, o, h⟩ | ⟨w, h⟩ | h := h
  all_goals simp only [Bus.startBit, h]

theorem Bus.idleGap_of_strays {b : Bus} (h : b.link.strays) (hrun : b.strayRun = true) :
    b.idleGap = { b with stray := min (b.stray + 1) 65535, strayRun := false } := by
  obtain h | ⟨x, o, h⟩ | ⟨w, h⟩ | h := h
  all_goals
    simp only [Bus.idleGap, h, hrun, if_true]
    rw [← h]
    rfl

theorem Bus.idleGap_of_receiving {b : Bus} {x : Addressed} {chars : List RxChar}
    (h : b.link = .receiving x chars) (hrun : b.strayRun = false) :
    b.idleGap = { b with link := .turnaround x (.miss .damaged) } := by
  simp only [Bus.idleGap, h, hrun, Bool.false_eq_true, if_false]

/-- Settles O41: the frames by their forms, the steps by the state of the link. -/
theorem linkGoesThroughItsStates : Obligations.LinkGoesThroughItsStates := by
  refine ⟨fun destination frame => ?_, Link.broadcastOnLine_iff, fun s hp => ?_⟩
  · intro item named sent
    refine ⟨?_, ?_, ?_, fun l g => ⟨?_, ?_, ?_⟩, frame.deliveryLane_iff⟩
    · rintro rfl
      rfl
    · rintro l g count cutoff truncated rfl
      rfl
    · rintro l g number items rfl
      have hitem : item = encodeBatchItem := by
        funext i
        cases i <;> rfl
      rw [hitem]
      rfl
    all_goals
      rintro rfl
      rfl
  · refine ⟨fun w ws hw hlink hbuild => ?_, fun x hlink => ?_, fun w hlink => ?_,
      fun x hlink => ⟨?_, ?_⟩, fun x chars hlink hrun => ?_, fun hstrays => ⟨?_, fun hrun => ?_⟩⟩
    · rw [exec_of_running hp]
      exact congrArg Host.Outcome.next (broadcastSwitchStep_eq hw hlink hbuild)
    · rw [exec_of_running hp]
      simp only [actOf, busFrameSentStep, hlink, Link.frameSent, State.setLink]
    · rw [exec_of_running hp]
      simp only [actOf, busFrameSentStep, hlink, Link.frameSent, State.setLink]
    · rw [exec_of_running hp]
      simp only [actOf, Bus.startBit_of_waiting hlink]
    · rw [exec_of_running hp]
      simp only [actOf, hlink, Link.windowEnd, State.setLink]
    · rw [exec_of_running hp]
      simp only [actOf, Bus.idleGap_of_receiving hlink hrun]
    · rw [exec_of_running hp]
      simp only [actOf, Bus.startBit_of_strays hstrays]
    · rw [exec_of_running hp]
      simp only [actOf, Bus.idleGap_of_strays hstrays hrun]

end Sys2Proof.Machine
end

section
/-! Commands that are answered without being carried out (O48). -/

namespace Sys2Proof.Machine

theorem argNone_eq_none {args : List Byte} (h : args ≠ []) : argNone args = none := by
  cases args with
  | nil => exact absurd rfl h
  | cons _ _ => rfl

/-! ### The head of the control queue (R173, R174) -/

section
variable (s : State) (code : Nat) (carry : CommandHead → List Byte → State → State)

/-- A code outside the command table is answered by whichever step meets it (R174). -/
theorem State.takeCommand_unknown {m : ControlMessage} (hknown : 1 ≤ code ∧ code ≤ 17)
    (hcommand : s.ctl.command = .available) (hhead : s.uplink.control.head? = some m)
    (hcode : ¬(1 ≤ m.code.toNat ∧ m.code.toNat ≤ 17)) :
    s.takeCommand code carry = s.popControl.answer m.head .unknown [] := by
  obtain ⟨rest, hrest⟩ := List.head?_eq_some_iff.mp hhead
  have hne : m.code.toNat ≠ code := fun h => hcode (h ▸ hknown)
  have hnot : codeKnown m.code.toNat = false := decide_eq_false hcode
  simp only [State.takeCommand, hcommand, hrest, if_neg hne, hnot, Bool.false_eq_true, if_false]

end

/-- What a command of a code does when it is not carried out (R173, R174). -/
def State.RefusesWith (s : State) (c : Instr) (code : Nat) (unread : List Byte → Prop) : Prop :=
  (∀ m, s.ctl.command = .available → s.uplink.control.head? = some m →
    ¬(1 ≤ m.code.toNat ∧ m.code.toNat ≤ 17) →
    exec c s = .next (s.popControl.answer m.head .unknown []))
  ∧ (∀ m, s.takes m code → unread m.args →
    exec c s = .next (s.popControl.answer m.head .argument []))
  ∧ (s.ctl.command ≠ .available → c ≠ .status → exec c s = .next s)
  ∧ (∀ a, s.ctl.command = .placing a → exec c s = .next s)

theorem State.refusesWith_of_takeCommand {s : State} (hp : s.power = .running) {c : Instr} {code : Nat}
    {α : Type} {read : List Byte → Option α} {carry : CommandHead → α → State → State}
    (hc : actOf c s = s.takeCommand code (withArgs read carry)) (hknown : 1 ≤ code ∧ code ≤ 17) :
    s.RefusesWith c code (fun args => read args = none) := by
  have hbusy : s.ctl.command ≠ .available → exec c s = .next s := fun h => by
    rw [exec_of_running hp, hc, State.takeCommand_busy h]
  refine ⟨fun m hcommand hhead hcode => ?_, fun m htakes hread => ?_, fun h _ => hbusy h,
    fun a ha => hbusy (by simp [ha])⟩
  · rw [exec_of_running hp, hc, s.takeCommand_unknown code _ hknown hcommand hhead hcode]
  · rw [exec_of_running hp, hc, State.takeCommand_takes htakes, withArgs_of_none hread]

/-- A command that is refused on a weaker condition is refused on a stronger one. -/
theorem State.RefusesWith.mono {s : State} {c : Instr} {code : Nat} {p q : List Byte → Prop}
    (h : s.RefusesWith c code p) (hpq : ∀ args, q args → p args) : s.RefusesWith c code q := by
  obtain ⟨hunknown, hargument, hbusy, hplacing⟩ := h
  exact ⟨hunknown, fun m htakes hq => hargument m htakes (hpq _ hq), hbusy, hplacing⟩

/-! ### STATUS -/

theorem statusStep_in_turn {s : State} (h : s.outOfTurn = false) :
    statusStep s = s.takeCommand 1 fun head args s =>
      (s.deliverAnswer { head := head, body := statusAnswer head args s, addressing := none,
                         restart := false }).statusTaken args := by
  simp only [statusStep, h]

theorem State.outOfTurn_of_available {s : State} (h : s.ctl.command = .available) :
    s.outOfTurn = false := by
  simp only [State.outOfTurn, h]

theorem State.outOfTurn_of_placing {s : State} {a : PendingAnswer} (h : s.ctl.command = .placing a) :
    s.outOfTurn = false := by
  simp only [State.outOfTurn, h]

theorem State.outOfTurn_iff {s : State} {h : CommandHead} {w : CommandWork}
    (hc : s.ctl.command = .carryingOut h w) :
    s.outOfTurn = true ↔ w ≠ .restart ∧ s.uplink.egress.length < 8 := by
  cases w
  all_goals simp [State.outOfTurn, hc, State.egressRoom]

theorem statusAnswer_refused {h : CommandHead} {args : List Byte} (hargs : args ≠ []) (s : State) :
    statusAnswer h args s = answerBody h .argument [] := by
  simp only [statusAnswer, argNone_eq_none hargs]

theorem State.statusTaken_refused {args : List Byte} (hargs : args ≠ []) (s : State) :
    s.statusTaken args = s := by
  simp only [State.statusTaken, argNone_eq_none hargs]

/-- A STATUS that is not in turn and does not go out of turn stays in the queue (R173). -/
theorem statusStep_waits {s : State} (hturn : s.outOfTurn = false) (hc : s.ctl.command ≠ .available) :
    statusStep s = s :=
  (statusStep_in_turn hturn).trans (State.takeCommand_busy hc _ _)

theorem State.refusesWith_status {s : State} (hp : s.power = .running) :
    s.RefusesWith .status 1 (fun args => args ≠ []) := by
  refine ⟨fun m hcommand hhead hcode => ?_, fun m htakes hargs => ?_, fun _ h => absurd rfl h,
    fun a ha => ?_⟩
  · rw [exec_of_running hp]
    refine congrArg Host.Outcome.next ?_
    exact (statusStep_in_turn (State.outOfTurn_of_available hcommand)).trans
      (s.takeCommand_unknown 1 _ (by decide) hcommand hhead hcode)
  · have hturn := State.outOfTurn_of_available htakes.2.1
    rw [exec_of_running hp]
    refine congrArg Host.Outcome.next ((statusStep_in_turn hturn).trans ?_)
    rw [State.takeCommand_takes htakes, State.statusTaken_refused hargs, statusAnswer_refused hargs]
    rfl
  · rw [exec_of_running hp]
    exact congrArg Host.Outcome.next
      (statusStep_waits (State.outOfTurn_of_placing ha) (by simp [ha]))

/-- A STATUS with arguments out of turn (R173, R174). -/
theorem statusStep_refused_out_of_turn {s : State} {m : ControlMessage} (hturn : s.outOfTurn = true)
    (hhead : s.uplink.control.head? = some m) (hcode : m.code.toNat = 1) (hargs : m.args ≠ []) :
    statusStep s = { s with uplink := { s.uplink with
      control := s.uplink.control.tail,
      egress := s.uplink.egress ++
        [{ kind := .answer, body := [m.unitId, m.tag, m.code, 2],
           unitMac := s.settings.addressing.unitMac,
           gatewayMac := s.settings.addressing.gatewayMac,
           etherType := s.settings.addressing.etherType, restart := false }] } } := by
  obtain ⟨rest, hrest⟩ := List.head?_eq_some_iff.mp hhead
  unfold statusStep
  simp only [hturn, hrest, if_pos hcode, State.statusTaken_refused hargs, statusAnswer_refused hargs]
  simp only [State.place, State.popControl, hrest]
  rfl

/-- STATUS with arguments, while another command is carried out. -/
theorem exec_status_refused {s : State} {h : CommandHead} {w : CommandWork} {m : ControlMessage}
    (hp : s.power = .running) (hc : s.ctl.command = .carryingOut h w)
    (hhead : s.uplink.control.head? = some m) (hone : m.code.toNat = 1) (hargs : m.args ≠ []) :
    (w ≠ .restart → s.uplink.egress.length < 8 →
      exec .status s = .next { s with uplink := { s.uplink with
        control := s.uplink.control.tail,
        egress := s.uplink.egress ++
          [{ kind := .answer, body := [m.unitId, m.tag, m.code, 2],
             unitMac := s.settings.addressing.unitMac,
             gatewayMac := s.settings.addressing.gatewayMac,
             etherType := s.settings.addressing.etherType, restart := false }] } })
    ∧ ((w = .restart ∨ 8 ≤ s.uplink.egress.length) → exec .status s = .next s) := by
  have hturn := State.outOfTurn_iff hc
  rw [exec_of_running hp]
  refine ⟨fun hw hroom => ?_, fun hwait => ?_⟩
  · exact congrArg Host.Outcome.next
      (statusStep_refused_out_of_turn (hturn.mpr ⟨hw, hroom⟩) hhead hone hargs)
  · refine congrArg Host.Outcome.next (statusStep_waits ?_ (by simp [hc]))
    refine Bool.eq_false_iff.mpr fun h => ?_
    obtain ⟨hw, hroom⟩ := hturn.mp h
    exact hwait.elim hw (Nat.not_le_of_lt hroom)

/-! ### The arguments read -/

theorem regionSize_le (k : Fin 4) (l : Lane) : regionSize k l ≤ 65536 := by
  revert k
  cases l
  all_goals decide

/-- The arguments of a CONTROL that a command cannot read (section 11.1 and each command's rule). -/
def State.unreadArgs (s : State) (c : Instr) (args : List Byte) : Prop :=
  match c with
  | .status | .save | .restart => args ≠ []
  | .setSplit => argSplit args = none
  | .subscribe => argSubscribe args = none
  | .setClass => argSetClass args = none
  | .setPosition => argSetPosition args = none
  | .setTiming => argSetTiming args = none
  | .setAddressing => argSetAddressing args = none
  | .events => argEvents args = none
  | .acknowledge => argMask args = none
  | .hold | .release | .rollback | .clear => argLane args = none
  | .inspect => argInspect s.size args = none
  | .inspectNext => argInspectNext args = none
  | _ => False

/-- Every command of the control unit reads its own arguments. -/
theorem State.refusesWith_unreadArgs {s : State} (hp : s.power = .running) {c : Instr} {code : Nat}
    (hcode : commandCode c = some code) : s.RefusesWith c code (s.unreadArgs c) := by
  cases c
  all_goals cases hcode
  case status => exact State.refusesWith_status hp
  case save | restart =>
    exact (State.refusesWith_of_takeCommand hp rfl (by decide)).mono fun _ => argNone_eq_none
  all_goals exact State.refusesWith_of_takeCommand hp rfl (by decide)

/-- Settles O48: the readers by their laws, each command's step by its form. -/
theorem refusedCommandOnlyAnswers : Obligations.RefusedCommandOnlyAnswers := by
  refine ⟨fun s args => ⟨argLane_iff args, argSplit_iff args, argSubscribe_iff args,
    argSetClass_iff args, argSetPosition_iff args, argSetTiming_iff args, argSetAddressing_iff args,
    argEvents_iff args, argMask_iff args,
    fun l slot count => argInspect_iff _ args l slot count (regionSize_le _ l),
    argInspectNext_iff args⟩, fun c code s hcode hp => ?_⟩
  obtain ⟨hunknown, hargument, hbusy, hplacing⟩ := State.refusesWith_unreadArgs hp hcode
  exact ⟨hunknown, hargument, hbusy, hplacing,
    fun _ _ _ hc hhead hone hargs => exec_status_refused hp hc hhead hone hargs⟩

end Sys2Proof.Machine
end

section
/-! Commands answered at once, INSPECT, SAVE, STATUS and RESTART (O49, O54, O55, O56). -/

namespace Sys2Proof.Machine

/-! ### A command carried out (R173) -/

theorem exec_of_takes {s : State} {m : ControlMessage} {c : Instr} {code : Nat} {α : Type}
    {read : List Byte → Option α} {carry : CommandHead → α → State → State} {x : α}
    (htakes : s.takes m code) (hc : actOf c s = s.takeCommand code (withArgs read carry))
    (hread : read m.args = some x) : exec c s = .next (carry m.head x s.popControl) := by
  rw [exec_of_running htakes.1, hc, State.takeCommand_takes htakes, withArgs_of_some hread]

theorem carryEvents_eq (h : CommandHead) (mask value : BitVec 16) (s : State) :
    carryEvents h (mask, value) s =
      ({ s with settings := { s.settings with
          enables := (s.settings.enables &&& ~~~mask) ||| (value &&& mask) } } : State).answer h .done
        (be 2 s.ctl.flags.toNat
          ++ be 2 ((s.settings.enables &&& ~~~mask) ||| (value &&& mask)).toNat) := rfl

/-- Settles O49: each by its carrying out. -/
theorem holdEventsAndAddressing : Obligations.HoldEventsAndAddressing := by
  refine ⟨fun s m => ?_, fun s m a htakes hread => ?_⟩
  · exact ⟨fun l hread => ⟨
        fun htakes => exec_of_takes (carry := carryHold) htakes rfl hread,
        fun htakes => exec_of_takes (carry := carryRelease) htakes rfl hread⟩,
      fun mask value hread htakes =>
        (exec_of_takes (carry := carryEvents) (c := .events) htakes rfl hread).trans
          (congrArg Host.Outcome.next (carryEvents_eq m.head mask value s.popControl)),
      fun mask hread htakes => exec_of_takes (carry := carryAcknowledge) htakes rfl hread⟩
  · obtain ⟨hmac, htype, _⟩ := (argSetAddressing_iff m.args a).mp hread
    have hexec := exec_of_takes (c := .setAddressing) htakes rfl hread
    obtain ⟨_, hcommand, _⟩ := htakes
    refine ⟨hmac, htype, fun hroom => ?_, fun hfull => ?_⟩
    · rw [hexec, carrySetAddressing, State.deliverAnswer_of_room (s := s.popControl) hroom,
        State.placeAnswer_eq]
      simp only [State.popControl, State.place, ← hcommand]
      rfl
    · rw [hexec, carrySetAddressing, State.deliverAnswer_of_full (s := s.popControl) hfull]
      rfl

/-! ### INSPECT (R186, R187) -/

theorem exec_inspectSlotRead {s : State} {h : CommandHead} {left : Nat} {done : List SlotReport}
    (hp : s.power = .running) (hgrant : s.nextGrant = some .control)
    (hc : s.ctl.command = .carryingOut h (.inspect left done)) :
    exec .inspectSlotRead s = .next ((s.granted .control).inspectRead h left done) := by
  rw [exec_of_running hp]
  simp only [actOf, inspectSlotReadStep, if_pos hgrant, hc]

theorem State.inspectRead_more (s : State) (h : CommandHead) {left : Nat} (hmore : 1 < left)
    (done : List SlotReport) :
    s.inspectRead h left done =
      { s with ctl := { s.ctl with
          inspectSlot := if s.ctl.inspectSlot + 1 < s.size s.ctl.inspectLane
            then s.ctl.inspectSlot + 1 else 0,
          command := .carryingOut h (.inspect (left - 1)
            (done ++ [{ slot := s.ctl.inspectSlot,
                        entry := (s.region s.ctl.inspectLane).read s.ctl.inspectSlot }])) } } :=
  if_neg (Nat.not_le_of_lt hmore)

theorem State.inspectRead_last (s : State) (h : CommandHead) {left : Nat} (hlast : left ≤ 1)
    (done : List SlotReport) :
    s.inspectRead h left done =
      ({ s with ctl := { s.ctl with
          inspectSlot := if s.ctl.inspectSlot + 1 < s.size s.ctl.inspectLane
            then s.ctl.inspectSlot + 1 else 0 } } : State).answer h .done
        (inspectBody s.ctl.inspectLane
          (done ++ [{ slot := s.ctl.inspectSlot,
                      entry := (s.region s.ctl.inspectLane).read s.ctl.inspectSlot }])
          (if s.ctl.inspectSlot + 1 < s.size s.ctl.inspectLane
            then s.ctl.inspectSlot + 1 else 0)) :=
  if_pos hlast

theorem encodeZones_eq (zs : List Nat) :
    encodeZones zs = zs.map (BitVec.ofNat 8) ++ List.replicate (4 - zs.length) 0 := by
  simp [encodeZones, padTo, flatMap_be_one]

/-- The presence byte of section 11.1, bit by bit. -/
theorem presenceByte_eq (concession lastDay transfer : Option Nat) :
    presenceByte concession lastDay transfer =
      (if concession.isSome then 1 else 0) + (if lastDay.isSome then 2 else 0)
        + (if transfer.isSome then 4 else 0) := by
  unfold presenceByte
  generalize concession.isSome = a
  generalize lastDay.isSome = b
  generalize transfer.isSome = c
  revert a b c
  decide

/-- Settles O54: the reports by the slot's kind, the reads by whether more are left. -/
theorem inspectReadsSlotsInOrder : Obligations.InspectReadsSlotsInOrder := by
  refine ⟨fun slot => ?_, fun s m => ⟨fun l slot count hread htakes =>
      exec_of_takes (carry := carryInspect) htakes rfl hread,
    fun count hread htakes => exec_of_takes (carry := carryInspectNext) htakes rfl hread,
    fun h left done hp hgrant hc => ⟨fun hmore => ?_, fun hlast => ?_⟩⟩⟩
  · intro report stamps zones figure
    have hreport : ∀ e record, slotFields e = record → report e record := by
      rintro e record rfl
      simp only [report, encodeSlotReport, encodeSlot, padTo, List.append_assoc]
    have hfigure : ∀ n v, figure n v = be n (v.getD 0) := by
      rintro n (_ | x) <;> rfl
    have hstamps : ∀ added removed, stamps added removed = be 3 added ++ be 3 (removed.getD 0) := by
      rintro added (_ | x) <;> rfl
    have hzones : ∀ zs, encodeZones zs = zones zs := encodeZones_eq
    refine ⟨hreport _ _ rfl, fun e => hreport _ _ ?_, fun h => hreport _ _ ?_,
      fun t => hreport _ _ ?_⟩
    · simp only [slotFields, hstamps, List.append_assoc]
      rfl
    · simp only [slotFields, hstamps, hfigure, hzones, presenceByte_eq, List.append_assoc]
      rfl
    · simp only [slotFields, hzones]
      rfl
  · rw [exec_inspectSlotRead hp hgrant hc, State.inspectRead_more _ _ hmore]
    rfl
  · rw [exec_inspectSlotRead hp hgrant hc, State.inspectRead_last _ _ hlast]
    rfl

/-! ### SAVE (R189) -/

theorem argNone_nil {args : List Byte} (h : args = []) : argNone args = some () := by
  rw [h]
  rfl

/-- Settles O55: by the place last loaded or saved. -/
theorem saveWritesTheOtherPlace : Obligations.SaveWritesTheOtherPlace := by
  refine fun s m => ⟨fun htakes hargs => ?_, fun h saved hp => ⟨fun hc => ?_, fun hc => ?_⟩⟩
  · refine ⟨_, _, exec_of_takes (carry := carrySave) htakes rfl (argNone_nil hargs), fun hlast => ?_,
      fun r hlast hplace => ?_, fun r hlast hplace => ?_⟩
    · simp [State.popControl, hlast]
    · simp [State.popControl, SettingsMemory.at, hlast, hplace]
    · simp [State.popControl, SettingsMemory.at, hlast, hplace]
  all_goals
    rw [exec_of_running hp]
    simp only [actOf, saveWriteCompleteStep, hc]
    rfl

/-! ### STATUS and RESTART (R173, R176, R191) -/

theorem statusAnswer_nil (m : ControlMessage) (s : State) :
    statusAnswer m.head [] s = [m.unitId, m.tag, m.code, 0] ++ s.standing := rfl

theorem State.statusTaken_nil (s : State) : s.statusTaken [] = { s with choices := s.choices + 1 } := rfl

/-- A STATUS without arguments is answered with a STANDING in turn. -/
theorem exec_status_takes {s : State} {m : ControlMessage} (htakes : s.takes m 1) (hargs : m.args = []) :
    exec .status s = .next ((s.popControl.deliverAnswer
      { head := m.head, body := [m.unitId, m.tag, m.code, 0] ++ s.popControl.standing,
        addressing := none, restart := false }).statusTaken []) := by
  rw [exec_of_running htakes.1]
  refine congrArg Host.Outcome.next
    ((statusStep_in_turn (State.outOfTurn_of_available htakes.2.1)).trans ?_)
  rw [State.takeCommand_takes htakes, hargs, statusAnswer_nil]

/-- A STATUS without arguments is answered with a STANDING out of turn. -/
theorem statusStep_out_of_turn {s : State} {m : ControlMessage} (hturn : s.outOfTurn = true)
    (hhead : s.uplink.control.head? = some m) (hcode : m.code.toNat = 1) (hargs : m.args = []) :
    statusStep s = (s.popControl.place .answer
      ([m.unitId, m.tag, m.code, 0] ++ s.popControl.standing) false).statusTaken [] := by
  obtain ⟨rest, hrest⟩ := List.head?_eq_some_iff.mp hhead
  unfold statusStep
  simp only [hturn, hrest, if_pos hcode, hargs, statusAnswer_nil]

/-- Settles O56: in turn, out of turn, or waiting. -/
theorem statusAndRestartAnswers : Obligations.StatusAndRestartAnswers := by
  intro s m hp hhead hargs full answered waits busy
  refine ⟨fun hcode => ⟨fun hroom hturn => ?_, fun hfull => ⟨fun hc => ?_, ?_⟩, fun h hc => ?_⟩,
    fun hcode hc => ?_⟩
  · have hone : m.code.toNat = 1 := by rw [hcode]; rfl
    obtain hc | ⟨h, w, hc, hw⟩ := hturn
    · rw [exec_status_takes ⟨hp, hc, hhead, hone⟩ hargs,
        State.deliverAnswer_of_room (s := s.popControl) hroom, State.placeAnswer_eq,
        State.statusTaken_nil]
      simp only [answered, State.popControl, State.place, ← hc]
      rfl
    · rw [exec_of_running hp]
      exact congrArg Host.Outcome.next
        (statusStep_out_of_turn ((State.outOfTurn_iff hc).mpr ⟨hw, hroom⟩) hhead hone hargs)
  · have hone : m.code.toNat = 1 := by rw [hcode]; rfl
    rw [exec_status_takes ⟨hp, hc, hhead, hone⟩ hargs,
      State.deliverAnswer_of_full (s := s.popControl) hfull]
    rfl
  · rintro ⟨h, w, hc, _⟩
    rw [exec_of_running hp]
    refine congrArg Host.Outcome.next (statusStep_waits (Bool.eq_false_iff.mpr fun hturn => ?_)
      (by simp [hc]))
    exact Nat.not_lt_of_le hfull ((State.outOfTurn_iff hc).mp hturn).2
  · rw [exec_of_running hp]
    refine congrArg Host.Outcome.next (statusStep_waits (Bool.eq_false_iff.mpr fun hturn => ?_)
      (by simp [hc]))
    exact ((State.outOfTurn_iff hc).mp hturn).1 rfl
  · have htakes : s.takes m 17 := ⟨hp, hc, hhead, by rw [hcode]; rfl⟩
    have hexec := exec_of_takes (c := .restart) (carry := carryRestart) htakes rfl (argNone_nil hargs)
    refine ⟨fun hroom => ?_, fun hfull => ?_⟩
    · rw [hexec, carryRestart, State.deliverAnswer_of_room (s := s.popControl) hroom,
        State.placeAnswer_eq]
      rfl
    · rw [hexec, carryRestart, State.deliverAnswer_of_full (s := s.popControl) hfull]
      rfl

end Sys2Proof.Machine
end

section
/-! Items of a SEGMENT and replies read back (O37). -/

namespace Sys2Proof.Machine

/-! ### Fields that follow one another -/

/-- Bytes are the fields at an offset and what follows them. -/
theorem drop_eq_fieldsOf_append (ns : List Nat) (off : Nat) (bs : List Byte)
    (h : off + ns.sum ≤ bs.length) :
    bs.drop off = fieldsOf ns off bs ++ bs.drop (off + ns.sum) := by
  induction ns generalizing off with
  | nil => simp [fieldsOf]
  | cons n ns ih =>
    rw [List.sum_cons] at h ⊢
    have hcut := field_cut n (bs.drop off) (by rw [List.length_drop]; omega)
    rw [field_drop, Nat.add_zero, List.drop_drop] at hcut
    rw [hcut, ih (off + n) (by omega), fieldsOf, List.append_assoc, Nat.add_assoc]

/-! ### Parsers that read what is written -/

/-- A parser that reads exactly the bytes a writer makes of the values in range, and what follows
them. -/
def Reads {α : Type} (one : List Byte → Option (α × List Byte)) (write : α → List Byte)
    (fits : α → Prop) : Prop :=
  ∀ bs x rest, one bs = some (x, rest) ↔ fits x ∧ bs = write x ++ rest

/-- The items of a body, one after another (R195). -/
theorem parseItems_iff {α : Type} {one : List Byte → Option (α × List Byte)} {write : α → List Byte}
    {fits : α → Prop} (h : Reads one write fits) (k : Nat) (bs : List Byte) (xs : List α) :
    parseItems one k bs = some xs ↔ xs.length = k ∧ (∀ x ∈ xs, fits x) ∧ bs = xs.flatMap write := by
  induction k generalizing bs xs with
  | zero =>
    cases bs with
    | nil =>
      refine ⟨fun he => ?_, fun ⟨hlen, _⟩ => ?_⟩
      · cases he
        exact ⟨rfl, by simp, rfl⟩
      · rw [List.length_eq_zero_iff.mp hlen]
        rfl
    | cons b bs =>
      refine ⟨nofun, fun ⟨hlen, _, he⟩ => ?_⟩
      rw [List.length_eq_zero_iff.mp hlen] at he
      cases he
  | succ k ih =>
    constructor
    · intro he
      simp only [parseItems] at he
      split at he
      · cases he
      · next x rest hone =>
        obtain ⟨hx, hbs⟩ := (h bs x rest).mp hone
        obtain ⟨ys, hys, rfl⟩ := Option.map_eq_some_iff.mp he
        obtain ⟨hlen, hall, hrest⟩ := (ih rest ys).mp hys
        exact ⟨congrArg (· + 1) hlen, List.forall_mem_cons.mpr ⟨hx, hall⟩,
          by rw [hbs, hrest, List.flatMap_cons]⟩
    · rintro ⟨hlen, hall, rfl⟩
      cases xs with
      | nil => cases hlen
      | cons x xs =>
        obtain ⟨hx, hall⟩ := List.forall_mem_cons.mp hall
        have hone := (h _ x (xs.flatMap write)).mpr ⟨hx, rfl⟩
        have hitems := (ih _ xs).mpr ⟨Nat.succ.inj hlen, hall, rfl⟩
        simp only [parseItems, List.flatMap_cons, hone, hitems, Option.map_some]

/-! ### A blocklist item -/

theorem parseBlockItem_reads : Reads parseBlockItem BlockItem.bytes BlockItem.fits := by
  intro bs x rest
  constructor
  · intro h
    unfold parseBlockItem at h
    split at h
    · cases h
    · next hlen =>
      obtain ⟨op, hop, hx⟩ := Option.map_eq_some_iff.mp h
      cases hx
      refine ⟨⟨field_lt bs 1 1, field_lt bs 2 7⟩, ?_⟩
      have hcut := drop_eq_fieldsOf_append [1, 1, 7] 0 bs (by simpa using Nat.le_of_not_lt hlen)
      split at hop
      · next hadd =>
        cases hop
        simpa [BlockItem.bytes, fieldsOf, List.append_assoc, hadd] using hcut
      · split at hop
        · next hdrop =>
          cases hop
          simpa [BlockItem.bytes, fieldsOf, List.append_assoc, hdrop] using hcut
        · cases hop
  · rintro ⟨⟨hpriority, htoken⟩, rfl⟩
    obtain ⟨op, priority, token⟩ := x
    have hp : priority < 256 := hpriority
    have ht : field (be 7 token ++ rest) 0 7 = token := field_be_head 7 token rest htoken
    have hlen : 9 ≤ 1 + (1 + (7 + rest.length)) := by omega
    cases op
    all_goals
      simp [parseBlockItem, BlockItem.bytes, List.append_assoc, field_be_head, field_be_skip, drop_be,
        hp, ht, hlen]

/-! ### A product record -/

theorem takeOpt_iff (present : Bool) (n : Nat) (bs : List Byte) (v : Option Nat) (rest : List Byte) :
    takeOpt present n bs = some (v, rest) ↔
      v.isSome = present ∧ (∀ x, v = some x → x < 256 ^ n) ∧ bs = optField n v ++ rest := by
  cases present with
  | false =>
    constructor
    · intro h
      cases h
      exact ⟨rfl, nofun, rfl⟩
    · rintro ⟨hnone, _, rfl⟩
      rw [Option.isSome_eq_false_iff, Option.isNone_iff_eq_none] at hnone
      rw [hnone]
      rfl
  | true =>
    constructor
    · intro h
      simp only [takeOpt, if_true] at h
      split at h
      · cases h
      · next hlen =>
        cases h
        exact ⟨rfl, fun x hx => Option.some.inj hx ▸ field_lt bs 0 n,
          field_cut n bs (Nat.le_of_not_lt hlen)⟩
    · rintro ⟨hsome, hlt, rfl⟩
      obtain ⟨x, rfl⟩ := Option.isSome_iff_exists.mp hsome
      have hx := hlt x rfl
      simp [takeOpt, optField, field_be_head _ _ _ hx]

/-- The bits of a presence byte (section 11.1). -/
theorem presenceByte_testBit (concession lastDay transfer : Option Nat) :
    presenceByte concession lastDay transfer ≤ 7
    ∧ (presenceByte concession lastDay transfer).testBit 0 = concession.isSome
    ∧ (presenceByte concession lastDay transfer).testBit 1 = lastDay.isSome
    ∧ (presenceByte concession lastDay transfer).testBit 2 = transfer.isSome := by
  simp only [presenceByte]
  generalize concession.isSome = a
  generalize lastDay.isSome = b
  generalize transfer.isSome = c
  revert a b c
  decide

/-- A presence byte is fixed by its bits. -/
theorem eq_presenceByte {p : Nat} {concession lastDay transfer : Option Nat} (hp : p ≤ 7)
    (h0 : concession.isSome = p.testBit 0) (h1 : lastDay.isSome = p.testBit 1)
    (h2 : transfer.isSome = p.testBit 2) : p = presenceByte concession lastDay transfer := by
  rw [presenceByte, h0, h1, h2]
  obtain rfl | rfl | rfl | rfl | rfl | rfl | rfl | rfl : p = 0 ∨ p = 1 ∨ p = 2 ∨ p = 3 ∨ p = 4 ∨ p = 5
      ∨ p = 6 ∨ p = 7 := by omega
  all_goals decide

/-- A zone list read: its number, then its zones, one byte each (section 11.1). -/
theorem zones_read (r : List Byte) (zones : List Nat) (rest : List Byte) :
    (1 + field r 0 1 ≤ r.length ∧ ((r.drop 1).take (field r 0 1)).map BitVec.toNat = zones
      ∧ r.drop (1 + field r 0 1) = rest)
    ↔ zones.length < 256 ∧ (∀ z ∈ zones, z < 256)
      ∧ r = be 1 zones.length ++ zones.flatMap (be 1) ++ rest := by
  constructor
  · rintro ⟨hlen, rfl, rfl⟩
    have hcount : (((r.drop 1).take (field r 0 1)).map BitVec.toNat).length = field r 0 1 := by
      rw [List.length_map, List.length_take, List.length_drop]
      omega
    refine ⟨by rw [hcount]; exact field_lt r 0 1, fun z hz => ?_, ?_⟩
    · obtain ⟨b, _, rfl⟩ := List.mem_map.mp hz
      exact b.isLt
    · rw [hcount, flatMap_be_one, List.map_map]
      have hid : (BitVec.ofNat 8 ∘ BitVec.toNat : Byte → Byte) = id := by
        funext b
        simp
      rw [hid, List.map_id, List.append_assoc, ← List.drop_drop, List.take_append_drop]
      exact field_cut 1 r (by omega)
  · rintro ⟨hcount, hall, rfl⟩
    have hfield : field (be 1 zones.length ++ zones.flatMap (be 1) ++ rest) 0 1 = zones.length := by
      rw [List.append_assoc]
      exact field_be_head 1 _ _ hcount
    have hdrop : (be 1 zones.length ++ zones.flatMap (be 1) ++ rest).drop 1
        = zones.map (BitVec.ofNat 8) ++ rest := by
      rw [List.append_assoc, drop_be _ _ _ _ (Nat.le_refl _), flatMap_be_one]
      rfl
    have hmap : (zones.map (BitVec.ofNat 8)).map BitVec.toNat = zones := by
      rw [List.map_map]
      exact (List.map_congr_left fun z hz => Nat.mod_eq_of_lt (hall z hz)).trans (List.map_id _)
    rw [hfield]
    refine ⟨?_, ?_, ?_⟩
    · simp [flatMap_be_one]
    · rw [hdrop, List.take_left' (List.length_map ..), hmap]
    · rw [← List.drop_drop, hdrop, List.drop_left' (List.length_map ..)]

/-- What a product record holds where it is read, part after part (R195). -/
theorem parseProductRecord_eq_some {bs : List Byte} {x : ProductRecord} {rest : List Byte} :
    parseProductRecord bs = some (x, rest) ↔
      7 ≤ bs.length ∧ field bs 0 2 ≤ 4095 ∧ field bs 2 1 ≤ 7
      ∧ x.code = field bs 0 2 ∧ x.fare = field bs 3 2 ∧ x.firstDay = field bs 5 2
      ∧ ∃ r1 r2 r3, takeOpt ((field bs 2 1).testBit 0) 2 (bs.drop 7) = some (x.concession, r1)
        ∧ takeOpt ((field bs 2 1).testBit 1) 2 r1 = some (x.lastDay, r2)
        ∧ takeOpt ((field bs 2 1).testBit 2) 1 r2 = some (x.transfer, r3)
        ∧ (1 + field r3 0 1 ≤ r3.length
          ∧ ((r3.drop 1).take (field r3 0 1)).map BitVec.toNat = x.zones
          ∧ r3.drop (1 + field r3 0 1) = rest)
        ∧ 1 ≤ field r3 0 1 ∧ field r3 0 1 ≤ 8 ∧ (∀ z ∈ x.zones, z ≠ 0) ∧ x.transfer ≠ some 0 := by
  constructor
  · intro h
    unfold parseProductRecord at h
    split at h
    · cases h
    · next hlen =>
      dsimp only at h
      split at h
      · cases h
      · next hrange =>
        obtain ⟨⟨concession, r1⟩, hc, h⟩ := Option.bind_eq_some_iff.mp h
        obtain ⟨⟨lastDay, r2⟩, hl, h⟩ := Option.bind_eq_some_iff.mp h
        obtain ⟨⟨transfer, r3⟩, ht, h⟩ := Option.bind_eq_some_iff.mp h
        dsimp only at hl ht h
        split at h
        · cases h
        · next hcount =>
          split at h
          · cases h
          · next hgood =>
            cases h
            simp only [not_or, List.any_eq_true, beq_iff_eq, not_exists, not_and] at hgood
            exact ⟨by omega, by omega, by omega, rfl, rfl, rfl, r1, r2, r3, hc, hl, ht,
              ⟨by omega, rfl, rfl⟩, by omega, by omega, hgood.1, hgood.2⟩
  · rintro ⟨hlen, hcode, hpresence, hxcode, hxfare, hxfirst, r1, r2, r3, hc, hl, ht,
      ⟨hfits, hzones, hrest⟩, hone, height, hnozero, htransfer⟩
    obtain ⟨code, fare, concession, firstDay, lastDay, transfer, zones⟩ := x
    dsimp only at hxcode hxfare hxfirst hc hl ht hzones hnozero htransfer
    have hany : ¬(zones.any (· == 0) = true ∨ transfer = some 0) := by
      simp only [List.any_eq_true, beq_iff_eq, not_or, not_exists, not_and]
      exact ⟨hnozero, htransfer⟩
    unfold parseProductRecord
    rw [if_neg (by omega)]
    dsimp only
    rw [if_neg (by omega), hc, Option.bind_some, hl, Option.bind_some, ht, Option.bind_some]
    dsimp only
    rw [if_neg (by omega), hzones, if_neg hany, hrest, hxcode, hxfare, hxfirst]

/-- The fixed fields of a product record and the bytes that follow them. -/
theorem encodeRecord_append (x : ProductRecord) (rest : List Byte) :
    encodeRecord x ++ rest = be 2 x.code ++ (be 1 (presenceByte x.concession x.lastDay x.transfer)
      ++ (be 2 x.fare ++ (be 2 x.firstDay ++ (optField 2 x.concession ++ (optField 2 x.lastDay
        ++ (optField 1 x.transfer
          ++ (be 1 x.zones.length ++ x.zones.flatMap (be 1) ++ rest))))))) := by
  simp only [encodeRecord, List.append_assoc]

theorem parseProductRecord_reads :
    Reads parseProductRecord encodeRecord ProductRecord.fits := by
  intro bs x rest
  rw [parseProductRecord_eq_some]
  constructor
  · rintro ⟨hlen, hcode, hpresence, hxcode, hxfare, hxfirst, r1, r2, r3, hc, hl, ht, hzones, hone,
      height, hnozero, htransfer⟩
    obtain ⟨hcsome, hclt, hcut1⟩ := (takeOpt_iff _ _ _ _ _).mp hc
    obtain ⟨hlsome, hllt, hcut2⟩ := (takeOpt_iff _ _ _ _ _).mp hl
    obtain ⟨htsome, htlt, hcut3⟩ := (takeOpt_iff _ _ _ _ _).mp ht
    obtain ⟨hzlen, hzlt, hcut4⟩ := (zones_read r3 _ _).mp hzones
    have hcount : field r3 0 1 = x.zones.length := by
      rw [hcut4, List.append_assoc]
      exact field_be_head 1 _ _ hzlen
    refine ⟨⟨hxcode ▸ hcode, hxfare ▸ field_lt bs 3 2, hxfirst ▸ field_lt bs 5 2, hclt, hllt,
      fun v hv => ⟨Nat.pos_of_ne_zero fun h => htransfer (h ▸ hv), htlt v hv⟩, hcount ▸ hone,
      hcount ▸ height, fun z hz => ⟨Nat.pos_of_ne_zero (hnozero z hz), hzlt z hz⟩⟩, ?_⟩
    have hcut := drop_eq_fieldsOf_append [2, 1, 2, 2] 0 bs (by simpa using hlen)
    simp only [List.drop_zero, fieldsOf, List.sum_cons, List.sum_nil, Nat.zero_add, Nat.reduceAdd,
      List.append_assoc, List.nil_append] at hcut
    rw [hcut, encodeRecord_append, hcut1, hcut2, hcut3, hcut4, hxcode, hxfare, hxfirst,
      ← eq_presenceByte hpresence hcsome hlsome htsome]
  · rintro ⟨⟨hcode, hfare, hfirst, hconc, hlast, htrans, hfew, hmany, hzones⟩, rfl⟩
    obtain ⟨hseven, hbit0, hbit1, hbit2⟩ := presenceByte_testBit x.concession x.lastDay x.transfer
    rw [encodeRecord_append]
    have hread := (zones_read _ x.zones rest).mpr
      ⟨Nat.lt_of_le_of_lt hmany (by decide), fun z hz => (hzones z hz).2, rfl⟩
    have hcount : field (be 1 x.zones.length ++ x.zones.flatMap (be 1) ++ rest) 0 1
        = x.zones.length := by
      rw [List.append_assoc]
      exact field_be_head 1 _ _ (Nat.lt_of_le_of_lt hmany (by decide))
    generalize be 1 x.zones.length ++ x.zones.flatMap (be 1) ++ rest = r3 at *
    have hcode' : x.code < 256 ^ 2 := Nat.lt_of_le_of_lt hcode (by decide)
    have hpres' : presenceByte x.concession x.lastDay x.transfer < 256 ^ 1 :=
      Nat.lt_of_le_of_lt hseven (by decide)
    have f0 : ∀ bs, field (be 2 x.code ++ bs) 0 2 = x.code := fun bs => field_be_head 2 _ bs hcode'
    have f2 : ∀ bs, field (be 1 (presenceByte x.concession x.lastDay x.transfer) ++ bs) 0 1
        = presenceByte x.concession x.lastDay x.transfer := fun bs => field_be_head 1 _ bs hpres'
    have f3 : ∀ bs, field (be 2 x.fare ++ bs) 0 2 = x.fare := fun bs => field_be_head 2 _ bs hfare
    have f5 : ∀ bs, field (be 2 x.firstDay ++ bs) 0 2 = x.firstDay :=
      fun bs => field_be_head 2 _ bs hfirst
    simp only [field_be_skip, drop_be, f0, f2, f3, f5, hbit0, hbit1, hbit2, List.length_append,
      be_length, Nat.reduceLeDiff, Nat.reduceSub, List.drop_zero, Nat.le_refl]
    refine ⟨by omega, hcode, hseven, trivial, trivial, trivial,
      optField 2 x.lastDay ++ (optField 1 x.transfer ++ r3), optField 1 x.transfer ++ r3, r3,
      (takeOpt_iff _ _ _ _ _).mpr ⟨rfl, hconc, rfl⟩, (takeOpt_iff _ _ _ _ _).mpr ⟨rfl, hlast, rfl⟩,
      (takeOpt_iff _ _ _ _ _).mpr ⟨rfl, fun v hv => (htrans v hv).2, rfl⟩, hread, hcount ▸ hfew,
      hcount ▸ hmany, fun z hz => Nat.ne_of_gt (hzones z hz).1,
      fun h => absurd (htrans 0 h).1 (by decide)⟩

/-- A STATUS of any capacity field is read as sent or refused by its capacity (R196). -/
theorem parseStatus_sent {heldB stagedB heldP stagedP capacity : Nat} (readyB readyP : Bool)
    (h1 : heldB < 2 ^ 24) (h2 : stagedB < 2 ^ 24) (h3 : heldP < 2 ^ 24) (h4 : stagedP < 2 ^ 24)
    (h5 : capacity < 65536) :
    parseStatus (be 3 heldB ++ be 3 stagedB ++ be 1 (yesNo readyB) ++ be 3 heldP ++ be 3 stagedP
        ++ be 1 (yesNo readyP) ++ be 2 capacity) =
      if capacity ≤ 61440 then some
        { held := { b := heldB, p := heldP }, staged := { b := stagedB, p := stagedP },
          ready := { b := readyB, p := readyP }, capacity := capacity }
      else none := by
  split
  · next hc =>
    exact (parseStatus_iff _ _).mpr ⟨rfl, hc, fun l => by cases l <;> exact ⟨by assumption, by assumption⟩,
      rfl⟩
  · next hc =>
    refine Option.eq_none_iff_forall_ne_some.mpr fun t ht => ?_
    obtain ⟨_, hlimit, _, hbody⟩ := (parseStatus_iff _ _).mp ht
    have hcapacity := congrArg (field · 14 2) hbody
    simp only [List.append_assoc, field_be_skip, Nat.reduceLeDiff, Nat.reduceSub,
      field_be_last 2 _ h5, field_be_last 2 t.capacity (Nat.lt_of_le_of_lt hlimit (by decide))]
      at hcapacity
    exact hc (hcapacity ▸ hlimit)

/-- Settles O37: a record by the parts of its layout, a STATUS by its reader's law. -/
theorem recordsReadBack : Obligations.RecordsReadBack := by
  refine ⟨fun r => ?_, fun r rest hcode hfare hfirst hconc hlast htrans hfew hmany hzones => ?_,
    fun heldB stagedB heldP stagedP capacity readyB readyP h1 h2 h3 h4 h5 => ?_⟩
  · intro optional
    have hoptional : ∀ n v, optField n v = optional n v := by
      rintro n (_ | v) <;> rfl
    simp only [encodeRecord, presenceByte_eq, hoptional, flatMap_be_one]
  · exact (parseProductRecord_reads _ r rest).mpr
      ⟨⟨hcode, hfare, hfirst, hconc, hlast, htrans, hfew, hmany, hzones⟩, rfl⟩
  · simp only [parseReply, if_true, parseStatus_sent readyB readyP h1 h2 h3 h4 h5]
    split
    all_goals rfl

end Sys2Proof.Machine
end

section
/-! The head of the ingress queue, filtered and checked (O16). -/

namespace Sys2Proof.Machine

/-! ### The stream filter (R9) -/

theorem Settings.laneOfStream_of_unfollowed {st : Settings} {stream : Nat}
    (h : ∀ l, st.subs.get l ≠ stream) : st.laneOfStream stream = none := by
  have hb : st.subs.b ≠ stream := h .b
  have hp : st.subs.p ≠ stream := h .p
  simp only [Settings.laneOfStream, if_neg hb, if_neg hp, ite_self]

theorem Settings.laneOfStream_of_followed {st : Settings} {stream : Nat} (h0 : stream ≠ 0) {l : Lane}
    (h : st.subs.get l = stream) (hother : st.subs.get l.other ≠ stream) :
    st.laneOfStream stream = some l := by
  cases l with
  | b => exact (if_neg h0).trans (if_pos h)
  | p => exact (if_neg h0).trans ((if_neg hother).trans (if_pos h))

theorem streamIdOf_short {body : List Byte} (h : body.length < 2) : streamIdOf body = none :=
  if_neg (Nat.not_le_of_lt h)

theorem streamIdOf_long {body : List Byte} (h : 2 ≤ body.length) :
    streamIdOf body = some (field body 0 2) :=
  if_pos h

theorem State.headOf_iff (s : State) (k : CarouselKind) (body : List Byte) :
    s.headOf k = some body ↔ s.uplink.ingress.head? = some { kind := k, body := body } := by
  unfold State.headOf
  split
  · next m rest hm =>
    obtain ⟨kind, b⟩ := m
    simp only [hm, List.head?_cons, Option.some.injEq, IngressMessage.mk.injEq]
    split
    · next h => simp [h]
    · next h => simp [h]
  · next hm => simp [hm]

/-! ### The tests of a NOTICE (R10) -/

/-- The NOTICE that a body of its length holds, for a lane. -/
def noticeOf (body : List Byte) (kind : Lane) : Notice :=
  { stream := field body 0 2, kind := kind, g := field body 3 3, b := field body 6 3,
    n := field body 9 2, count := field body 11 2, sum := BitVec.ofNat 32 (field body 13 4),
    e := field body 17 4, newest := field body 21 3, oldest := field body 24 3 }

theorem parseNotice_iff (body : List Byte) (x : Notice) :
    parseNotice body = some x ↔ body.length = 27 ∧ field body 2 1 = laneCode x.kind
      ∧ x = noticeOf body x.kind := by
  unfold parseNotice
  split
  · next hlen =>
    constructor
    · intro h
      split at h
      · cases h
      · next kind hkind =>
        cases h
        exact ⟨hlen, laneOf_eq_some.mp hkind, rfl⟩
    · rintro ⟨_, hcode, hx⟩
      have hkind := laneOf_eq_some.mpr hcode
      simp only [hkind]
      rw [hx]
      rfl
  · next hlen => exact ⟨nofun, fun ⟨h, _⟩ => absurd h hlen⟩

theorem noticeWellFormed_iff (l : Lane) (size : Nat) (x : Notice) :
    noticeWellFormed l size x = true ↔ x.kind = l ∧ x.g ≠ 0 ∧ (1 ≤ x.n ∧ x.n ≤ 1024)
      ∧ (x.b = 0 ∨ x.b + 1 = x.g) ∧ ¬(l = .p ∧ x.b ≠ 0) ∧ x.g ≤ x.newest
      ∧ (x.oldest = 0 ∨ x.oldest < x.newest) ∧ x.count ≤ size := by
  simp only [noticeWellFormed, Bool.and_eq_true, decide_eq_true_eq, and_assoc]

/-- A NOTICE in the hands of the stream's lane is well-formed exactly where no test of R10 fails. -/
theorem notice_accepted_iff (l : Lane) (size : Nat) (body : List Byte) :
    (∃ x, parseNotice body = some x ∧ noticeWellFormed l size x = true) ↔
      ¬(body.length ≠ 27 ∨ field body 2 1 ≠ laneCode l ∨ (noticeOf body l).g = 0
        ∨ (noticeOf body l).n < 1 ∨ 1024 < (noticeOf body l).n
        ∨ ((noticeOf body l).b ≠ 0 ∧ (noticeOf body l).b + 1 ≠ (noticeOf body l).g)
        ∨ (l = .p ∧ (noticeOf body l).b ≠ 0) ∨ (noticeOf body l).newest < (noticeOf body l).g
        ∨ ((noticeOf body l).oldest ≠ 0 ∧ (noticeOf body l).newest ≤ (noticeOf body l).oldest)
        ∨ size < (noticeOf body l).count) := by
  have hforms : (∃ x, parseNotice body = some x ∧ noticeWellFormed l size x = true) ↔
      body.length = 27 ∧ field body 2 1 = laneCode l
        ∧ noticeWellFormed l size (noticeOf body l) = true := by
    constructor
    · rintro ⟨x, hparse, hgood⟩
      obtain ⟨hlen, hcode, hx⟩ := (parseNotice_iff body x).mp hparse
      obtain ⟨rfl, _⟩ := (noticeWellFormed_iff l size x).mp hgood
      exact ⟨hlen, hcode, hx ▸ hgood⟩
    · rintro ⟨hlen, hcode, hgood⟩
      exact ⟨noticeOf body l, (parseNotice_iff body _).mpr ⟨hlen, hcode, rfl⟩, hgood⟩
  have hkind : (noticeOf body l).kind = l := rfl
  rw [hforms, noticeWellFormed_iff]
  generalize noticeOf body l = x at *
  by_cases hp : l = .p
  · simp only [hkind, hp, true_and]
    omega
  · simp only [hkind, hp, false_and, not_false_eq_true, true_and, false_or]
    omega

/-! ### The tests of a SEGMENT (R12, R195) -/

/-- The items of one format, their number bounded (R12). -/
theorem boundedItems_iff {α : Type} {one : List Byte → Option (α × List Byte)} {write : α → List Byte}
    {fits : α → Prop} (h : Reads one write fits) (count most : Nat) (bs : List Byte)
    (f : List α → SegmentItems) (items : SegmentItems) :
    (if count < 1 ∨ most < count then none else (parseItems one count bs).map f) = some items ↔
      ∃ xs, items = f xs ∧ xs.length = count ∧ 1 ≤ count ∧ count ≤ most ∧ (∀ x ∈ xs, fits x)
        ∧ bs = xs.flatMap write := by
  split
  · next hcount => exact ⟨nofun, fun ⟨_, _, _, hone, hmany, _⟩ => by omega⟩
  · next hcount =>
    rw [Option.map_eq_some_iff]
    constructor
    · rintro ⟨xs, hxs, rfl⟩
      obtain ⟨hlen, hall, hbytes⟩ := (parseItems_iff h count bs xs).mp hxs
      exact ⟨xs, rfl, hlen, by omega, by omega, hall, hbytes⟩
    · rintro ⟨xs, rfl, hlen, _, _, hall, hbytes⟩
      exact ⟨xs, (parseItems_iff h count bs xs).mpr ⟨hlen, hall, hbytes⟩, rfl⟩

theorem parseSegmentItems_iff (l : Lane) (count : Nat) (bs : List Byte) (items : SegmentItems) :
    parseSegmentItems l count bs = some items ↔ items.areSent l count bs := by
  cases l with
  | b =>
    refine (boundedItems_iff parseBlockItem_reads count 64 bs .block items).trans ?_
    cases items
    all_goals simp [SegmentItems.areSent]
  | p =>
    refine (boundedItems_iff parseProductRecord_reads count 16 bs .product items).trans ?_
    cases items
    all_goals simp [SegmentItems.areSent]

theorem parseSegment_iff (l : Lane) (body : List Byte) (seg : Segment) :
    parseSegment l body = some seg ↔
      (11 ≤ body.length ∧ field body 2 3 ≠ 0 ∧ (field body 5 3 = 0 ∨ field body 5 3 + 1 = field body 2 3)
        ∧ field body 8 2 ≤ 1023)
      ∧ ∃ items : SegmentItems, items.areSent l (field body 10 1) (body.drop 11)
        ∧ seg = { stream := field body 0 2, g := field body 2 3, b := field body 5 3,
                  index := field body 8 2, items := items } := by
  unfold parseSegment
  split
  · next hlen => exact ⟨nofun, fun ⟨⟨h, _⟩, _⟩ => absurd hlen (Nat.not_lt_of_le h)⟩
  · next hlen =>
    dsimp only
    split
    · next hhead =>
      refine ⟨nofun, fun ⟨⟨_, hg, hb, hi⟩, _⟩ => ?_⟩
      obtain h | h | h := hhead
      · exact absurd h hg
      · exact absurd hb h
      · exact absurd h (Nat.not_lt_of_le hi)
    · next hhead =>
      have hgood : field body 2 3 ≠ 0 ∧ (field body 5 3 = 0 ∨ field body 5 3 + 1 = field body 2 3)
          ∧ field body 8 2 ≤ 1023 := by omega
      rw [Option.map_eq_some_iff]
      constructor
      · rintro ⟨items, hitems, rfl⟩
        exact ⟨⟨Nat.le_of_not_lt hlen, hgood⟩, items, (parseSegmentItems_iff _ _ _ _).mp hitems, rfl⟩
      · rintro ⟨_, items, hsent, rfl⟩
        exact ⟨items, (parseSegmentItems_iff _ _ _ _).mpr hsent, rfl⟩

/-! ### The two steps -/

section
variable {s : State} {body : List Byte} (hp : s.power = .running)
include hp

theorem exec_notice_short (hhead : s.headOf .notice = some body) (h : body.length < 2) :
    exec .notice s = .next (s.popIngress.countUplink .bad) := by
  rw [exec_of_running hp]
  simp only [actOf, noticeStep, hhead, streamIdOf_short h]

theorem exec_notice_unfollowed (hhead : s.headOf .notice = some body) (h : 2 ≤ body.length)
    (hl : s.settings.laneOfStream (field body 0 2) = none) :
    exec .notice s = .next (s.popIngress.countUplink .passed) := by
  rw [exec_of_running hp]
  simp only [actOf, noticeStep, hhead, streamIdOf_long h, hl]

theorem exec_notice_malformed (hhead : s.headOf .notice = some body) (h : 2 ≤ body.length) {l : Lane}
    (hl : s.settings.laneOfStream (field body 0 2) = some l)
    (hbad : ¬∃ x, parseNotice body = some x ∧ noticeWellFormed l (s.size l) x = true) :
    exec .notice s = .next (s.popIngress.countUplink .bad) := by
  rw [exec_of_running hp]
  simp only [actOf, noticeStep, hhead, streamIdOf_long h, hl]
  split
  · rfl
  · next x hx => rw [if_neg fun hgood => hbad ⟨x, hx, hgood⟩]

variable (hnone : s.uplink.checkedHead = none) (hhead : s.headOf .segment = some body)
include hnone hhead

theorem exec_segmentCheck_short (h : body.length < 2) :
    exec .segmentCheck s = .next (s.popIngress.countUplink .bad) := by
  rw [exec_of_running hp]
  simp only [actOf, segmentCheckStep, hnone, hhead, streamIdOf_short h]

theorem exec_segmentCheck_unfollowed (h : 2 ≤ body.length)
    (hl : s.settings.laneOfStream (field body 0 2) = none) :
    exec .segmentCheck s = .next (s.popIngress.countUplink .passed) := by
  rw [exec_of_running hp]
  simp only [actOf, segmentCheckStep, hnone, hhead, streamIdOf_long h, hl]

theorem exec_segmentCheck_malformed (h : 2 ≤ body.length) {l : Lane}
    (hl : s.settings.laneOfStream (field body 0 2) = some l) (hparse : parseSegment l body = none) :
    exec .segmentCheck s = .next (s.popIngress.countUplink .bad) := by
  rw [exec_of_running hp]
  simp only [actOf, segmentCheckStep, hnone, hhead, streamIdOf_long h, hl, hparse]

theorem exec_segmentCheck_wellFormed (h : 2 ≤ body.length) {l : Lane} {seg : Segment}
    (hl : s.settings.laneOfStream (field body 0 2) = some l) (hparse : parseSegment l body = some seg) :
    exec .segmentCheck s =
      .next { s with uplink := { s.uplink with checkedHead := some seg } } := by
  rw [exec_of_running hp]
  simp only [actOf, segmentCheckStep, hnone, hhead, streamIdOf_long h, hl, hparse]

end

/-- Settles O16: by the stream filter, then by the parser of the message. -/
theorem headIsFilteredAndChecked : Obligations.HeadIsFilteredAndChecked := by
  refine ⟨fun st => ⟨rfl, fun stream h0 => ⟨Settings.laneOfStream_of_unfollowed,
      fun l => Settings.laneOfStream_of_followed h0⟩⟩,
    fun s => ⟨s.headOf_iff, rfl, rfl, rfl⟩, fun s body hp hnone => ⟨fun hhead => ?_, fun hhead => ?_⟩⟩
  · refine ⟨exec_notice_short hp hhead, exec_notice_unfollowed hp hhead, fun l hlen hl => ?_⟩
    intro x malformed
    have haccept := notice_accepted_iff l (s.size l) body
    refine ⟨fun hbad => exec_notice_malformed hp hhead hlen hl fun h => haccept.mp h hbad,
      fun hgood => ?_⟩
    obtain ⟨y, hparse, hformed⟩ := haccept.mpr hgood
    obtain ⟨_, _, hy⟩ := (parseNotice_iff body y).mp hparse
    obtain ⟨hkind, _⟩ := (noticeWellFormed_iff _ _ _).mp hformed
    have hxy : y = x := by rw [hy, hkind]; rfl
    rw [← hxy]
    exact ⟨hp, ⟨body, hhead, hparse⟩, by rw [hy]; exact hl, hformed⟩
  · refine ⟨exec_segmentCheck_short hp hnone hhead, exec_segmentCheck_unfollowed hp hnone hhead,
      fun l hlen hl => ?_⟩
    intro g b index headed sent
    refine ⟨fun items hheaded hsent => exec_segmentCheck_wellFormed hp hnone hhead hlen hl
        ((parseSegment_iff l body _).mpr ⟨hheaded, items, hsent, rfl⟩),
      fun hnot => exec_segmentCheck_malformed hp hnone hhead hlen hl ?_⟩
    refine Option.eq_none_iff_forall_ne_some.mpr fun seg hseg => ?_
    obtain ⟨hheaded, items, hsent, _⟩ := (parseSegment_iff l body seg).mp hseg
    exact hnot ⟨hheaded, items, hsent⟩

end Sys2Proof.Machine
end

section
/-! What the outcome of an exchange leaves (O43, O44, O45). -/

namespace Sys2Proof.Machine

/-! ### One record changed -/

/-- The flags after one rise. -/
theorem State.raises_one_flags {s t : State} {f : EventFlag} {c : AlertContext}
    (h : s.raises t [(f, c)]) : t.ctl.flags = s.ctl.flags ||| f.bit :=
  h.1.trans (State.rise_flags _ f c)

/-- The flags after two rises. -/
theorem State.raises_two_flags {s t : State} {f g : EventFlag} {c d : AlertContext}
    (h : s.raises t [(f, c), (g, d)]) : t.ctl.flags = s.ctl.flags ||| f.bit ||| g.bit :=
  h.1.trans ((State.rise_flags _ g d).trans (congrArg (· ||| g.bit) (State.rise_flags _ f c)))

/-- An act on one validator: its record becomes `v`, the rises are made, and nothing else of what an
outcome could reach changes but a BATCH being built. -/
structure State.Leaves (s u : State) (pos : Fin 16) (v : Validator)
    (rises : List (EventFlag × AlertContext)) : Prop where
  record : u.validator pos = v
  others : ∀ q, q ≠ pos → u.validator q = s.validator q
  lanes : u.lanes = s.lanes
  store : u.store = s.store
  settings : u.settings = s.settings
  clock : u.clock = s.clock
  bus : u.bus = s.bus
  raised : s.raises u rises
  silent : rises = [] → u.ctl = s.ctl

namespace State.Leaves

theorem refl (s : State) (pos : Fin 16) : s.Leaves s pos (s.validator pos) [] where
  record := rfl
  others _ _ := rfl
  lanes := rfl
  store := rfl
  settings := rfl
  clock := rfl
  bus := rfl
  raised := State.raises_nil ⟨rfl, rfl, rfl, rfl⟩
  silent _ := rfl

theorem trans {s u t : State} {pos : Fin 16} {v w : Validator} {xs ys : List (EventFlag × AlertContext)}
    (h : s.Leaves u pos v xs) (k : u.Leaves t pos w ys) : s.Leaves t pos w (xs ++ ys) where
  record := k.record
  others q hq := (k.others q hq).trans (h.others q hq)
  lanes := k.lanes.trans h.lanes
  store := k.store.trans h.store
  settings := k.settings.trans h.settings
  clock := k.clock.trans h.clock
  bus := k.bus.trans h.bus
  raised := State.raises_append h.raised k.raised h.settings k.clock.symm
  silent hnil := by
    obtain ⟨hx, hy⟩ := List.append_eq_nil_iff.mp hnil
    exact (k.silent hy).trans (h.silent hx)

/-- An act that changes the record alone. -/
theorem setValidator (s : State) (pos : Fin 16) (v : Validator) :
    s.Leaves (s.setValidator pos v) pos v [] where
  record := State.validator_setValidator_same s pos v
  others q hq := by rw [State.validator_setValidator, if_neg hq]
  lanes := rfl
  store := rfl
  settings := rfl
  clock := rfl
  bus := rfl
  raised := State.raises_nil ⟨rfl, rfl, rfl, rfl⟩
  silent _ := rfl

theorem rise (s : State) (pos : Fin 16) (f : EventFlag) (c : AlertContext) :
    s.Leaves (s.rise f c) pos (s.validator pos) [(f, c)] where
  record := State.validator_rise s f c pos
  others q _ := State.validator_rise s f c q
  lanes := by simp
  store := by simp
  settings := by simp
  clock := by simp
  bus := by simp
  raised := State.raises_one (u := s) ⟨rfl, rfl, rfl, rfl⟩ rfl (by simp) ⟨rfl, rfl, rfl, rfl⟩
  silent h := by cases h

/-- The round going on changes no record (R143). -/
theorem settle {s u : State} {pos : Fin 16} {v : Validator} {rises : List (EventFlag × AlertContext)}
    (h : s.Leaves u pos v rises) : s.Leaves u.settleScan pos v rises where
  record := (State.validator_settleScan u pos).trans h.record
  others q hq := (State.validator_settleScan u q).trans (h.others q hq)
  lanes := by simp [h.lanes]
  store := by simp [h.store]
  settings := by simp [h.settings]
  clock := by simp [h.clock]
  bus := by simp [h.bus]
  raised := State.raises_congr h.raised ⟨rfl, rfl, rfl, rfl⟩ rfl (by simp [State.sameOutbound])
    (by simp)
  silent hnil := by simp [h.silent hnil]

end State.Leaves

/-! ### Deliveries of one position abandoned (R160) -/

/-- A delivery in progress is emptied. -/
def ValidatorLane.abandoned (y : ValidatorLane) : ValidatorLane :=
  { y with delivery := if y.delivery.state = .idle then y.delivery else Delivery.idleWith 0 }

theorem State.validator_abandonAt (s : State) (l : Lane) (pos : Fin 16) :
    (s.abandonWhere l fun p _ => decide (p = pos)).validator pos =
      (s.validator pos).setLane l ((s.validator pos).lane l).abandoned
    ∧ ∀ q, q ≠ pos →
      (s.abandonWhere l fun p _ => decide (p = pos)).validator q = s.validator q := by
  refine ⟨?_, fun q hq => ?_⟩
  · rw [State.validator_abandonWhere]
    by_cases hidle : ((s.validator pos).lane l).delivery.state = .idle
    · rw [if_neg (by simp [State.abandons, hidle]), ValidatorLane.abandoned, if_pos hidle]
      cases l <;> rfl
    · rw [if_pos (by simp [State.abandons, hidle]), ValidatorLane.abandoned, if_neg hidle]
  · rw [State.validator_abandonWhere, if_neg (by simp [State.abandons, hq])]

theorem State.Leaves.abandonAt {s : State} (hidle : s.bus.link = .idle) (l : Lane) (pos : Fin 16) :
    s.Leaves (s.abandonWhere l fun p _ => decide (p = pos)) pos
      ((s.validator pos).setLane l ((s.validator pos).lane l).abandoned) [] where
  record := (s.validator_abandonAt l pos).1
  others := (s.validator_abandonAt l pos).2
  lanes := by simp
  store := by simp
  settings := by simp
  clock := by simp
  bus := State.abandonWhere_idle hidle l _
  raised := State.raises_nil (by simp [State.sameOutbound])
  silent _ := by simp

/-! ### A miss (R141, R142) -/

theorem Validator.missPresence_lanes (v : Validator) : v.missPresence.lanes = v.lanes := by
  simp only [Validator.missPresence]
  split
  all_goals
    try split
    all_goals rfl

theorem State.Leaves.missAt {s : State} (hidle : s.bus.link = .idle) (pos : Fin 16) :
    ((s.validator pos).isLost = false →
      s.Leaves (s.missAt pos) pos (s.validator pos).missPresence [])
    ∧ ((s.validator pos).isLost = true →
      s.Leaves (s.missAt pos) pos
        { (s.validator pos).missPresence with
          lanes := { b := (s.validator pos).lanes.b.abandoned, p := (s.validator pos).lanes.p.abandoned } }
        [(.lost, { position := pos.val + 1 })]) := by
  have hset := State.Leaves.setValidator s pos (s.validator pos).missPresence
  refine ⟨fun hkept => ?_, fun hlost => ?_⟩
  · have hmiss : s.missAt pos = s.setValidator pos (s.validator pos).missPresence := by
      simp only [State.missAt, hkept, Bool.false_eq_true, if_false]
    rw [hmiss]
    exact hset
  · have hmiss : s.missAt pos = ((((s.setValidator pos (s.validator pos).missPresence).rise .lost
        { position := pos.val + 1 }).abandonWhere .b fun p _ => decide (p = pos)).abandonWhere .p
          fun p _ => decide (p = pos)) := by
      simp only [State.missAt, hlost, if_true]
    have hrise := hset.trans (State.Leaves.rise _ pos .lost { position := pos.val + 1 })
    have hb := hrise.trans (State.Leaves.abandonAt (by rw [hrise.bus]; exact hidle) .b pos)
    have hp := hb.trans (State.Leaves.abandonAt (by rw [hb.bus]; exact hidle) .p pos)
    rw [hb.record, hrise.record, hset.record] at hp
    rw [hmiss, ← Validator.missPresence_lanes]
    exact hp

/-! ### The end of the turnaround gap (R122, R127, R134, R143) -/

/-- The state in which an outcome is applied. -/
def State.gapEnded (s : State) (o : ExchangeOutcome) : State :=
  { s with bus := { s.bus.countOutcome o with link := .idle } }

theorem Bus.countOutcome_eq (b : Bus) (o : ExchangeOutcome) :
    b.countOutcome o = { b with
      damaged := if o = .miss .damaged then min (b.damaged + 1) 65535 else b.damaged,
      wrong := if o = .miss .wrong then min (b.wrong + 1) 65535 else b.wrong } := by
  unfold Bus.countOutcome
  split
  all_goals simp [bump]

/-- What the end of the gap leaves, from what the outcome leaves. -/
theorem State.Leaves.ended {s u : State} {x : Addressed} {o : ExchangeOutcome} {v : Validator}
    {rises : List (EventFlag × AlertContext)} (hends : s.ends x o)
    (happly : (s.gapEnded o).applyOutcome x o = u) (h : (s.gapEnded o).Leaves u x.pos v rises) :
    exec .turnaroundGapEnd s = .next u.settleScan
    ∧ u.settleScan.bus = { s.bus with
        link := .idle,
        damaged := if o = .miss .damaged then min (s.bus.damaged + 1) 65535 else s.bus.damaged,
        wrong := if o = .miss .wrong then min (s.bus.wrong + 1) 65535 else s.bus.wrong }
    ∧ u.settleScan.lanes = s.lanes ∧ u.settleScan.store = s.store
    ∧ (∀ q, q ≠ x.pos → u.settleScan.validator q = s.validator q)
    ∧ u.settleScan.validator x.pos = v ∧ s.raises u.settleScan rises
    ∧ (rises = [] → u.settleScan.ctl = s.ctl) := by
  have hsettled := h.settle
  refine ⟨?_, ?_, hsettled.lanes, hsettled.store, hsettled.others, hsettled.record, ?_,
    hsettled.silent⟩
  · rw [exec_turnaroundGapEnd hends, ← happly]
    rfl
  · rw [hsettled.bus, State.gapEnded, Bus.countOutcome_eq]
  · exact State.raises_congr hsettled.raised ⟨rfl, rfl, rfl, rfl⟩ rfl ⟨rfl, rfl, rfl, rfl⟩ rfl

theorem Validator.isLost_iff (v : Validator) :
    v.isLost = true ↔ v.presence = .present ∧ 3 ≤ v.missRun := by
  simp [Validator.isLost]

/-- R141 by presence. -/
theorem Validator.missPresence_eq (v : Validator) :
    v.missPresence =
      match v.presence with
      | .vacant | .seeking | .silent => { v with missCounter := min (v.missCounter + 1) 65535 }
      | .settling => { v with missCounter := min (v.missCounter + 1) 65535, presence := .seeking,
                              goodRun := 0 }
      | .present =>
        if 3 ≤ v.missRun then
          { v with missCounter := min (v.missCounter + 1) 65535, presence := .silent, missRun := 0 }
        else { v with missCounter := min (v.missCounter + 1) 65535, missRun := v.missRun + 1 } := by
  have hfour : 4 ≤ v.missRun + 1 ↔ 3 ≤ v.missRun := by omega
  cases hv : v.presence
  all_goals simp [Validator.missPresence, hv, hfour, bump]

/-- Settles O43: a position is kept or lost. -/
theorem missIsAppliedToPresence : Obligations.MissIsAppliedToPresence := by
  intro s x k hends v missed dropped
  have happly : (s.gapEnded (.miss k)).applyOutcome x (.miss k) = (s.gapEnded (.miss k)).missAt x.pos := by
    simp only [State.applyOutcome, hends.2.2, Bool.false_eq_true, if_false]
  obtain ⟨hkept, hlost⟩ := State.Leaves.missAt (s := s.gapEnded (.miss k)) rfl x.pos
  have hmiss := v.missPresence_eq
  have hlostIff := v.isLost_iff
  cases hl : v.isLost with
  | false =>
    have hnot : ¬(v.presence = .present ∧ 3 ≤ v.missRun) := fun h => by
      rw [hlostIff.mpr h] at hl
      cases hl
    obtain ⟨hexec, hbus, hlanes, hstore, hothers, hrecord, hraised, hsilent⟩ :=
      State.Leaves.ended hends happly (hkept hl)
    refine ⟨_, hexec, ?_, ?_, ?_, ?_, hothers, hlanes, hstore, fun _ => hraised, rfl, fun hp => ?_,
      fun hp => ?_, fun hp hrun => ⟨?_, hsilent rfl⟩, fun hp hrun => absurd ⟨hp, hrun⟩ hnot⟩
    · rw [hbus]
    · rw [hbus]; simp
    · rw [hbus]; simp
    · rw [hbus]
    · refine hrecord.trans (hmiss.trans ?_)
      obtain hp | hp := hp
      all_goals simp only [hp, missed]
    · refine hrecord.trans (hmiss.trans ?_)
      simp only [hp, missed]
    · refine hrecord.trans (hmiss.trans ?_)
      simp only [hp, if_neg (Nat.not_le_of_lt hrun), missed]
  | true =>
    have hyes := hlostIff.mp hl
    obtain ⟨hexec, hbus, hlanes, hstore, hothers, hrecord, hraised, hsilent⟩ :=
      State.Leaves.ended hends happly (hlost hl)
    refine ⟨_, hexec, ?_, ?_, ?_, ?_, hothers, hlanes, hstore, fun h => absurd hyes h, rfl, fun hp => ?_,
      fun hp => ?_, fun hp hrun => absurd hyes.2 (Nat.not_le_of_lt hrun), fun hp hrun => ⟨?_, ?_, hraised⟩⟩
    · rw [hbus]
    · rw [hbus]; simp
    · rw [hbus]; simp
    · rw [hbus]
    · rw [hyes.1] at hp
      obtain hp | hp := hp
      all_goals cases hp
    · rw [hyes.1] at hp
      cases hp
    · refine hrecord.trans ?_
      have hfigure := hmiss
      simp only [hp, if_pos hrun] at hfigure
      exact congrArg (fun w : Validator =>
        { w with lanes := { b := v.lanes.b.abandoned, p := v.lanes.p.abandoned } }) hfigure
    · exact State.raises_one_flags hraised

end Sys2Proof.Machine
end

section
/-! Good replies to a PRESENT validator's frames (O45). -/

namespace Sys2Proof.Machine

/-- The part before a failed attempt is counted: a DROP is owed where the target may be held with other
contents (R159). -/
def ValidatorLane.owing (y : ValidatorLane) (owed : Bool) : ValidatorLane :=
  { y with dropOwed := if owed then y.delivery.target else y.dropOwed }

namespace State.Leaves

/-! ### Acts on one lane's part -/

/-- The part of a lane changed alone. -/
theorem setLanePart (s : State) (pos : Fin 16) (l : Lane) (z : ValidatorLane) :
    s.Leaves (s.setValidator pos ((s.validator pos).setLane l z)) pos
      ((s.validator pos).setLane l z) [] :=
  setValidator s pos _

/-- A generation is marked faulty, with DELIVERY_FAULT (R159, R168). -/
theorem markFaulty (s : State) (pos : Fin 16) (l : Lane) (g : Nat) :
    s.Leaves (s.markFaulty pos l g) pos
      ((s.validator pos).setLane l { (s.validator pos).lane l with faulty := g })
      [(.deliveryFault, { position := pos.val + 1, lane := laneCode l, generation := g })] := by
  have h := setLanePart s pos l { (s.validator pos).lane l with faulty := g }
  have hrise := h.trans (rise _ pos .deliveryFault
    { position := pos.val + 1, lane := laneCode l, generation := g })
  rw [h.record] at hrise
  exact hrise

/-- A failed attempt short of the third (R159). -/
theorem failedAttempt_retry (s : State) (pos : Fin 16) (l : Lane) (owed : Bool)
    (h : ((s.validator pos).lane l).delivery.attempts + 1 < 3) :
    s.Leaves (s.failedAttempt pos l owed) pos
      ((s.validator pos).setLane l { ((s.validator pos).lane l).owing owed with
        delivery := { ((s.validator pos).lane l).delivery with
          state := .opening, attempts := ((s.validator pos).lane l).delivery.attempts + 1,
          refix := true } }) [] := by
  have hact : s.failedAttempt pos l owed =
      s.setValidator pos ((s.validator pos).setLane l { ((s.validator pos).lane l).owing owed with
        delivery := { ((s.validator pos).lane l).delivery with
          state := .opening, attempts := ((s.validator pos).lane l).delivery.attempts + 1,
          refix := true } }) := by
    simp only [State.failedAttempt, if_pos h]
    cases owed
    all_goals rfl
  rw [hact]
  exact setLanePart s pos l _

/-- The third failed attempt (R159). -/
theorem failedAttempt_last (s : State) (pos : Fin 16) (l : Lane) (owed : Bool)
    (h : 3 ≤ ((s.validator pos).lane l).delivery.attempts + 1) :
    s.Leaves (s.failedAttempt pos l owed) pos
      ((s.validator pos).setLane l { ((s.validator pos).lane l).owing owed with
        delivery := Delivery.idleWith 0, faulty := ((s.validator pos).lane l).delivery.target })
      [(.deliveryFault, { position := pos.val + 1, lane := laneCode l,
                          generation := ((s.validator pos).lane l).delivery.target })] := by
  have hact : s.failedAttempt pos l owed =
      (s.setValidator pos ((s.validator pos).setLane l
        { ((s.validator pos).lane l).owing owed with delivery := Delivery.idleWith 0 })).markFaulty pos l
          ((s.validator pos).lane l).delivery.target := by
    simp only [State.failedAttempt, if_neg (Nat.not_lt_of_le h)]
    cases owed
    all_goals rfl
  have hset := setLanePart s pos l
    { ((s.validator pos).lane l).owing owed with delivery := Delivery.idleWith 0 }
  have hmark := hset.trans (markFaulty _ pos l ((s.validator pos).lane l).delivery.target)
  rw [hset.record] at hmark
  rw [hact]
  cases l
  all_goals exact hmark

/-- The capacity reported by a REFUSE CAPACITY is kept (R161). -/
theorem noteCapacity_refused (s : State) (pos : Fin 16) (cap : Nat) :
    s.Leaves (s.noteCapacity pos (.refuseCapacity cap)) pos
      { s.validator pos with lastCapacity := cap } [] :=
  setValidator s pos _

/-- A good outcome at a PRESENT position (R140). -/
theorem goodAt_present {s : State} {pos : Fin 16} (h : (s.validator pos).presence = .present) :
    s.Leaves (s.goodAt pos) pos { s.validator pos with missRun := 0 } [] := by
  have hgood : (s.validator pos).goodPresence = { s.validator pos with missRun := 0 } := by
    simp only [Validator.goodPresence, h]
  have hjoins : (s.validator pos).joins = false := by
    simp [Validator.joins, h]
  have hact : s.goodAt pos = s.setValidator pos { s.validator pos with missRun := 0 } := by
    simp only [State.goodAt, hjoins, hgood, Bool.false_eq_true, if_false]
  rw [hact]
  exact setValidator s pos _

end State.Leaves

/-! ### Every act of a reply is an act on one record -/

/-- Some record and some rises. -/
def State.Acts (s u : State) (pos : Fin 16) : Prop := ∃ v rises, s.Leaves u pos v rises

namespace State.Acts

theorem refl (s : State) (pos : Fin 16) : s.Acts s pos := ⟨_, _, Leaves.refl s pos⟩

theorem trans {s u t : State} {pos : Fin 16} (h : s.Acts u pos) (k : u.Acts t pos) : s.Acts t pos := by
  obtain ⟨v, xs, h⟩ := h
  obtain ⟨w, ys, k⟩ := k
  exact ⟨w, _, h.trans k⟩

theorem setValidator (s : State) (pos : Fin 16) (v : Validator) : s.Acts (s.setValidator pos v) pos :=
  ⟨_, _, Leaves.setValidator s pos v⟩

theorem bus {s u : State} {pos : Fin 16} (h : s.Acts u pos) : u.bus = s.bus := by
  obtain ⟨_, _, h⟩ := h
  exact h.bus

theorem goodAt (s : State) (pos : Fin 16) : s.Acts (s.goodAt pos) pos := by
  unfold State.goodAt
  dsimp only
  split
  · exact (setValidator s pos _).trans ⟨_, _, Leaves.rise _ pos _ _⟩
  · exact setValidator s pos _

theorem failedAttempt (s : State) (pos : Fin 16) (l : Lane) (owed : Bool) :
    s.Acts (s.failedAttempt pos l owed) pos := by
  by_cases h : ((s.validator pos).lane l).delivery.attempts + 1 < 3
  · exact ⟨_, _, Leaves.failedAttempt_retry s pos l owed h⟩
  · exact ⟨_, _, Leaves.failedAttempt_last s pos l owed (Nat.le_of_not_lt h)⟩

theorem noteCapacity (s : State) (pos : Fin 16) (r : Reply) : s.Acts (s.noteCapacity pos r) pos := by
  unfold State.noteCapacity
  split
  · exact setValidator s pos _
  · exact refl s pos

/-- A lane-B delivery abandoned for the capacity reported touches its own position alone (R103). -/
theorem abandonAt {s : State} (hidle : s.bus.link = .idle) (pos : Fin 16) (l : Lane)
    (test : Delivery → Bool) : s.Acts (s.abandonWhere l fun p d => decide (p = pos) && test d) pos := by
  refine ⟨_, [], ⟨rfl, fun q hq => ?_, by simp, by simp, by simp, by simp,
    State.abandonWhere_idle hidle l _, State.raises_nil (by simp [State.sameOutbound]), by simp⟩⟩
  rw [State.validator_abandonWhere, if_neg (by simp [State.abandons, hq])]

theorem writeStatus {s : State} (hidle : s.bus.link = .idle) (pos : Fin 16) (t : StatusReport) :
    s.Acts (s.writeStatus pos t) pos := by
  have habandon : ∀ u : State, u.bus.link = .idle → u.Acts (u.abandonWhere .b fun p d =>
      decide (p = pos) && decide (t.capacity ≠ 0) && decide (t.capacity < d.capacity)) pos := by
    intro u hu
    simpa only [Bool.and_assoc] using abandonAt hu pos .b
      fun d => decide (t.capacity ≠ 0) && decide (t.capacity < d.capacity)
  unfold State.writeStatus
  dsimp only
  split
  · exact refl s pos
  · exact (setValidator s pos _).trans (habandon _ hidle)

theorem writeReply {s : State} (hidle : s.bus.link = .idle) (pos : Fin 16) (r : Reply) :
    s.Acts (s.writeReply pos r) pos := by
  have h := noteCapacity s pos r
  cases r
  case status t => exact h.trans (writeStatus (by rw [h.bus]; exact hidle) pos t)
  all_goals exact h

theorem openReply (s : State) (pos : Fin 16) (l : Lane) (r : Reply) :
    s.Acts (s.openReply pos l r) pos := by
  unfold State.openReply
  dsimp only
  split
  · exact setValidator s pos _
  · split
    · exact setValidator s pos _
    · exact failedAttempt s pos l true
  · exact refl s pos

theorem closeReply (s : State) (pos : Fin 16) (l : Lane) (r : Reply) :
    s.Acts (s.closeReply pos l r) pos := by
  unfold State.closeReply
  dsimp only
  split
  · split
    · exact setValidator s pos _
    · exact failedAttempt s pos l true
  · exact failedAttempt s pos l false

theorem switchReply (s : State) (pos : Fin 16) (l : Lane) (g : Nat) :
    s.Acts (s.switchReply pos l g) pos := by
  unfold State.switchReply
  dsimp only
  split
  · exact ⟨_, _, Leaves.markFaulty s pos l _⟩
  · exact refl s pos

theorem actOnReply (s : State) (x : Addressed) (r : Reply) : s.Acts (s.actOnReply x r) x.pos := by
  unfold State.actOnReply
  split
  · exact refl s _
  · split
    · exact refl s _
    · exact openReply s _ _ r
  · split
    · exact refl s _
    · exact setValidator s _ _
  · split
    · exact refl s _
    · exact closeReply s _ _ r
  · exact switchReply s _ _ _
  · exact setValidator s _ _

end State.Acts

/-- A good outcome in the hands of the scanner, part after part. -/
theorem State.applyOutcome_good {s : State} {x : Addressed} {r : Reply} (h : s.ends x (.good r)) :
    (s.gapEnded (.good r)).applyOutcome x (.good r) =
      (((s.gapEnded (.good r)).goodAt x.pos).writeReply x.pos r).actOnReply x r := by
  simp only [State.applyOutcome, h.2.2, Bool.false_eq_true, if_false, State.applyReply_eq]

/-- What a good outcome leaves whatever the reply. -/
theorem State.Acts.good {s : State} {x : Addressed} {r : Reply} (h : s.ends x (.good r)) :
    (s.gapEnded (.good r)).Acts ((s.gapEnded (.good r)).applyOutcome x (.good r)) x.pos := by
  have hgood := State.Acts.goodAt (s.gapEnded (.good r)) x.pos
  have hwrite := hgood.trans (State.Acts.writeReply (by rw [hgood.bus]; rfl) x.pos r)
  rw [State.applyOutcome_good h]
  exact hwrite.trans (State.Acts.actOnReply _ x r)

/-- The record before the reply acts, at a PRESENT position. -/
theorem State.Leaves.noted_present {s : State} {x : Addressed} {r : Reply}
    (hpresent : (s.validator x.pos).presence = .present) :
    (∀ cap, r = .refuseCapacity cap →
      (s.gapEnded (.good r)).Leaves (((s.gapEnded (.good r)).goodAt x.pos).writeReply x.pos r) x.pos
        { s.validator x.pos with missRun := 0, lastCapacity := cap } [])
    ∧ ((∀ cap, r ≠ .refuseCapacity cap) → (∀ report, r ≠ .status report) →
      (s.gapEnded (.good r)).Leaves (((s.gapEnded (.good r)).goodAt x.pos).writeReply x.pos r) x.pos
        { s.validator x.pos with missRun := 0 } []) := by
  have hgood := State.Leaves.goodAt_present (s := s.gapEnded (.good r)) (pos := x.pos) hpresent
  refine ⟨?_, fun hcap hstatus => ?_⟩
  · rintro cap rfl
    have h := hgood.trans (State.Leaves.noteCapacity_refused _ x.pos cap)
    rw [hgood.record] at h
    exact h
  · have hsame : ∀ u : State, u.writeReply x.pos r = u := by
      intro u
      cases r
      case status report => exact absurd rfl (hstatus report)
      case refuseCapacity cap => exact absurd rfl (hcap cap)
      all_goals rfl
    rw [hsame]
    exact hgood

/-- The record that a good reply leaves in lane `l` of a PRESENT validator. -/
def Validator.left (v : Validator) (l : Lane) (capacity : Nat) (z : ValidatorLane) : Validator :=
  { v with missRun := 0, lastCapacity := capacity, lanes := v.lanes.set l z }

theorem Validator.left_same (v : Validator) (l : Lane) (capacity : Nat) :
    v.left l capacity (v.lane l) = { v with missRun := 0, lastCapacity := capacity } := by
  rw [Validator.left, Validator.lane, PerLane.set_get]

/-- A reply for a delivery abandoned meanwhile acts on presence and the reported capacity alone
(R161). -/
theorem turnaroundGapEnd_deliveryGone {s : State} {x : Addressed} {r : Reply}
    (hends : s.ends x (.good r)) (hpresent : (s.validator x.pos).presence = .present)
    (hgone : x.deliveryGone = true) (hlane : x.frame.deliveryLane ≠ none)
    (hstatus : ∀ report, r ≠ .status report) :
    ∃ t, exec .turnaroundGapEnd s = .next t ∧ t.bus.link = .idle
    ∧ t.lanes = s.lanes ∧ t.store = s.store ∧ t.ctl = s.ctl
    ∧ (∀ q, q ≠ x.pos → t.validator q = s.validator q)
    ∧ (∀ cap, r = .refuseCapacity cap →
      t.validator x.pos = { s.validator x.pos with missRun := 0, lastCapacity := cap })
    ∧ ((∀ cap, r ≠ .refuseCapacity cap) →
      t.validator x.pos = { s.validator x.pos with missRun := 0 }) := by
  have happly := State.applyOutcome_good hends
  have hact : ∀ u : State, u.actOnReply x r = u := by
    intro u
    cases hframe : x.frame
    case poll | switch | drop => rw [hframe] at hlane; exact absurd rfl hlane
    all_goals simp only [State.actOnReply, hframe, hgone, if_true]
  rw [hact] at happly
  obtain ⟨hrefused, hnoted⟩ := State.Leaves.noted_present (s := s) (x := x) (r := r) hpresent
  by_cases hcap : ∃ cap, r = .refuseCapacity cap
  · obtain ⟨cap, rfl⟩ := hcap
    obtain ⟨hexec, hbus, hlanes, hstore, hothers, hrecord, hraised, hsilent⟩ :=
      State.Leaves.ended hends happly (hrefused cap rfl)
    refine ⟨_, hexec, by rw [hbus], hlanes, hstore, hsilent rfl, hothers, ?_,
      fun h => absurd rfl (h cap)⟩
    intro cap' hcap'
    cases hcap'
    exact hrecord
  · have hnot : ∀ cap, r ≠ .refuseCapacity cap := fun cap h => hcap ⟨cap, h⟩
    obtain ⟨hexec, hbus, hlanes, hstore, hothers, hrecord, hraised, hsilent⟩ :=
      State.Leaves.ended hends happly (hnoted hnot hstatus)
    exact ⟨_, hexec, by rw [hbus], hlanes, hstore, hsilent rfl, hothers,
      fun cap h => absurd h (hnot cap), fun _ => hrecord⟩

/-- The outcome for a record set up anew meanwhile acts on the bus counters alone (R143). -/
theorem turnaroundGapEnd_recordGone {s : State} {x : Addressed} {o : ExchangeOutcome}
    (hp : s.power = .running) (hlink : s.bus.link = .turnaround x o) (hgone : x.recordGone = true) :
    ∃ t, exec .turnaroundGapEnd s = .next t
    ∧ t.bus = { s.bus with
        link := .idle,
        damaged := if o = .miss .damaged then min (s.bus.damaged + 1) 65535 else s.bus.damaged,
        wrong := if o = .miss .wrong then min (s.bus.wrong + 1) 65535 else s.bus.wrong }
    ∧ t.scan.records = s.scan.records ∧ t.lanes = s.lanes ∧ t.store = s.store ∧ t.ctl = s.ctl := by
  have hexec : exec .turnaroundGapEnd s = .next (s.gapEnded o).settleScan := by
    rw [exec_of_running hp]
    simp only [actOf, turnaroundGapEndStep, hlink, State.applyOutcome, hgone, if_true]
    rfl
  refine ⟨_, hexec, ?_, State.settleScan_records _, ?_, ?_, ?_⟩
  · rw [(State.settleScan_frame _).2.2.2.2.2.2.2.2.2.2.2.1, State.gapEnded, Bus.countOutcome_eq]
  all_goals simp [State.gapEnded]

/-- Settles O45: each reply by its act on the record that its outcome has left. -/
theorem deliveryRepliesAct : Obligations.DeliveryRepliesAct := by
  refine ⟨fun s x r hends hpresent hkept l => ?_,
    fun s x r hends hpresent hgone hlane hstatus =>
      turnaroundGapEnd_deliveryGone hends hpresent hgone hlane hstatus,
    fun s x o hp hlink hgone => turnaroundGapEnd_recordGone hp hlink hgone⟩
  · intro v y d left failed
    obtain ⟨w, rises, hacts⟩ := State.Acts.good hends
    obtain ⟨hexec, hbus, hlanes, hstore, hothers, _⟩ := State.Leaves.ended hends rfl hacts
    have happly := State.applyOutcome_good hends
    obtain ⟨hrefused, hnoted⟩ := State.Leaves.noted_present (s := s) (x := x) (r := r) hpresent
    -- what the act on the noted record leaves is what the step leaves
    have conclude : ∀ {v' z : Validator} {rs},
        (s.gapEnded (.good r)).Leaves (((s.gapEnded (.good r)).goodAt x.pos).writeReply x.pos r) x.pos
          v' [] →
        (((s.gapEnded (.good r)).goodAt x.pos).writeReply x.pos r).Leaves
          ((((s.gapEnded (.good r)).goodAt x.pos).writeReply x.pos r).actOnReply x r) x.pos z rs →
        ((s.gapEnded (.good r)).applyOutcome x (.good r)).settleScan.validator x.pos = z
        ∧ s.raises ((s.gapEnded (.good r)).applyOutcome x (.good r)).settleScan rs := by
      intro v' z rs hv hz
      obtain ⟨_, _, _, _, _, hrecord, hraised, _⟩ :=
        State.Leaves.ended hends happly (hv.trans hz)
      rw [happly]
      exact ⟨hrecord, hraised⟩
    refine ⟨_, hexec, by rw [hbus], hlanes, hstore, hothers, ?_⟩
    generalize ((s.gapEnded (.good r)).applyOutcome x (.good r)).settleScan = t at *
    generalize ((s.gapEnded (.good r)).goodAt x.pos).writeReply x.pos r = u at *
    have attempt : ∀ {capacity owed}, (s.gapEnded (.good r)).Leaves u x.pos
          { v with missRun := 0, lastCapacity := capacity } [] →
        u.actOnReply x r = u.failedAttempt x.pos l owed → failed owed capacity t := by
      intro capacity owed hv hact
      have hrecord : (u.validator x.pos).lane l = y := by rw [hv.record]; rfl
      refine ⟨fun hfew => ?_, fun hmany => ?_⟩
      · have hz := State.Leaves.failedAttempt_retry u x.pos l owed (by rw [hrecord]; exact hfew)
        rw [← hact, hrecord, hv.record] at hz
        exact conclude hv hz
      · have hz := State.Leaves.failedAttempt_last u x.pos l owed (by rw [hrecord]; exact hmany)
        rw [← hact, hrecord, hv.record] at hz
        obtain ⟨hleft, hraised⟩ := conclude hv hz
        exact ⟨hleft, State.raises_one_flags hraised, hraised⟩
    have partChanged : ∀ {v' : Validator} {z : ValidatorLane},
        (s.gapEnded (.good r)).Leaves u x.pos v' [] →
        u.actOnReply x r = u.setValidator x.pos ((u.validator x.pos).setLane l z) →
        t.validator x.pos = v'.setLane l z ∧ s.raises t [] := by
      intro v' z hv hact
      have hz := State.Leaves.setLanePart u x.pos l z
      rw [← hact, hv.record] at hz
      exact conclude hv hz
    have unchanged : ∀ {v' : Validator}, (s.gapEnded (.good r)).Leaves u x.pos v' [] →
        u.actOnReply x r = u → t.validator x.pos = v' ∧ s.raises t [] := by
      intro v' hv hact
      have hz := State.Leaves.refl u x.pos
      rw [hv.record] at hz
      exact conclude hv (by rw [hact]; exact hz)
    refine ⟨fun g n k c hframe => ⟨?_, ?_, ?_⟩, ?_, ?_, ?_⟩
    · rintro rfl
      have hv := hnoted nofun nofun
      refine partChanged hv ?_
      simp only [State.actOnReply, hframe, hkept, Bool.false_eq_true, if_false, State.openReply,
        hv.record]
      rfl
    · rintro rfl
      obtain ⟨hrec, hraised⟩ := unchanged (hnoted nofun nofun) (by
        simp only [State.actOnReply, hframe, hkept, Bool.false_eq_true, if_false, State.openReply])
      exact ⟨hrec.trans (v.left_same l v.lastCapacity).symm, hraised⟩
    · rintro cap rfl
      have hv := hrefused cap rfl
      refine ⟨fun hshort => ?_, fun hlong => ?_⟩
      · refine partChanged hv ?_
        simp only [State.actOnReply, hframe, hkept, Bool.false_eq_true, if_false, State.openReply,
          hv.record]
        exact if_pos hshort
      · refine attempt hv ?_
        simp only [State.actOnReply, hframe, hkept, Bool.false_eq_true, if_false, State.openReply,
          hv.record]
        exact if_neg (Nat.not_lt_of_le hlong)
    · rintro g n items hframe rfl
      have hv := hnoted nofun nofun
      refine partChanged hv ?_
      simp only [State.actOnReply, hframe, hkept, Bool.false_eq_true, if_false, State.setDelivery,
        hv.record]
      rfl
    · intro g hframe
      refine ⟨?_, ?_, ?_⟩
      · rintro count sum rfl hcount hsum
        have hv := hnoted nofun nofun
        refine partChanged hv ?_
        simp only [State.actOnReply, hframe, hkept, Bool.false_eq_true, if_false, State.closeReply,
          hv.record]
        exact if_pos ⟨hcount, hsum⟩
      · rintro count sum rfl hdiffer
        have hv := hnoted nofun nofun
        refine attempt hv ?_
        simp only [State.actOnReply, hframe, hkept, Bool.false_eq_true, if_false, State.closeReply,
          hv.record]
        exact if_neg fun h => hdiffer.elim (· h.1) (· h.2)
      · rintro rfl
        refine attempt (hnoted nofun nofun) ?_
        simp only [State.actOnReply, hframe, hkept, Bool.false_eq_true, if_false, State.closeReply]
    · rintro g hframe rfl
      have hv := hnoted nofun nofun
      refine partChanged hv ?_
      simp only [State.actOnReply, hframe, hv.record]
      rfl

end Sys2Proof.Machine
end

section
/-! A good STATUS (O44). -/

namespace Sys2Proof.Machine

/-! ### Presence (R140) -/

theorem Validator.joins_iff (v : Validator) :
    v.joins = true ↔ v.presence = .settling ∧ 2 ≤ v.goodRun := by
  simp [Validator.joins]

/-- The rise of a position's entry to PRESENT. -/
def Validator.joinRises (v : Validator) (pos : Fin 16) : List (EventFlag × AlertContext) :=
  if v.joins then [(.joined, { position := pos.val + 1 })] else []

theorem State.Leaves.goodAt (s : State) (pos : Fin 16) :
    s.Leaves (s.goodAt pos) pos (s.validator pos).goodPresence ((s.validator pos).joinRises pos) := by
  have hset := State.Leaves.setValidator s pos (s.validator pos).goodPresence
  unfold State.goodAt Validator.joinRises
  dsimp only
  split
  · have hrise := hset.trans (State.Leaves.rise _ pos .joined { position := pos.val + 1 })
    rw [hset.record] at hrise
    exact hrise
  · exact hset

/-- R140 by presence. -/
theorem Validator.goodPresence_spec (v : Validator) :
    v.goodPresence.lanes = v.lanes ∧ v.goodPresence.missCounter = v.missCounter
    ∧ ((v.presence = .seeking ∨ v.presence = .silent) →
      v.goodPresence.presence = .settling ∧ v.goodPresence.goodRun = 0)
    ∧ (v.presence = .settling → v.goodRun < 2 →
      v.goodPresence.presence = .settling ∧ v.goodPresence.goodRun = v.goodRun + 1)
    ∧ ((v.presence = .settling ∧ 2 ≤ v.goodRun) →
      v.goodPresence.presence = .present ∧ v.goodPresence.missRun = 0)
    ∧ (v.presence = .present → v.goodPresence.presence = .present ∧ v.goodPresence.missRun = 0)
    ∧ (v.presence ≠ .vacant → v.goodPresence.presence ≠ .vacant) := by
  have hthree : 3 ≤ v.goodRun + 1 ↔ 2 ≤ v.goodRun := by omega
  cases hv : v.presence
  case settling =>
    by_cases hrun : 2 ≤ v.goodRun
    all_goals simp [Validator.goodPresence, hv, hthree, hrun]
    all_goals omega
  all_goals simp [Validator.goodPresence, hv]

/-! ### The part of a lane written (R144, R165) -/

/-- A lane's part after a STATUS, a delivery too large for the capacity reported abandoned (R103). -/
def ValidatorLane.written (y : ValidatorLane) (r : LaneRec) (held staged : Nat) (ready short : Bool) :
    ValidatorLane :=
  { y.withStatus r held staged ready with
    delivery := if short then Delivery.idleWith 0 else y.delivery }

/-- The stale test on the part just written (R165). -/
theorem staleCopy_written (r : LaneRec) (y : ValidatorLane) (held staged : Nat) (ready : Bool) :
    staleCopy r { y with held := held, pending := staged, ready := ready } = true ↔
      staged ≠ 0 ∧ ¬((staged = r.active ∨ (r.state = .ready ∧ staged = r.stagedGen))
        ∧ y.delivery.state = .idle ∧ staged = y.delivery.target) := by
  simp only [staleCopy, LaneRec.readyWith, Delivery.confirmed_eq, Bool.and_eq_true,
    Bool.not_eq_true', ← Bool.not_eq_true, Bool.or_eq_true, decide_eq_true_eq, eq_comm (a := r.stagedGen)]
  by_cases hidle : y.delivery.state = .idle
  · simp only [hidle, if_true, true_and]
  · simp only [hidle, if_false, false_and, and_false, not_false_eq_true, and_true]
    exact ⟨And.left, fun h => ⟨h, fun hzero => h hzero.2⟩⟩

theorem ValidatorLane.withStatus_delivery (y : ValidatorLane) (r : LaneRec) (held staged : Nat)
    (ready : Bool) : (y.withStatus r held staged ready).delivery = y.delivery := by
  unfold ValidatorLane.withStatus staleTest
  split
  all_goals rfl

theorem ValidatorLane.written_spec (y : ValidatorLane) (r : LaneRec) (held staged : Nat)
    (ready short : Bool) :
    (y.written r held staged ready short).held = held
    ∧ (y.written r held staged ready short).pending = staged
    ∧ (y.written r held staged ready short).ready = ready
    ∧ (y.written r held staged ready short).unfit = y.unfit
    ∧ (y.written r held staged ready short).faulty = y.faulty
    ∧ (y.written r held staged ready short).delivery =
      (if short then Delivery.idleWith 0 else y.delivery)
    ∧ (y.written r held staged ready short).dropOwed =
      (if staleCopy r { y with held := held, pending := staged, ready := ready } then staged
        else y.dropOwed) := by
  unfold ValidatorLane.written ValidatorLane.withStatus staleTest
  split
  all_goals exact ⟨rfl, rfl, rfl, rfl, rfl, rfl, rfl⟩

theorem ValidatorLane.written_kept (y : ValidatorLane) (r : LaneRec) (held staged : Nat) (ready : Bool) :
    y.written r held staged ready false = y.withStatus r held staged ready := by
  have h := y.withStatus_delivery r held staged ready
  unfold ValidatorLane.written
  rw [if_neg Bool.false_ne_true, ← h]

/-- A lane-B delivery too large for a capacity reported. -/
def Validator.shortfall (v : Validator) (capacity : Nat) (l : Lane) : Bool :=
  decide (l = .b ∧ (v.lane l).delivery.state ≠ .idle ∧ capacity ≠ 0
    ∧ capacity < (v.lane l).delivery.capacity)

/-- The record after a good STATUS is written. -/
def State.statusRecord (s : State) (v : Validator) (t : StatusReport) : Validator :=
  { v with
    lastCapacity := t.capacity,
    lanes :=
      { b := v.lanes.b.written (s.lane .b) t.held.b t.staged.b t.ready.b (v.shortfall t.capacity .b),
        p := v.lanes.p.written (s.lane .p) t.held.p t.staged.p t.ready.p (v.shortfall t.capacity .p) } }

theorem State.statusRecord_lane (s : State) (v : Validator) (t : StatusReport) (l : Lane) :
    (s.statusRecord v t).lane l = (v.lane l).written (s.lane l) (t.held.get l) (t.staged.get l)
      (t.ready.get l) (v.shortfall t.capacity l) := by
  cases l <;> rfl

theorem State.Leaves.writeStatus {s : State} (hidle : s.bus.link = .idle) {pos : Fin 16}
    (h : (s.validator pos).presence ≠ .vacant) (t : StatusReport) :
    s.Leaves (s.writeStatus pos t) pos (s.statusRecord (s.validator pos) t) [] := by
  obtain ⟨v, rises, hacts⟩ := State.Acts.writeStatus hidle pos t
  refine ⟨?_, hacts.others, hacts.lanes, hacts.store, hacts.settings, hacts.clock, hacts.bus,
    State.raises_nil (by simp [State.sameOutbound]), fun _ => by simp⟩
  let w : Validator :=
    { s.validator pos with
      lastCapacity := t.capacity,
      lanes :=
        { b := (s.validator pos).lanes.b.withStatus (s.lane .b) t.held.b t.staged.b t.ready.b,
          p := (s.validator pos).lanes.p.withStatus (s.lane .p) t.held.p t.staged.p t.ready.p } }
  have hact : s.writeStatus pos t = (s.setValidator pos w).abandonWhere .b fun p d =>
      decide (p = pos) && decide (t.capacity ≠ 0) && decide (t.capacity < d.capacity) := by
    simp only [State.writeStatus, if_neg h]
    rfl
  have hdelivery : (w.lane .b).delivery = ((s.validator pos).lane .b).delivery :=
    ValidatorLane.withStatus_delivery _ _ _ _ _
  rw [hact, State.validator_abandonWhere, State.abandons, State.validator_setValidator, if_pos rfl,
    hdelivery]
  have hp : (s.validator pos).shortfall t.capacity .p = false := by simp [Validator.shortfall]
  have hshort : (decide (((s.validator pos).lane .b).delivery.state ≠ .idle)
      && (decide (pos = pos) && decide (t.capacity ≠ 0)
        && decide (t.capacity < ((s.validator pos).lane .b).delivery.capacity))) =
      (s.validator pos).shortfall t.capacity .b := by
    simp [Validator.shortfall]
  rw [hshort, State.statusRecord, hp, ValidatorLane.written_kept]
  cases (s.validator pos).shortfall t.capacity .b
  · rw [ValidatorLane.written_kept]
    rfl
  · rfl

/-- A switch not made, seen in the STATUS just written (R168, log 26). -/
theorem State.Leaves.switchReply (s : State) (pos : Fin 16) (l : Lane) (g : Nat) :
    (g = (s.lane l).active ∧ ((s.validator pos).lane l).pending = (s.lane l).active
        ∧ ((s.validator pos).lane l).held ≠ (s.lane l).active →
      s.Leaves (s.switchReply pos l g) pos
        ((s.validator pos).setLane l { (s.validator pos).lane l with faulty := (s.lane l).active })
        [(.deliveryFault, { position := pos.val + 1, lane := laneCode l,
                            generation := (s.lane l).active })])
    ∧ (¬(g = (s.lane l).active ∧ ((s.validator pos).lane l).pending = (s.lane l).active
        ∧ ((s.validator pos).lane l).held ≠ (s.lane l).active) →
      s.Leaves (s.switchReply pos l g) pos (s.validator pos) []) := by
  unfold State.switchReply
  dsimp only
  refine ⟨fun h => ?_, fun h => ?_⟩
  · rw [if_pos h]
    exact State.Leaves.markFaulty s pos l _
  · rw [if_neg h]
    exact State.Leaves.refl s pos

/-- The switch of a lane was not made, by the STATUS that answers its frame. -/
def State.switchFailed (s : State) (x : Addressed) (r : StatusReport) (l : Lane) : Prop :=
  x.frame = .switch l (s.lane l).active ∧ r.staged.get l = (s.lane l).active
    ∧ r.held.get l ≠ (s.lane l).active

/-- What a good STATUS leaves: the record written, and the switch not made marked. -/
theorem State.Leaves.status {s : State} {x : Addressed} {r : StatusReport}
    (hends : s.ends x (.good (.status r))) (hframe : x.frame = .poll ∨ ∃ l g, x.frame = .switch l g)
    (hpresence : (s.validator x.pos).presence ≠ .vacant) :
    (∀ l, s.switchFailed x r l →
      (s.gapEnded (.good (.status r))).Leaves
        ((s.gapEnded (.good (.status r))).applyOutcome x (.good (.status r))) x.pos
        ((s.statusRecord (s.validator x.pos).goodPresence r).setLane l
          { (s.statusRecord (s.validator x.pos).goodPresence r).lane l with
            faulty := (s.lane l).active })
        ((s.validator x.pos).joinRises x.pos
          ++ [(.deliveryFault, { position := x.pos.val + 1, lane := laneCode l,
                                 generation := (s.lane l).active })]))
    ∧ ((∀ l, ¬ s.switchFailed x r l) →
      (s.gapEnded (.good (.status r))).Leaves
        ((s.gapEnded (.good (.status r))).applyOutcome x (.good (.status r))) x.pos
        (s.statusRecord (s.validator x.pos).goodPresence r)
        ((s.validator x.pos).joinRises x.pos)) := by
  obtain ⟨_, _, _, _, _, _, hoccupied⟩ := (s.validator x.pos).goodPresence_spec
  have hgood := State.Leaves.goodAt (s.gapEnded (.good (.status r))) x.pos
  have hwrite := hgood.trans (State.Leaves.writeStatus (by rw [hgood.bus]; rfl)
    (by rw [hgood.record]; exact hoccupied hpresence) r)
  have hlane : ∀ l, (((s.gapEnded (.good (.status r))).goodAt x.pos).writeStatus x.pos r).lane l
      = s.lane l := fun l => State.lane_of_lanes hwrite.lanes l
  have hgoodlane : ∀ l, ((s.gapEnded (.good (.status r))).goodAt x.pos).lane l = s.lane l :=
    fun l => State.lane_of_lanes hgood.lanes l
  have hrecord : ((s.gapEnded (.good (.status r))).goodAt x.pos).statusRecord
      (((s.gapEnded (.good (.status r))).goodAt x.pos).validator x.pos) r
      = s.statusRecord (s.validator x.pos).goodPresence r := by
    rw [hgood.record]
    simp only [State.statusRecord, hgoodlane]
    rfl
  rw [hrecord, List.append_nil] at hwrite
  rw [State.applyOutcome_good hends, show ∀ u : State, u.writeReply x.pos (.status r)
    = u.writeStatus x.pos r from fun _ => rfl]
  generalize ((s.gapEnded (.good (.status r))).goodAt x.pos).writeStatus x.pos r = u at *
  obtain hpoll | ⟨k, g, hswitch⟩ := hframe
  · have hact : u.actOnReply x (.status r) = u := by simp only [State.actOnReply, hpoll]
    rw [hact]
    refine ⟨fun l hfailed => ?_, fun _ => hwrite⟩
    rw [State.switchFailed, hpoll] at hfailed
    cases hfailed.1
  · have hact : u.actOnReply x (.status r) = u.switchReply x.pos k g := by
      simp only [State.actOnReply, hswitch]
    obtain ⟨hheld, hpending, _⟩ := ((s.validator x.pos).goodPresence.lane k).written_spec (s.lane k)
      (r.held.get k) (r.staged.get k) (r.ready.get k)
      ((s.validator x.pos).goodPresence.shortfall r.capacity k)
    rw [← State.statusRecord_lane] at hheld hpending
    have htest : (g = (u.lane k).active ∧ ((u.validator x.pos).lane k).pending = (u.lane k).active
        ∧ ((u.validator x.pos).lane k).held ≠ (u.lane k).active) ↔ s.switchFailed x r k := by
      rw [hwrite.record, hheld, hpending, hlane, State.switchFailed, hswitch]
      simp
    obtain ⟨hmarked, hunmarked⟩ := State.Leaves.switchReply u x.pos k g
    rw [htest, hwrite.record, hlane] at hmarked
    rw [htest, hwrite.record] at hunmarked
    rw [hact]
    refine ⟨fun l hfailed => ?_, fun hnone => ?_⟩
    · have hl : l = k := by
        have h := hfailed.1
        rw [hswitch] at h
        cases h
        rfl
      subst hl
      exact hwrite.trans (hmarked hfailed)
    · have h := hwrite.trans (hunmarked (hnone k))
      rwa [List.append_nil] at h

/-- Settles O44: the record written, then the switch not made. -/
theorem goodStatusIsWritten : Obligations.GoodStatusIsWritten := by
  intro s x r hends hframe hpresence v stale short failed joins joined joinedRise
  obtain ⟨hlanes, hmisses, hseeking, hsettling, hjoining, hpresent, _⟩ := v.goodPresence_spec
  obtain ⟨hfailedLeaves, hkeptLeaves⟩ := State.Leaves.status hends hframe hpresence
  have hpart : ∀ l, let z := (s.statusRecord v.goodPresence r).lane l
      z.held = r.held.get l ∧ z.pending = r.staged.get l ∧ z.ready = r.ready.get l
      ∧ z.unfit = (v.lane l).unfit ∧ z.faulty = (v.lane l).faulty
      ∧ (short l → z.delivery = Delivery.idleWith 0)
      ∧ (¬ short l → z.delivery = (v.lane l).delivery)
      ∧ (stale l → z.dropOwed = r.staged.get l)
      ∧ (¬ stale l → z.dropOwed = (v.lane l).dropOwed) := by
    intro l z
    have hlane : v.goodPresence.lane l = v.lane l := by rw [Validator.lane, hlanes]; rfl
    have hz : z = _ := s.statusRecord_lane v.goodPresence r l
    obtain ⟨hheld, hpending, hready, hunfit, hfaulty, hdelivery, howed⟩ := (v.lane l).written_spec
      (s.lane l) (r.held.get l) (r.staged.get l) (r.ready.get l)
      (v.goodPresence.shortfall r.capacity l)
    have hshort : v.goodPresence.shortfall r.capacity l = true ↔ short l := by
      rw [Validator.shortfall, hlane]
      exact decide_eq_true_iff
    rw [hlane] at hz
    rw [hz]
    refine ⟨hheld, hpending, hready, hunfit, hfaulty, fun h => ?_, fun h => ?_, fun h => ?_,
      fun h => ?_⟩
    · rw [hdelivery, if_pos (hshort.mpr h)]
    · rw [hdelivery, if_neg (h ∘ hshort.mp)]
    · rw [howed, if_pos ((staleCopy_written _ _ _ _ _).mpr h)]
    · rw [howed, if_neg (h ∘ (staleCopy_written _ _ _ _ _).mp)]
  have hjoins : v.joins = true ↔ joins := v.joins_iff
  have hrisen : joins → v.joinRises x.pos = [joinedRise] := fun h => if_pos (hjoins.mpr h)
  have hnotrisen : ¬ joins → v.joinRises x.pos = [] := fun h => if_neg (h ∘ hjoins.mp)
  by_cases hany : ∃ k, failed k
  · obtain ⟨k, hfail⟩ := hany
    have honly : ∀ l, failed l → l = k := by
      intro l hl
      have h := hl.1.symm.trans hfail.1
      cases h
      rfl
    obtain ⟨hexec, hbus, htlanes, hstore, hothers, hrecord, hraised, _⟩ :=
      State.Leaves.ended hends rfl (hfailedLeaves k hfail)
    refine ⟨_, hexec, by rw [hbus], htlanes, hstore, hothers, by rw [hrecord]; rfl,
      by rw [hrecord]; exact hmisses, fun l => ?_, fun h => ?_, fun h hrun => ?_, fun h => ?_,
      fun h => ?_, fun _ hnone => absurd hfail (hnone k), fun _ hnone => absurd hfail (hnone k),
      fun l hl => ?_⟩
    · intro z
      obtain ⟨hheld, hpending, hready, hunfit, hfaulty, hrest⟩ := hpart l
      by_cases hlk : l = k
      · subst hlk
        have hz : z = { (s.statusRecord v.goodPresence r).lane l with faulty := (s.lane l).active } := by
          show Validator.lane _ l = _
          rw [hrecord]
          exact PerLane.get_set_same _ _ _
        rw [hz]
        exact ⟨hheld, hpending, hready, hunfit, fun _ => rfl, fun h => absurd hfail h, hrest⟩
      · have hz : z = (s.statusRecord v.goodPresence r).lane l := by
          show Validator.lane _ l = _
          rw [hrecord]
          exact (PerLane.get_set _ _ _ _).trans (if_neg hlk)
        rw [hz]
        exact ⟨hheld, hpending, hready, hunfit, fun h => absurd (honly l h) hlk, fun _ => hfaulty,
          hrest⟩
    · rw [hrecord]; exact hseeking h
    · rw [hrecord]; exact hsettling h hrun
    · rw [hrecord]; exact hjoining h
    · rw [hrecord]; exact hpresent h
    · have hlk := honly l hl
      subst hlk
      refine ⟨fun hnot => ?_, fun hjoin => ?_⟩
      · rw [hnotrisen hnot] at hraised
        exact ⟨State.raises_one_flags hraised, hraised⟩
      · rw [hrisen hjoin] at hraised
        exact ⟨State.raises_two_flags hraised, hraised⟩
  · have hnone : ∀ l, ¬ failed l := fun l hl => hany ⟨l, hl⟩
    obtain ⟨hexec, hbus, htlanes, hstore, hothers, hrecord, hraised, hsilent⟩ :=
      State.Leaves.ended hends rfl (hkeptLeaves hnone)
    refine ⟨_, hexec, by rw [hbus], htlanes, hstore, hothers, by rw [hrecord]; rfl,
      by rw [hrecord]; exact hmisses, fun l => ?_, fun h => ?_, fun h hrun => ?_, fun h => ?_,
      fun h => ?_, fun hnot _ => ⟨hsilent (hnotrisen hnot), hnotrisen hnot ▸ hraised⟩,
      fun hjoin _ => ?_, fun l hl => absurd hl (hnone l)⟩
    · intro z
      obtain ⟨hheld, hpending, hready, hunfit, hfaulty, hrest⟩ := hpart l
      have hz : z = (s.statusRecord v.goodPresence r).lane l := by
        show Validator.lane _ l = _
        rw [hrecord]
      rw [hz]
      exact ⟨hheld, hpending, hready, hunfit, fun h => absurd h (hnone l), fun _ => hfaulty, hrest⟩
    · rw [hrecord]; exact hseeking h
    · rw [hrecord]; exact hsettling h hrun
    · rw [hrecord]; exact hjoining h
    · rw [hrecord]; exact hpresent h
    · rw [hrisen hjoin] at hraised
      exact ⟨State.raises_one_flags hraised, hraised⟩

end Sys2Proof.Machine
end

section
/-! The rounds of the scanner (O47). -/

namespace Sys2Proof.Machine

/-! ### The position to visit next (R145) -/

/-- A position is visited in what is left of the round. -/
def State.toVisit (s : State) (pos : Fin 16) : Prop :=
  s.scan.nextPos ≤ pos.val ∧ s.settings.roster[pos] ≠ none
  ∧ ((s.validator pos).presence = .seeking ∨ (s.validator pos).presence = .settling
    ∨ (s.validator pos).presence = .present
    ∨ ((s.validator pos).presence = .silent ∧ s.scan.roundNo % 8 = 0))

theorem State.toVisit_iff (s : State) (pos : Fin 16) :
    (decide (s.scan.nextPos ≤ pos.val) && s.visitable pos) = true ↔ s.toVisit pos := by
  rw [Bool.and_eq_true, decide_eq_true_iff, State.visitable, Bool.and_eq_true,
    Option.isSome_iff_ne_none, State.toVisit]
  cases (s.validator pos).presence
  all_goals simp

/-- The first of all positions with a property. -/
theorem find?_finRange_eq_some {n : Nat} {p : Fin n → Bool} {i : Fin n} :
    (List.finRange n).find? p = some i ↔ p i = true ∧ ∀ j < i, p j = false := by
  rw [List.find?_eq_some_iff_getElem]
  simp only [List.getElem_finRange, List.length_finRange, Bool.not_eq_true']
  refine and_congr_right fun _ => ⟨fun ⟨k, hk, hki, hbefore⟩ j hj => ?_, fun hbefore => ?_⟩
  · subst hki
    exact hbefore j.val hj
  · exact ⟨i.val, i.isLt, rfl, fun j hj => hbefore ⟨j, Nat.lt_trans hj i.isLt⟩ hj⟩

theorem State.nextVisit_eq_some_iff (s : State) (pos : Fin 16) :
    s.nextVisit = some pos ↔ s.toVisit pos ∧ ∀ q < pos, ¬ s.toVisit q := by
  rw [State.nextVisit, find?_finRange_eq_some, s.toVisit_iff]
  refine and_congr_right fun _ => forall_congr' fun q => imp_congr_right fun _ => ?_
  rw [← s.toVisit_iff q, Bool.not_eq_true]

theorem State.nextVisit_eq_none_iff (s : State) : s.nextVisit = none ↔ ∀ q, ¬ s.toVisit q := by
  rw [State.nextVisit, List.find?_eq_none]
  refine forall_congr' fun q => ?_
  rw [← s.toVisit_iff q]
  exact ⟨fun h => h (List.mem_finRange q), fun h _ => h⟩

/-! ### The next round (R145, R146) -/

/-- A round of a number has begun, and nothing but the round has changed. -/
def State.BeganRound (s : State) (number : Nat) (t : State) : Prop :=
  t.beginsRound number ∧ t.scan.records = s.scan.records ∧ t.scan.broadcast = s.scan.broadcast
  ∧ t.lanes = s.lanes ∧ t.settings = s.settings

theorem State.beginRound_began (s : State) (n : Nat) : s.BeganRound n (s.beginRound n) :=
  ⟨s.beginRound_begins n, by simp, by simp, by simp, by simp⟩

/-- The next round, at once or behind a waiting broadcast. -/
def State.GoesOn (s t : State) : Prop :=
  t.bus = s.bus
  ∧ (s.scan.broadcast = [] → s.BeganRound ((s.scan.roundNo + 1) % 65536) t)
  ∧ (s.scan.broadcast ≠ [] → t = { s with scan := { s.scan with phase := .roundDue } })

theorem State.nextRound_goesOn (s : State) : s.GoesOn s.nextRound := by
  refine ⟨by simp, fun hnone => ?_, fun hsome => ?_⟩
  · have hact : s.nextRound = s.beginRound ((s.scan.roundNo + 1) % 65536) := by
      simp only [State.nextRound, hnone, List.isEmpty_nil, if_true]
    rw [hact]
    exact s.beginRound_began _
  · exact if_neg (by simpa using hsome)

theorem State.settleScan_of_roundDue {s : State} (h : s.scan.phase = .roundDue) :
    s.GoesOn s.settleScan := by
  by_cases hnone : s.scan.broadcast = []
  · have hact : s.settleScan = s.nextRound := by
      simp only [State.settleScan, h, hnone, List.isEmpty_nil, if_true]
    rw [hact]
    exact s.nextRound_goesOn
  · have hact : s.settleScan = s := by
      simp only [State.settleScan, h]
      exact if_neg (by simpa using hnone)
    rw [hact]
    exact ⟨rfl, fun h => absurd h hnone, fun _ => by rw [← h]⟩

theorem State.wakeScan_of_paused {s : State} (h : s.scan.phase = .roundDue ∨ ∃ ms, s.scan.phase = .paused ms) :
    s.GoesOn s.wakeScan := by
  have hact : s.wakeScan = s.nextRound := by
    obtain h | ⟨ms, h⟩ := h
    all_goals simp only [State.wakeScan, h]
  rw [hact]
  exact s.nextRound_goesOn

/-- A report in a round, or before the first, is noted (R147). -/
theorem State.wakeScan_in_round {s : State}
    (h : s.scan.phase = .visiting ∨ s.scan.phase = .awaitReset) : s.wakeScan = s.noteReport := by
  obtain h | h := h
  all_goals simp only [State.wakeScan, h]

/-! ### The end of a round (R147) -/

/-- A position has work on a lane. -/
def State.works (s : State) (pos : Fin 16) (l : Lane) : Prop :=
  (∃ g, s.target pos l = some g) ∨ ((s.validator pos).lane l).delivery.state ≠ .idle
  ∨ switchDue (s.lane l) ((s.validator pos).lane l) = true
  ∨ ((s.validator pos).lane l).dropOwed ≠ 0

theorem State.laneWork_iff (s : State) (pos : Fin 16) (l : Lane) :
    s.laneWork pos l = true ↔ s.works pos l := by
  simp only [State.laneWork, State.works, Bool.or_eq_true, decide_eq_true_eq, Option.isSome_iff_exists,
    or_assoc]

theorem State.quietRound_iff (s : State) :
    s.quietRound = true ↔ (∀ l, (s.lane l).state = .idle)
      ∧ (∀ pos, (s.validator pos).presence = .present → ∀ l, ¬ s.works pos l)
      ∧ s.scan.broadcast = [] ∧ s.scan.reported = false := by
  have hlanes : (∀ l, (s.lane l).state = .idle) ↔ s.lanes.b.state = .idle ∧ s.lanes.p.state = .idle :=
    ⟨fun h => ⟨h .b, h .p⟩, fun ⟨hb, hp⟩ l => match l with
      | .b => hb
      | .p => hp⟩
  have hwork : ∀ pos, (!s.hasWork pos) = true ↔
      ((s.validator pos).presence = .present → ∀ l, ¬ s.works pos l) := by
    intro pos
    have hb := s.laneWork_iff pos .b
    have hp := s.laneWork_iff pos .p
    rw [Bool.not_eq_true', ← Bool.not_eq_true, State.hasWork, Bool.and_eq_true, decide_eq_true_iff,
      Bool.or_eq_true, hb, hp]
    constructor
    · intro h hpresent l hl
      cases l
      · exact h ⟨hpresent, .inl hl⟩
      · exact h ⟨hpresent, .inr hl⟩
    · rintro h ⟨hpresent, hl | hl⟩
      · exact h hpresent .b hl
      · exact h hpresent .p hl
  simp only [State.quietRound, Bool.and_eq_true, decide_eq_true_eq, List.all_eq_true,
    List.mem_finRange, forall_const, hwork, List.isEmpty_iff, Bool.not_eq_true', hlanes, and_assoc]

theorem State.settleScan_at_end {s : State} (hphase : s.scan.phase = .visiting)
    (hnone : s.nextVisit = none) : s.settleScan = s.endRound := by
  simp only [State.settleScan, hphase, hnone, Option.isSome_none, Bool.false_eq_true, if_false]

/-! ### A report wakes the scanner (R147, R148) -/

/-- The scanner has heard a report made in a state whose round, lanes and settings are as they stood. -/
def State.Woken (s t : State) : Prop :=
  s.hearsReport t ∧ ∃ u : State, t = u.wakeScan ∧ u.scan.phase = s.scan.phase
    ∧ u.scan.roundNo = s.scan.roundNo ∧ u.settings = s.settings ∧ u.lanes = s.lanes

theorem State.woken_of {s u : State} (hphase : u.scan.phase = s.scan.phase)
    (hround : u.scan.roundNo = s.scan.roundNo) (hsettings : u.settings = s.settings)
    (hlanes : u.lanes = s.lanes) : s.Woken u.wakeScan :=
  ⟨State.hears_of_wake hphase hround, u, rfl, hphase, hround, hsettings, hlanes⟩

theorem State.reportStaging_woken (s : State) : s.Woken s.reportStaging :=
  State.woken_of (by simp) (by simp) (by simp) (by simp)

theorem State.reportGone_woken (s : State) (l : Lane) (g : Nat) : s.Woken (s.reportGone l g) := by
  cases l
  all_goals exact State.woken_of (by simp) (by simp) (by simp) (by simp)

theorem State.reportActivated_woken (s : State) (l : Lane) (g : Nat) :
    s.Woken (s.reportActivated l g) :=
  State.woken_of (by simp [State.onWaitingSwitches]) (by simp [State.onWaitingSwitches])
    (by simp [State.onWaitingSwitches]) (by simp [State.onWaitingSwitches])

theorem State.reportRollback_woken (s : State) (l : Lane) (g : Nat) :
    s.Woken (s.reportRollback l g) :=
  State.woken_of (by simp [State.removeSwitch, State.onWaitingSwitches])
    (by simp [State.removeSwitch, State.onWaitingSwitches])
    (by simp [State.removeSwitch, State.onWaitingSwitches])
    (by simp [State.removeSwitch, State.onWaitingSwitches])

theorem State.reportCleared_woken (s : State) (l : Lane) : s.Woken (s.reportCleared l) := by
  cases l
  all_goals
    exact State.woken_of (by simp [State.removeSwitch, State.onWaitingSwitches])
      (by simp [State.removeSwitch, State.onWaitingSwitches])
      (by simp [State.removeSwitch, State.onWaitingSwitches])
      (by simp [State.removeSwitch, State.onWaitingSwitches])

/-! ### The commands that move the round -/

theorem exec_scannerVisit_at_end {s : State} (hp : s.power = .running)
    (hphase : s.scan.phase = .visiting) (hnone : s.nextVisit = none) (hlink : s.bus.link = .idle)
    (hbuild : s.scan.build = none) (hwaits : s.scan.broadcast = []) :
    exec .scannerVisit s = .next s.settleScan := by
  have hdue : s.visitDue = true := by simp [State.visitDue, hphase, hlink, hbuild, hwaits]
  rw [exec_of_running hp, State.settleScan_at_end hphase hnone]
  simp only [actOf, scannerVisitStep, hdue, if_true, hnone]

theorem exec_turnaroundGapEnd_of {s : State} {x : Addressed} {o : ExchangeOutcome}
    (hp : s.power = .running) (hlink : s.bus.link = .turnaround x o) :
    exec .turnaroundGapEnd s = .next ((s.gapEnded o).applyOutcome x o).settleScan := by
  rw [exec_of_running hp]
  simp only [actOf, turnaroundGapEndStep, hlink]
  rfl

theorem exec_quietIntervalEnd {s : State} (hp : s.power = .running) {ms : Nat}
    (hphase : s.scan.phase = .paused ms) : exec .quietIntervalEnd s = .next s.nextRound := by
  rw [exec_of_running hp]
  simp only [actOf, quietIntervalEndStep, hphase]

theorem exec_postResetGapEnd {s : State} (hp : s.power = .running) (hlink : s.bus.link = .postReset) :
    exec .postResetGapEnd s = .next ((s.setLink .idle).beginRound 0) := by
  rw [exec_of_running hp]
  simp only [actOf, postResetGapEndStep, hlink]

/-- A round due begins once its last waiting SWITCH has been sent (R146). -/
theorem State.broadcastSent_begins {s : State} (w : Switch) (hphase : s.scan.phase = .roundDue)
    (hlast : s.scan.broadcast.length ≤ 1) :
    (s.broadcastSent w).settleScan.beginsRound ((s.scan.roundNo + 1) % 65536) := by
  have hnone : (s.broadcastSent w).scan.broadcast = [] := by
    refine List.length_eq_zero_iff.mp ?_
    rw [State.broadcastSent, List.length_tail]
    omega
  obtain ⟨_, hbegan, _⟩ := State.settleScan_of_roundDue (s := s.broadcastSent w) hphase
  exact (hbegan hnone).1

/-- Settles O47: by the scanner's phase. -/
theorem roundsBeginAfterPauseAndReset : Obligations.RoundsBeginAfterPauseAndReset := by
  intro s began paused next visited works quiet woken
  refine ⟨s.nextVisit_eq_some_iff, s.nextVisit_eq_none_iff, fun pos hphase hpos => ?_,
    fun hphase hnone => ⟨fun hend => ?_, fun hnot hex => ?_, fun hp hlink hbuild hwaits =>
      exec_scannerVisit_at_end hp hphase hnone hlink hbuild hwaits⟩,
    fun hphase => ⟨State.settleScan_of_roundDue hphase, State.wakeScan_of_paused (.inl hphase)⟩,
    fun ms hphase => ⟨?_, State.wakeScan_of_paused (.inr ⟨ms, hphase⟩)⟩, fun hphase => ?_,
    fun hphase => ?_, s.reportStaging_woken,
    fun l g => ⟨s.reportGone_woken l g, s.reportActivated_woken l g, s.reportRollback_woken l g,
      s.reportCleared_woken l⟩,
    fun x o hp hlink => ⟨fun hkept => ?_, fun hgone => ?_⟩,
    fun hp => ⟨fun ms hphase => ⟨_, exec_quietIntervalEnd hp hphase, s.nextRound_goesOn⟩,
      fun hlink => ⟨_, exec_postResetGapEnd hp hlink, by simp [State.setLink], ?_⟩,
      fun w hlink => ⟨s.broadcastSent w, _, exec_postBroadcastGapEnd hp hlink, rfl, rfl,
        State.broadcastSent_begins w⟩⟩⟩
  · simp only [State.settleScan, hphase, hpos, Option.isSome_some, if_true]
  · rw [State.settleScan_at_end hphase hnone]
    refine if_pos ?_
    rw [Bool.or_eq_true, Bool.not_eq_true']
    exact hend.imp_left s.quietRound_iff.mpr
  · rw [State.settleScan_at_end hphase hnone]
    have hact : s.endRound = s.nextRound := by
      refine if_neg ?_
      rw [Bool.or_eq_true, Bool.not_eq_true', hex]
      exact fun h => h.elim (hnot ∘ s.quietRound_iff.mp) nofun
    rw [hact]
    exact s.nextRound_goesOn
  · simp only [State.settleScan, hphase]
  · exact State.wakeScan_in_round hphase
  · simp only [State.settleScan, hphase]
  · exact exec_turnaroundGapEnd_of hp hlink
  · rw [exec_turnaroundGapEnd_of hp hlink]
    simp only [State.applyOutcome, hgone, if_true]
    rfl
  · obtain ⟨hbegins, hrecords, hbroadcast, hlanes, hsettings⟩ := (s.setLink .idle).beginRound_began 0
    exact ⟨hbegins, hrecords, hbroadcast, hlanes, hsettings⟩

end Sys2Proof.Machine
end

section
/-! The frame a visit chooses (O38). -/

namespace Sys2Proof.Machine

/-! ### Parts of a visit -/

theorem State.visitDue_iff (s : State) : s.visitDue = true ↔
    s.scan.phase = .visiting ∧ s.bus.link = .idle ∧ s.scan.build = none ∧ s.scan.broadcast = [] := by
  simp only [State.visitDue, Bool.and_eq_true, decide_eq_true_eq, Option.isNone_iff_eq_none,
    List.isEmpty_iff, and_assoc]

theorem State.startBuild_eq (s : State) (pos : Fin 16) (l : Lane) (cursor : Nat) :
    s.startBuild pos l cursor = { s with scan := { s.scan with
      build := some { pos := pos, lane := l, cursor := cursor, items := [] },
      read := some (s.scan.read.getD .batch) } } := by
  unfold State.startBuild
  cases s.scan.read
  all_goals rfl

/-- The state with another tally walk and read. -/
def State.walking (s : State) (walk : Option Walk) (read : Option ReadKind) : State :=
  { s with scan := { s.scan with walk := walk, read := read } }

/-- A tally walk begun changes the scanner's walk and its read alone (R153). -/
theorem State.beginWalk_eq (s : State) (pos : Fin 16) :
    ∃ walk read, s.beginWalk pos = s.walking walk read := by
  unfold State.beginWalk
  split
  · split
    · exact ⟨_, _, rfl⟩
    · exact ⟨_, _, rfl⟩
  · exact ⟨_, _, rfl⟩

/-- A frame sent depends on the bus as it stands alone. -/
theorem State.sendTo_bus_congr {s u : State} (h : u.bus = s.bus) (pos : Fin 16) (frame : BusFrame)
    (next : Nat) : (u.sendTo pos frame next).bus = (s.sendTo pos frame next).bus := by
  rw [State.sendTo_bus, State.sendTo_bus, h]

/-- What fixing the figures and sending the OPEN leaves (R99, R152). -/
theorem State.fixAndOpen_spec (s : State) (pos : Fin 16) (l : Lane) (target attempts : Nat)
    {f : FitFigures} (hf : f = s.figures pos l target) :
    ((s.fixAndOpen pos l target attempts).validator pos).lane l =
      { (s.validator pos).lane l with delivery := openingDelivery target attempts f }
    ∧ (s.fixAndOpen pos l target attempts).bus =
      (s.sendTo pos (.open l target f.expectCount f.cutoff f.truncated) 0).bus
    ∧ (s.fixAndOpen pos l target attempts).scan.exchanged = true
    ∧ (s.fixAndOpen pos l target attempts).scan.nextPos = pos.val + 1
    ∧ (s.fixAndOpen pos l target attempts).lanes = s.lanes
    ∧ (s.fixAndOpen pos l target attempts).store = s.store
    ∧ ((s.fixAndOpen pos l target attempts).ctl.flags =
      if f.truncated then s.ctl.flags ||| EventFlag.truncated.bit else s.ctl.flags)
    ∧ (f.truncated = true → s.raises (s.fixAndOpen pos l target attempts) [(.truncated,
      { position := pos.val + 1, lane := 1, generation := target, figure := f.capacity })])
    ∧ (f.truncated = false → s.raises (s.fixAndOpen pos l target attempts) []) := by
  have hset := State.Leaves.setValidator s pos ((s.validator pos).setLane l
    { (s.validator pos).lane l with delivery := openingDelivery target attempts f })
  have hlane : (((s.validator pos).setLane l
      { (s.validator pos).lane l with delivery := openingDelivery target attempts f })).lane l
      = { (s.validator pos).lane l with delivery := openingDelivery target attempts f } :=
    PerLane.get_set_same _ _ _
  cases htrunc : f.truncated with
  | false =>
    have hact : s.fixAndOpen pos l target attempts =
        (s.setDelivery pos l (openingDelivery target attempts f)).sendTo pos
          ((openingDelivery target attempts f).openFrame l) 0 := by
      simp only [State.fixAndOpen, ← hf, htrunc, Bool.false_eq_true, if_false]
    rw [hact]
    refine ⟨?_, ?_, rfl, rfl, rfl, rfl, rfl, nofun, fun _ => hset.raised⟩
    · rw [← hlane]
      exact congrArg (Validator.lane · l) hset.record
    · rw [Delivery.openFrame, openingDelivery, htrunc]
      rfl
  | true =>
    have hact : s.fixAndOpen pos l target attempts =
        ((s.setDelivery pos l (openingDelivery target attempts f)).rise .truncated
          { position := pos.val + 1, lane := 1, generation := target, figure := f.capacity }).sendTo pos
          ((openingDelivery target attempts f).openFrame l) 0 := by
      simp only [State.fixAndOpen, ← hf, htrunc, if_true]
    have hrise := hset.trans (State.Leaves.rise _ pos .truncated
      { position := pos.val + 1, lane := 1, generation := target, figure := f.capacity })
    rw [hset.record] at hrise
    rw [hact]
    refine ⟨?_, ?_, rfl, rfl, hrise.lanes, hrise.store, ?_, fun _ => hrise.raised, nofun⟩
    · rw [← hlane]
      exact congrArg (Validator.lane · l) hrise.record
    · refine (State.sendTo_bus_congr hrise.bus _ _ _).trans ?_
      rw [Delivery.openFrame, openingDelivery, htrunc]
    · exact State.raises_one_flags hrise.raised

/-! ### The steps of R151 -/

section
variable {s : State} {pos : Fin 16}

theorem State.visit_of_absent (h : (s.validator pos).presence = .seeking
    ∨ (s.validator pos).presence = .settling ∨ (s.validator pos).presence = .silent) :
    s.visit pos = s.sendTo pos .poll 0 := by
  obtain h | h | h := h
  all_goals simp only [State.visit, h]

/-- The steps of R151, in their order, after the walk. -/
def State.visitSteps (s : State) (pos : Fin 16) : State :=
  let b := (s.validator pos).lane .b
  let p := (s.validator pos).lane .p
  if b.dropOwed ≠ 0 then s.sendTo pos (.drop .b b.dropOwed) 0
  else if p.dropOwed ≠ 0 then s.sendTo pos (.drop .p p.dropOwed) 0
  else if b.delivery.state ≠ .idle then s.deliveryFrame pos .b
  else if p.delivery.state ≠ .idle then s.deliveryFrame pos .p
  else if switchDue (s.lane .b) b then s.sendTo pos (.switch .b (s.lane .b).active) 0
  else if switchDue (s.lane .p) p then s.sendTo pos (.switch .p (s.lane .p).active) 0
  else s.startDelivery pos

theorem State.visit_of_present (h : (s.validator pos).presence = .present) :
    s.visit pos = (s.beginWalk pos).visitSteps pos := by
  simp only [State.visit, h]
  rfl

theorem State.visitSteps_of_drop_b (hb : ((s.validator pos).lane .b).dropOwed ≠ 0) :
    s.visitSteps pos = s.sendTo pos (.drop .b ((s.validator pos).lane .b).dropOwed) 0 :=
  if_pos hb

theorem State.visitSteps_of_drop_p (hb : ((s.validator pos).lane .b).dropOwed = 0)
    (hp : ((s.validator pos).lane .p).dropOwed ≠ 0) :
    s.visitSteps pos = s.sendTo pos (.drop .p ((s.validator pos).lane .p).dropOwed) 0 := by
  simp only [State.visitSteps, hb, ne_eq, not_true_eq_false, if_false]
  exact if_pos hp

variable (hdrops : ∀ l, ((s.validator pos).lane l).dropOwed = 0)
include hdrops

theorem State.visitSteps_of_busy {l : Lane} (hl : ((s.validator pos).lane l).delivery.state ≠ .idle)
    (hfirst : l = .p → ((s.validator pos).lane .b).delivery.state = .idle) :
    s.visitSteps pos = s.deliveryFrame pos l := by
  cases l with
  | b => simp [State.visitSteps, hdrops, hl]
  | p => simp [State.visitSteps, hdrops, hl, hfirst rfl]

variable (hidle : ∀ l, ((s.validator pos).lane l).delivery.state = .idle)
include hidle

theorem State.visitSteps_of_switch_b
    (hb : switchDue (s.lane .b) ((s.validator pos).lane .b) = true) :
    s.visitSteps pos = s.sendTo pos (.switch .b (s.lane .b).active) 0 := by
  simp [State.visitSteps, hdrops, hidle, hb]

theorem State.visitSteps_of_switch_p
    (hb : switchDue (s.lane .b) ((s.validator pos).lane .b) = false)
    (hp : switchDue (s.lane .p) ((s.validator pos).lane .p) = true) :
    s.visitSteps pos = s.sendTo pos (.switch .p (s.lane .p).active) 0 := by
  simp [State.visitSteps, hdrops, hidle, hb, hp]

theorem State.visitSteps_of_none
    (hnone : ∀ l, switchDue (s.lane l) ((s.validator pos).lane l) = false) :
    s.visitSteps pos = s.startDelivery pos := by
  simp [State.visitSteps, hdrops, hidle, hnone]

end

/-! ### The frame of a delivery in progress -/

section
variable {s : State} {pos : Fin 16} {l : Lane}

theorem State.deliveryFrame_opening
    (hstate : ((s.validator pos).lane l).delivery.state = .opening)
    (hfixed : ((s.validator pos).lane l).delivery.refix = false) :
    s.deliveryFrame pos l = s.sendTo pos (((s.validator pos).lane l).delivery.openFrame l) 0 := by
  simp only [State.deliveryFrame, hstate, hfixed, Bool.false_eq_true, if_false]

theorem State.deliveryFrame_refix
    (hstate : ((s.validator pos).lane l).delivery.state = .opening)
    (hrefix : ((s.validator pos).lane l).delivery.refix = true) :
    s.deliveryFrame pos l = s.fixAndOpen pos l ((s.validator pos).lane l).delivery.target
      ((s.validator pos).lane l).delivery.attempts := by
  simp only [State.deliveryFrame, hstate, hrefix, if_true]

theorem State.deliveryFrame_closing
    (hstate : ((s.validator pos).lane l).delivery.state = .closing) :
    s.deliveryFrame pos l = s.sendTo pos (.close l ((s.validator pos).lane l).delivery.target) 0 := by
  simp only [State.deliveryFrame, hstate]

theorem State.deliveryFrame_sent (hstate : ((s.validator pos).lane l).delivery.state = .sending)
    (hsent : ((s.validator pos).lane l).delivery.sent = ((s.validator pos).lane l).delivery.expectCount
      ∨ s.size l ≤ ((s.validator pos).lane l).delivery.cursor) :
    s.deliveryFrame pos l = s.sendClose pos l := by
  simp only [State.deliveryFrame, hstate, if_pos hsent]

theorem State.deliveryFrame_sending (hstate : ((s.validator pos).lane l).delivery.state = .sending)
    (hsent : ((s.validator pos).lane l).delivery.sent
      ≠ ((s.validator pos).lane l).delivery.expectCount)
    (hcursor : ((s.validator pos).lane l).delivery.cursor < s.size l) :
    s.deliveryFrame pos l = if l = .b ∧ s.scan.roundNo % 8 = 0 then s.sendTo pos .poll 0
      else s.startBuild pos l ((s.validator pos).lane l).delivery.cursor := by
  have hnot := not_or.mpr ⟨hsent, Nat.not_le_of_lt hcursor⟩
  simp only [State.deliveryFrame, hstate, if_neg hnot]

end

/-- Settles O38: the steps of R151 in their order, on the state after the walk. -/
theorem visitChoosesTheFirstFrame : Obligations.VisitChoosesTheFirstFrame := by
  refine ⟨fun _ _ _ _ => rfl, fun _ _ _ _ => rfl, State.startBuild_eq, State.visitDue_iff,
    fun s pos hvisits => ?_⟩
  intro v u busy
  have hexec := exec_scannerVisit hvisits
  obtain ⟨walk, read, hu⟩ := s.beginWalk_eq pos
  refine ⟨fun habsent => ?_, fun hpresent => ?_⟩
  · rw [hexec, State.visit_of_absent habsent]
  · rw [State.visit_of_present hpresent] at hexec
    change exec .scannerVisit s = .next (u.visitSteps pos) at hexec
    change u = _ at hu
    clear_value u
    subst hu
    refine ⟨fun hb => ?_, fun hb hp => ?_, fun hb hp => ?_⟩
    · exact hexec.trans (congrArg Host.Outcome.next (State.visitSteps_of_drop_b hb))
    · exact hexec.trans (congrArg Host.Outcome.next (State.visitSteps_of_drop_p hb hp))
    · have hdrops : ∀ l, (v.lane l).dropOwed = 0 := fun l => match l with
        | .b => hb
        | .p => hp
      refine ⟨fun l hl hfirst => ?_, fun hnotb hnotp => ?_⟩
      · intro d
        have hframe := hexec.trans (congrArg Host.Outcome.next (State.visitSteps_of_busy
          (s := s.walking walk read) hdrops hl
          fun hlp => Decidable.not_not.mp (hfirst hlp)))
        refine ⟨fun hstate hfixed => ?_, fun f hstate hrefix hf => ?_, fun hstate => ?_,
          fun hstate hsent => ?_, fun hstate hsent hcursor => ⟨fun hlb hround => ?_, fun hother => ?_⟩⟩
        · exact hframe.trans (congrArg Host.Outcome.next (State.deliveryFrame_opening hstate hfixed))
        · have hopen := hframe.trans (congrArg Host.Outcome.next (State.deliveryFrame_refix
            (s := s.walking walk read) hstate hrefix))
          obtain ⟨hlane, hbus, hexchanged, hnext, _, _, hflags, htruncated, hwhole⟩ :=
            State.fixAndOpen_spec (s.walking walk read) pos l d.target d.attempts (f := f) hf
          refine ⟨_, hopen, ?_, hbus, hexchanged, hnext, hflags, fun h => ?_, fun h => ?_⟩
          · exact congrArg ValidatorLane.delivery hlane
          · exact State.raises_congr (htruncated h) ⟨rfl, rfl, rfl, rfl⟩ rfl ⟨rfl, rfl, rfl, rfl⟩ rfl
          · exact State.raises_congr (hwhole h) ⟨rfl, rfl, rfl, rfl⟩ rfl ⟨rfl, rfl, rfl, rfl⟩ rfl
        · exact hframe.trans (congrArg Host.Outcome.next (State.deliveryFrame_closing hstate))
        · exact hframe.trans (congrArg Host.Outcome.next (State.deliveryFrame_sent hstate hsent))
        · refine hframe.trans (congrArg Host.Outcome.next ?_)
          exact (State.deliveryFrame_sending (s := s.walking walk read) hstate hsent hcursor).trans (if_pos ⟨hlb, hround⟩)
        · refine hframe.trans (congrArg Host.Outcome.next ?_)
          refine (State.deliveryFrame_sending (s := s.walking walk read) hstate hsent hcursor).trans (if_neg ?_)
          rintro ⟨rfl, hround⟩
          exact hother.elim nofun (absurd hround)
      · have hidle : ∀ l, (v.lane l).delivery.state = .idle :=
          fun l => match l with
            | .b => Decidable.not_not.mp hnotb
            | .p => Decidable.not_not.mp hnotp
        refine ⟨fun hdueb => ?_, fun hdueb hduep => ?_⟩
        · exact hexec.trans (congrArg Host.Outcome.next
            (State.visitSteps_of_switch_b hdrops hidle hdueb))
        · exact hexec.trans (congrArg Host.Outcome.next
            (State.visitSteps_of_switch_p hdrops hidle hdueb hduep))

end Sys2Proof.Machine
end

section
/-! The delivery a visit starts (O39). -/

namespace Sys2Proof.Machine

/-! ### Targets (R150, R168) -/

theorem State.classOf_of {s : State} {pos : Fin 16} {k : Fin 8} (h : s.settings.roster[pos] = some k) :
    s.classOf pos = some s.settings.classes[k] := by
  rw [State.classOf, h]
  rfl

theorem ClassRec.takes_iff (c : ClassRec) (l : Lane) :
    c.takes l = true ↔ (l = .b → 1 ≤ c.capacity) ∧ (l = .p → c.takesProducts = true) := by
  cases l
  all_goals simp [ClassRec.takes]

theorem targetOf_eq_some_iff (r : LaneRec) (y : ValidatorLane) (g : Nat) :
    targetOf r y = some g ↔
      ((r.active ≠ 0 ∧ y.held ≠ r.active ∧ y.pending ≠ r.active ∧ y.faulty ≠ r.active
          ∧ y.unfit ≠ r.active) ∧ g = r.active)
      ∨ (¬(r.active ≠ 0 ∧ y.held ≠ r.active ∧ y.pending ≠ r.active ∧ y.faulty ≠ r.active
          ∧ y.unfit ≠ r.active)
        ∧ (r.state = .ready ∧ r.active ≠ 0 ∧ y.held = r.active ∧ y.pending ≠ r.stagedGen
          ∧ y.faulty ≠ r.stagedGen ∧ y.unfit ≠ r.stagedGen) ∧ g = r.stagedGen) := by
  unfold targetOf
  split
  · next h =>
    exact ⟨fun he => .inl ⟨h, (Option.some.inj he).symm⟩,
      fun he => he.elim (fun hl => by rw [hl.2]) fun hr => absurd h hr.1⟩
  · next h =>
    split
    · next hready =>
      exact ⟨fun he => .inr ⟨h, hready, (Option.some.inj he).symm⟩,
        fun he => he.elim (fun hl => absurd hl.1 h) fun hr => by rw [hr.2.2]⟩
    · next hready =>
      exact ⟨nofun, fun he => he.elim (fun hl => absurd hl.1 h) fun hr => absurd hr.2.1 hready⟩

theorem State.target_eq_some_iff (s : State) (pos : Fin 16) (l : Lane) (g : Nat) :
    s.target pos l = some g ↔
      (∃ k, s.settings.roster[pos] = some k ∧ (l = .b → 1 ≤ s.settings.classes[k].capacity)
        ∧ (l = .p → s.settings.classes[k].takesProducts = true))
      ∧ targetOf (s.lane l) ((s.validator pos).lane l) = some g := by
  cases hroster : s.settings.roster[pos] with
  | none =>
    have hclass : s.classOf pos = none := by rw [State.classOf, hroster]; rfl
    simp only [State.target, hclass, reduceCtorEq, false_and, exists_false]
  | some k =>
    simp only [State.target, State.classOf_of hroster, Option.some.injEq]
    have htakes := ClassRec.takes_iff s.settings.classes[k] l
    split
    · next h => exact ⟨fun he => ⟨⟨k, rfl, htakes.mp h⟩, he⟩, fun he => he.2⟩
    · next h =>
      refine ⟨nofun, ?_⟩
      rintro ⟨⟨k', rfl, hk⟩, _⟩
      exact absurd (htakes.mpr hk) h

theorem switchDue_iff (r : LaneRec) (y : ValidatorLane) :
    switchDue r y = true ↔ r.active ≠ 0 ∧ y.pending = r.active ∧ y.held ≠ r.active
      ∧ y.delivery.state = .idle ∧ y.delivery.target = r.active ∧ y.faulty ≠ r.active := by
  rw [switchDue, decide_eq_true_iff, Delivery.confirmed_eq]
  by_cases hidle : y.delivery.state = .idle
  · simp only [hidle, if_true]
  · simp only [hidle, false_and, and_false]

/-! ### Figures and tallies (R97, R102, R153) -/

theorem Scanner.tallyOf_eq_none_iff (t : Scanner) (g : Nat) :
    t.tallyOf g = none ↔ ∀ x ∈ t.tally, x.generation ≠ g := by
  simp [Scanner.tallyOf, List.find?_eq_none]

theorem Scanner.tallyOf_of_first {t : Scanner} {g : Nat} {older newer : List TallyEntry}
    {x : TallyEntry} (h : t.tally = older ++ x :: newer) (holder : ∀ y ∈ older, y.generation ≠ g)
    (hx : x.generation = g) : t.tallyOf g = some x.tally := by
  have hnone : older.find? (fun y => decide (y.generation = g)) = none :=
    List.find?_eq_none.mpr fun y hy => by simpa using holder y hy
  rw [Scanner.tallyOf, h, List.find?_append, hnone, Option.none_or, List.find?_cons_of_pos (by simpa using hx)]
  rfl

/-! ### The walk that a visit begins (R153) -/

theorem State.beginWalk_of_unknown {s : State} {pos : Fin 16} {g : Nat}
    (htarget : s.target pos .p = some g) (hwalk : s.scan.walk = none)
    (htally : s.scan.tallyOf g = none) :
    s.beginWalk pos = { s with scan := { s.scan with
      walk := some { generation := g, cursor := 0, tally := 0 },
      read := some (s.scan.read.getD .tally) } } := by
  unfold State.beginWalk
  simp only [htarget, hwalk, htally, Option.isSome_none, Bool.false_eq_true, if_false]
  cases s.scan.read
  all_goals rfl

theorem State.beginWalk_of_needless {s : State} {pos : Fin 16}
    (h : s.target pos .p = none ∨ s.scan.walk ≠ none
      ∨ ∃ g tally, s.target pos .p = some g ∧ s.scan.tallyOf g = some tally) :
    s.beginWalk pos = s := by
  unfold State.beginWalk
  split
  · next g hg hw =>
    obtain h | h | ⟨g', tally, h, htally⟩ := h
    · rw [h] at hg
      cases hg
    · exact absurd hw h
    · rw [h] at hg
      cases hg
      rw [htally]
      rfl
  · rfl

/-! ### Steps 4 and 5 of R151 -/

section
variable {s : State} {pos : Fin 16}

theorem State.startDelivery_of_b {g : Nat} (htarget : s.target pos .b = some g)
    (hready : ((s.validator pos).lane .b).ready = true) :
    s.startDelivery pos = s.fixAndOpen pos .b g 0 := by
  simp only [State.startDelivery, htarget, hready, if_true]

theorem State.startDelivery_of_not_b
    (h : s.target pos .b = none ∨ ((s.validator pos).lane .b).ready = false) :
    s.startDelivery pos = s.startProduct pos := by
  unfold State.startDelivery
  split
  · next g hg =>
    obtain h | h := h
    · rw [h] at hg
      cases hg
    · rw [h]
      rfl
  · rfl

theorem State.startProduct_of_tally {g tally : Nat} (htarget : s.target pos .p = some g)
    (hready : ((s.validator pos).lane .p).ready = true) (htally : s.scan.tallyOf g = some tally) :
    s.startProduct pos = if s.productCapacity pos < tally
      then (s.markUnfit pos g tally).sendTo pos .poll 0 else s.fixAndOpen pos .p g 0 := by
  simp only [State.startProduct, htarget, hready, htally, if_true]

theorem State.startProduct_of_none
    (h : s.target pos .p = none ∨ ((s.validator pos).lane .p).ready = false
      ∨ ∃ g, s.target pos .p = some g ∧ s.scan.tallyOf g = none) :
    s.startProduct pos = s.sendTo pos .poll 0 := by
  unfold State.startProduct
  split
  · next g hg =>
    obtain h | h | ⟨g', h, htally⟩ := h
    · rw [h] at hg
      cases hg
    · rw [h]
      rfl
    · rw [h] at hg
      cases hg
      simp only [htally, ite_self]
  · rfl

/-- A lane-P target marked unfit, with UNFIT (R153). -/
theorem State.Leaves.markUnfit (s : State) (pos : Fin 16) (g tally : Nat) :
    s.Leaves (s.markUnfit pos g tally) pos
      ((s.validator pos).setLane .p { (s.validator pos).lane .p with unfit := g })
      [(.unfit, { position := pos.val + 1, generation := g, figure := tally })] := by
  have h := State.Leaves.setLanePart s pos .p { (s.validator pos).lane .p with unfit := g }
  have hrise := h.trans (State.Leaves.rise _ pos .unfit
    { position := pos.val + 1, generation := g, figure := tally })
  rw [h.record] at hrise
  exact hrise

end

/-- Settles O39: lane B before lane P, on the state after the walk. -/
theorem visitStartsDelivery : Obligations.VisitStartsDelivery := by
  refine ⟨fun s pos l g => ⟨?_, switchDue_iff _ _⟩, fun s pos g k hk => ?_,
    fun t g => ⟨t.tallyOf_eq_none_iff g, fun older x newer => Scanner.tallyOf_of_first⟩,
    fun s pos hvisits => ?_⟩
  · exact (s.target_eq_some_iff pos l g).trans (and_congr_right fun _ => targetOf_eq_some_iff _ _ g)
  · have hclass := State.classOf_of hk
    refine ⟨?_, ?_, ?_⟩
    · simp only [State.figures, hclass, LaneRec.targetDigest]
    · simp only [State.figures, State.productCapacity, hclass, LaneRec.targetDigest, fitProduct]
    · simp only [State.productCapacity, hclass]
  · intro v u hpresent
    have hexec := exec_scannerVisit hvisits
    refine ⟨fun g => State.beginWalk_of_unknown, State.beginWalk_of_needless, fun hfree => ?_⟩
    rw [State.visit_of_present hpresent] at hexec
    obtain ⟨walk, read, hu⟩ := s.beginWalk_eq pos
    change exec .scannerVisit s = .next (u.visitSteps pos) at hexec
    change u = _ at hu
    clear_value u
    subst hu
    have hstart := hexec.trans (congrArg Host.Outcome.next (State.visitSteps_of_none
      (s := s.walking walk read) (fun l => (hfree l).1) (fun l => (hfree l).2.1)
      fun l => (hfree l).2.2))
    have hraises : ∀ {t rises}, (s.walking walk read).raises t rises → s.raises t rises :=
      fun h => State.raises_congr h ⟨rfl, rfl, rfl, rfl⟩ rfl ⟨rfl, rfl, rfl, rfl⟩ rfl
    refine ⟨fun g f htarget hready hf => ?_, fun hnotb => ⟨fun g tally htarget hready htally =>
      ⟨fun hfits => ?_, fun hlarge => ?_⟩, fun hnone => ?_⟩⟩
    · obtain ⟨hlane, hbus, hexchanged, hnext, hlanes, hstore, hflags, htruncated, hwhole⟩ :=
        State.fixAndOpen_spec (s.walking walk read) pos .b g 0 (f := f) hf
      exact ⟨_, hstart.trans (congrArg Host.Outcome.next
        (State.startDelivery_of_b (s := s.walking walk read) htarget hready)), hlane, hbus, hexchanged,
        hnext, hlanes, hstore, hflags, fun h => hraises (htruncated h), fun h => hraises (hwhole h)⟩
    · obtain ⟨hlane, hbus, hexchanged, hnext, _, _, _, _, hwhole⟩ :=
        State.fixAndOpen_spec (s.walking walk read) pos .p g 0 rfl
      have hact := (State.startDelivery_of_not_b (s := s.walking walk read) hnotb).trans
        ((State.startProduct_of_tally (s := s.walking walk read) htarget hready htally).trans
          (if_neg (Nat.not_lt_of_le hfits)))
      exact ⟨_, hstart.trans (congrArg Host.Outcome.next hact),
        congrArg ValidatorLane.delivery hlane, hbus, hexchanged, hnext, hraises (hwhole rfl)⟩
    · have hact := (State.startDelivery_of_not_b (s := s.walking walk read) hnotb).trans
        ((State.startProduct_of_tally (s := s.walking walk read) htarget hready htally).trans (if_pos hlarge))
      have hmark := State.Leaves.markUnfit (s.walking walk read) pos g tally
      refine ⟨_, hstart.trans (congrArg Host.Outcome.next hact), ?_,
        State.raises_one_flags (hraises hmark.raised), hraises hmark.raised,
        State.sendTo_bus_congr hmark.bus pos .poll 0, rfl, rfl⟩
      exact congrArg (Validator.lane · .p) hmark.record
    · have hact := (State.startDelivery_of_not_b (s := s.walking walk read) hnotb).trans
        (State.startProduct_of_none hnone)
      exact hstart.trans (congrArg Host.Outcome.next hact)

end Sys2Proof.Machine
end

section
/-! The scanner's reads (O40). -/

namespace Sys2Proof.Machine

/-! ### The read of a BATCH (R155) -/

theorem State.batchSize_of {s : State} {pos : Fin 16} {k : Fin 8}
    (h : s.settings.roster[pos] = some k) : s.batchSize pos = s.settings.classes[k].batchSize := by
  simp only [State.batchSize, State.classOf_of h]

theorem State.buildDone_iff (s : State) (b : Build) (d : Delivery) :
    s.buildDone b d = true ↔ s.batchSize b.pos ≤ b.items.length
      ∨ (d.truncated = true ∧ d.expectCount ≤ d.sent + b.items.length) ∨ s.size b.lane ≤ b.cursor := by
  simp only [State.buildDone, Bool.or_eq_true, Bool.and_eq_true, decide_eq_true_eq, or_assoc]

theorem exec_batchSlotRead {s : State} {b : Build} (hp : s.power = .running)
    (hgrant : s.nextGrant = some .scanner) (hread : s.scan.read = some .batch)
    (hbuild : s.scan.build = some b) :
    exec .batchSlotRead s = .next
      (let d := ((s.validator b.pos).lane b.lane).delivery
      let b' := b.readSlot (s.region b.lane) d
      if (s.granted .scanner).buildDone b' d then (s.granted .scanner).sendBuild b' d
      else { s.granted .scanner with scan := { s.scan with build := some b' } }) := by
  rw [exec_of_running hp]
  simp only [actOf, batchSlotReadStep, hbuild, if_pos (And.intro hgrant hread)]
  rfl

theorem Scanner.idleRead_eq (t : Scanner) : t.idleRead = t.walk.map fun _ => .tally := by
  unfold Scanner.idleRead
  cases t.walk
  all_goals rfl

theorem State.sendBuild_empty {s : State} {b : Build} (d : Delivery) (h : b.items = []) :
    s.sendBuild b d = ({ s with scan := { s.scan with
      build := none, read := s.scan.walk.map fun _ => .tally } } : State).sendClose b.pos b.lane := by
  simp only [State.sendBuild, h, List.getLast?_nil, Scanner.idleRead_eq]

theorem State.sendBuild_items {s : State} {b : Build} (d : Delivery) {before : List (Nat × BatchItem)}
    {last : Nat} {i : BatchItem} (h : b.items = before ++ [(last, i)]) :
    s.sendBuild b d = ({ s with scan := { s.scan with
      build := none, read := s.scan.walk.map fun _ => .tally } } : State).sendTo b.pos
        (.batch b.lane d.target d.batchNo (b.items.map Prod.snd)) (last + 1) := by
  have hlast : b.items.getLast? = some (last, i) := by rw [h, List.getLast?_concat]
  simp only [State.sendBuild, hlast, Scanner.idleRead_eq]

/-! ### The read of the tally walk (R153) -/

/-- The generations whose tallies stay when the table is full. -/
def LaneRec.keepsTally (r : LaneRec) (x : TallyEntry) : Prop :=
  x.generation = r.active ∨ (r.state.holdsStaging = true ∧ x.generation = r.stagedGen)

theorem dropTally_first {keep : Nat → Bool} {older newer : List TallyEntry} {x : TallyEntry}
    (holder : ∀ y ∈ older, keep y.generation = true) (hx : keep x.generation = false) :
    dropTally keep (older ++ x :: newer) = older ++ newer := by
  induction older with
  | nil => simp only [List.nil_append, dropTally, hx, Bool.false_eq_true, if_false]
  | cons y older ih =>
    obtain ⟨hy, hrest⟩ := List.forall_mem_cons.mp holder
    simp only [List.cons_append, dropTally, hy, if_true, ih hrest]

theorem LaneRec.keepsTally_iff (r : LaneRec) (x : TallyEntry) :
    (decide (x.generation = r.active) || r.isStagedGen x.generation) = true ↔ r.keepsTally x := by
  rw [Bool.or_eq_true, decide_eq_true_iff, LaneRec.isStagedGen, Bool.and_eq_true, decide_eq_true_iff,
    LaneRec.keepsTally, eq_comm (a := r.stagedGen)]

/-- The last slot of the walk has been read. -/
def State.walkEnded (s : State) : State :=
  { s.granted .scanner with scan := { s.scan with walk := none } }

theorem exec_tallySlotRead {s : State} {w : Walk} (hp : s.power = .running)
    (hgrant : s.nextGrant = some .scanner) (hread : s.scan.read = some .tally)
    (hwalk : s.scan.walk = some w) :
    exec .tallySlotRead s = .next
      (let tally := w.tally + (s.region .p).tallyAt w.cursor w.generation
      let u := if w.cursor + 1 < s.size .p then
          { s.granted .scanner with scan := { s.scan with
              walk := some { w with cursor := w.cursor + 1, tally := tally } } }
        else s.walkEnded.enterTally { generation := w.generation, tally := tally }
      { u with scan := { u.scan with read := u.scan.readAfterTally } }) := by
  rw [exec_of_running hp]
  simp only [actOf, tallySlotReadStep, hwalk, if_pos (And.intro hgrant hread)]
  rfl

theorem State.enterTally_of_room {s : State} (x : TallyEntry) (h : s.scan.tally.length < 4) :
    s.enterTally x = { s with scan := { s.scan with tally := s.scan.tally ++ [x] } } := by
  simp only [State.enterTally, if_pos h]

theorem State.enterTally_of_full {s : State} (x : TallyEntry) {older newer : List TallyEntry}
    {y : TallyEntry} (h : 4 ≤ s.scan.tally.length) (htable : s.scan.tally = older ++ y :: newer)
    (holder : ∀ z ∈ older, (s.lane .p).keepsTally z) (hy : ¬ (s.lane .p).keepsTally y) :
    s.enterTally x = { s with scan := { s.scan with tally := older ++ newer ++ [x] } } := by
  have hdrop := dropTally_first (newer := newer)
    (keep := fun g => decide (g = (s.lane .p).active) || (s.lane .p).isStagedGen g)
    (fun z hz => ((s.lane .p).keepsTally_iff z).mpr (holder z hz))
    (Bool.eq_false_iff.mpr fun h => hy (((s.lane .p).keepsTally_iff y).mp h))
  rw [htable] at h
  simp only [State.enterTally, htable, if_neg (Nat.not_lt_of_le h), hdrop]

/-! ### What a slot gives (R153, R155) -/

section
variable {m : Memory} {a : Nat}

theorem Memory.tallyAt_block {e : BlockEntry} (h : m.read a = some (.block e)) (g : Nat) :
    m.tallyAt a g = 0 := by
  simp only [Memory.tallyAt, h]

theorem Memory.batchItem_block {e : BlockEntry} (h : m.read a = some (.block e)) (g cutoff : Nat) :
    m.batchItem a g cutoff =
      if stampsVisible e.added e.removed g ∧ cutoff ≤ e.priority.val
        then some (.block e.token e.priority) else none := by
  simp only [Memory.batchItem, h]

theorem Memory.tallyAt_head {h : ProductHead} (hread : m.read a = some (.head h)) (g : Nat) :
    m.tallyAt a g =
      if stampsVisible h.added h.removed g then (if h.tail.isSome then 2 else 1) else 0 := by
  simp only [Memory.tallyAt, hread]

theorem Memory.batchItem_head {h : ProductHead} (hread : m.read a = some (.head h)) (g cutoff : Nat) :
    m.batchItem a g cutoff =
      if stampsVisible h.added h.removed g then some (.product (m.recordAt h)) else none := by
  simp only [Memory.batchItem, hread]

theorem Memory.gives_nothing (h : m.read a = none ∨ ∃ x, m.read a = some (.tail x)) (g cutoff : Nat) :
    m.batchItem a g cutoff = none ∧ m.tallyAt a g = 0 := by
  obtain h | ⟨x, h⟩ := h
  all_goals simp only [Memory.batchItem, Memory.tallyAt, h, and_self]

end

/-- The read asked for after a tally read whose walk goes on, and after its last (R153). -/
theorem Scanner.readAfterTally_eq (t : Scanner) :
    (∀ w, t.walk = some w →
      t.readAfterTally = if t.build = none then some .tally else some .batch)
    ∧ (t.walk = none → t.readAfterTally = t.build.map fun _ => .batch) := by
  unfold Scanner.readAfterTally Scanner.idleRead
  refine ⟨fun w hw => ?_, fun hw => ?_⟩
  all_goals
    rw [hw]
    cases t.build
    all_goals rfl

/-- Settles O40: a BATCH read by whether the BATCH is done, a tally read by whether the walk is. -/
theorem scannerReadsOneSlot : Obligations.ScannerReadsOneSlot := by
  refine ⟨fun s pos l => ⟨fun k => State.batchSize_of, rfl⟩, fun s hp hgrant => ⟨?_, ?_⟩, ?_⟩
  · intro b hread hbuild d items done built
    have hexec := exec_batchSlotRead hp hgrant hread hbuild
    have hdone : (s.granted .scanner).buildDone (b.readSlot (s.region b.lane) d) d = true ↔ done :=
      State.buildDone_iff _ _ _
    dsimp only at hexec
    refine ⟨fun hnot => ?_, fun hyes hempty => ?_, fun before last i hyes hitems => ?_⟩
    · rw [hexec, if_neg (hnot ∘ hdone.mp)]
      rfl
    · rw [hexec, if_pos (hdone.mpr hyes), State.sendBuild_empty _ hempty]
      rfl
    · rw [hexec, if_pos (hdone.mpr hyes), State.sendBuild_items _ hitems]
      rfl
  · intro w hread hwalk tally p kept entered
    have hexec := exec_tallySlotRead hp hgrant hread hwalk
    dsimp only at hexec
    refine ⟨fun hmore => ?_, fun hlast hroom => ?_, fun older x newer hlast hfull htable holder hx => ?_⟩
    · rw [hexec, if_pos hmore]
      refine congrArg Host.Outcome.next ?_
      dsimp only
      rw [(Scanner.readAfterTally_eq _).1 _ rfl]
      rfl
    · rw [hexec, if_neg (Nat.not_lt_of_le hlast), State.enterTally_of_room (s := s.walkEnded) _ hroom]
      refine congrArg Host.Outcome.next ?_
      dsimp only
      rw [(Scanner.readAfterTally_eq _).2 rfl]
      rfl
    · rw [hexec, if_neg (Nat.not_lt_of_le hlast),
        State.enterTally_of_full (s := s.walkEnded) _ hfull htable holder hx]
      refine congrArg Host.Outcome.next ?_
      dsimp only
      rw [(Scanner.readAfterTally_eq _).2 rfl]
      rfl
  · intro m a g cutoff seen
    refine ⟨fun e he => ⟨Memory.tallyAt_block he g, fun h => ?_, fun h => ?_⟩,
      fun h hh => ⟨fun hunseen => ?_, fun hseen => ?_⟩, fun h => Memory.gives_nothing h g cutoff⟩
    · rw [Memory.batchItem_block he, if_pos]
      exact ⟨(stampsVisible_iff _ _ _).mpr h.1, h.2⟩
    · rw [Memory.batchItem_block he, if_neg]
      exact fun hv => h ⟨(stampsVisible_iff _ _ _).mp hv.1, hv.2⟩
    · have hnot := fun hv => hunseen ((stampsVisible_iff h.added h.removed g).mp hv)
      rw [Memory.batchItem_head hh, Memory.tallyAt_head hh, if_neg hnot, if_neg hnot]
      exact ⟨rfl, rfl⟩
    · have hyes := (stampsVisible_iff h.added h.removed g).mpr hseen
      intro carried
      rw [Memory.tallyAt_head hh, if_pos hyes]
      have hitem := Memory.batchItem_head hh g cutoff
      rw [if_pos hyes] at hitem
      refine ⟨fun hnone => ⟨by rw [hnone]; rfl, ?_⟩, fun t x hsome => ⟨by rw [hsome]; rfl, fun htail => ?_⟩⟩
      · show m.batchItem a g cutoff = _
        rw [hitem, Memory.recordAt_of_single m hnone]
      · show m.batchItem a g cutoff = _
        rw [hitem, Memory.recordAt_of_pair hsome htail]

end Sys2Proof.Machine
end

section
/-! The judgement of a reply (O42). -/

namespace Sys2Proof.Machine

/-! ### Characters taken in (R123) -/

/-- More characters of the reply are to come. -/
def unfinishedReply (taken : List RxChar) : Prop :=
  taken.length < 5 ∨ (field (taken.map RxChar.byte) 3 2 ≤ 16
    ∧ taken.length < field (taken.map RxChar.byte) 3 2 + 7)

theorem declaredLength_of_long {chars : List RxChar} (h : 5 ≤ chars.length) :
    declaredLength chars = some (field (chars.map RxChar.byte) 3 2) :=
  if_pos h

/-- The declared length of a longer part is that of a shorter one that holds it. -/
theorem field_length_append {kept new : List RxChar} (h : 5 ≤ kept.length) :
    field ((kept ++ new).map RxChar.byte) 3 2 = field (kept.map RxChar.byte) 3 2 := by
  simp only [field, List.map_append]
  rw [List.drop_append_of_le_length (by simp; omega),
    List.take_append_of_le_length (by simp; omega)]

section
variable {x : Addressed} {b : Bus} {kept new : List RxChar}

/-- A reply begins with its first character, announced or not (log 19). -/
theorem Bus.chars_begin (hlink : b.link = .receiving x kept ∨ (b.link = .waiting x ∧ kept = []))
    (htaken : kept ++ new ≠ []) :
    new.foldl Bus.char b = new.foldl Bus.char { b with link := .receiving x kept } := by
  obtain h | ⟨h, rfl⟩ := hlink
  · rw [← h]
  · exact Bus.chars_waiting x b new htaken h

/-- Characters of an unfinished reply are kept. -/
theorem Bus.chars_unfinished (hlink : b.link = .receiving x kept)
    (hopen : unfinishedReply (kept ++ new)) :
    new.foldl Bus.char b = { b with link := .receiving x (kept ++ new) } := by
  refine Bus.chars_receiving x b kept new hlink fun pre c post hsplit n hn => ?_
  have hwhole : kept ++ new = (kept ++ pre) ++ c :: post := by rw [hsplit, List.append_assoc]
  obtain ⟨hfield, hfive⟩ := declaredLength_prefix hwhole hn
  have hlen := congrArg List.length hwhole
  simp only [List.length_append, List.length_cons] at hlen hfive
  obtain hshort | ⟨hsmall, hmore⟩ := hopen
  · rw [List.length_append] at hshort
    omega
  · rw [List.length_append] at hmore
    rw [hfield]
    omega

/-- The last character of a reply has it judged. -/
theorem Bus.char_last {c : RxChar} {taken : List RxChar} {n : Nat} (hlink : b.link = .receiving x taken)
    (hn : declaredLength taken = some n) (hsmall : n ≤ 16) (hlast : taken.length + 1 = n + 7) :
    b.char c = { b with link := .turnaround x (judgeReply x (taken ++ [c])) } := by
  have hnot : ¬ largestReplyBody < n := Nat.not_lt_of_le hsmall
  simp only [Bus.char, Bus.startBit, hlink, receiveChar, hn, if_neg hnot, if_pos hlast]

/-- A reply whose bytes have all arrived is judged. -/
theorem Bus.chars_complete (hlink : b.link = .receiving x kept) (hopen : unfinishedReply kept)
    (hsmall : field ((kept ++ new).map RxChar.byte) 3 2 ≤ 16)
    (hlen : (kept ++ new).length = field ((kept ++ new).map RxChar.byte) 3 2 + 7) :
    new.foldl Bus.char b = { b with link := .turnaround x (judgeReply x (kept ++ new)) } := by
  have hnew : new ≠ [] := by
    rintro rfl
    rw [List.append_nil] at hlen
    obtain h | ⟨_, h⟩ := hopen
    · omega
    · omega
  obtain ⟨init, c, rfl⟩ := List.eq_nil_or_concat new |>.resolve_left hnew
  have htaken : 5 ≤ (kept ++ init).length := by
    simp only [List.concat_eq_append, List.length_append, List.length_singleton] at hlen ⊢
    omega
  rw [List.concat_eq_append, ← List.append_assoc] at hsmall hlen ⊢
  rw [field_length_append htaken] at hsmall hlen
  rw [List.length_append, List.length_singleton] at hlen
  have hinit := Bus.chars_unfinished (new := init) hlink (.inr ⟨hsmall, by omega⟩)
  rw [List.foldl_append, hinit]
  exact Bus.char_last (b := { b with link := .receiving x (kept ++ init) }) rfl (declaredLength_of_long htaken) hsmall hlen

/-- An overlong reply is kept up to its length field (R123). -/
theorem Bus.chars_overlong_kept (hlink : b.link = .receiving x kept) (hkept : kept.length ≤ 5)
    (hfive : 5 ≤ (kept ++ new).length) (hlong : 16 < field ((kept ++ new).map RxChar.byte) 3 2) :
    new.foldl Bus.char b = { b with link := .receiving x ((kept ++ new).take 5) } := by
  have htake : (kept ++ new).take 5 = kept ++ new.take (5 - kept.length) := by
    rw [List.take_append, List.take_of_length_le hkept]
  have hlen : (kept ++ new.take (5 - kept.length)).length = 5 := by
    rw [← htake, List.length_take]
    omega
  have hhead : (new.take (5 - kept.length)).foldl Bus.char b
      = { b with link := .receiving x (kept ++ new.take (5 - kept.length)) } := by
    refine Bus.chars_receiving x b kept _ hlink fun pre c post hsplit n hn => ?_
    obtain ⟨_, hpre⟩ := declaredLength_prefix
      (show kept ++ new.take (5 - kept.length) = (kept ++ pre) ++ c :: post by
        rw [hsplit, List.append_assoc]) hn
    rw [hsplit] at hlen
    simp only [List.length_append, List.length_cons] at hlen hpre
    omega
  have hdeclared : field ((kept ++ new.take (5 - kept.length)).map RxChar.byte) 3 2
      = field ((kept ++ new).map RxChar.byte) 3 2 := by
    have h := field_length_append (new := new.drop (5 - kept.length)) (Nat.le_of_eq hlen.symm)
    rw [List.append_assoc, List.take_append_drop] at h
    exact h.symm
  rw [htake, ← List.take_append_drop (5 - kept.length) new, List.foldl_append, hhead,
    List.take_append_drop]
  exact Bus.chars_overlong x _ _ _ _ rfl ((declaredLength_of_long (Nat.le_of_eq hlen.symm)).trans (by rw [hdeclared]))
    hlong

end

theorem exec_replyReceived {s : State} (hp : s.power = .running) (new : List RxChar) :
    exec (.replyReceived new) s = .next { s with bus := new.foldl Bus.char s.bus } := by
  rw [exec_of_running hp]
  rfl

/-- Settles O42: by how far the characters taken in complete the reply. -/
theorem completeReplyIsJudged : Obligations.CompleteReplyIsJudged := by
  intro s x kept new hp hlink unfinished chars bytes n linked
  have hbegin := fun htaken => Bus.chars_begin (new := new) hlink htaken
  refine ⟨fun hopen hsmall hlen => ?_, fun hnew hopen => ?_, fun hkept hfive hlong => ?_,
    fun taken => ⟨_, exec_of_running (s := linked (.receiving x taken)) hp _, rfl⟩⟩
  · intro front
    have htaken : kept ++ new ≠ [] := by
      refine List.ne_nil_of_length_pos ?_
      change 0 < chars.length
      omega
    exact ⟨_, by rw [exec_replyReceived hp, hbegin htaken, Bus.chars_complete rfl hopen hsmall hlen],
      judgeReply_spec x chars n hlen⟩
  · rw [exec_replyReceived hp, hbegin (List.append_ne_nil_of_right_ne_nil _ hnew),
      Bus.chars_unfinished rfl hopen]
  · have htaken : kept ++ new ≠ [] := List.ne_nil_of_length_pos (Nat.lt_of_lt_of_le (by decide) hfive)
    rw [exec_replyReceived hp, hbegin htaken, Bus.chars_overlong_kept rfl hkept hfive hlong]

end Sys2Proof.Machine
end

section
/-! A sweep's completion (O30). -/

namespace Sys2Proof.Machine

/-! ### The completion, its answer apart (R82) -/

/-- An UNDO sweep's completion, but for the answer of the command that waits (R35). -/
def State.undoEffect (s : State) (l : Lane) : State :=
  let r := s.lane l
  if r.state = .discarding then
    match r.pendingCommand with
    | none => s.setLane l r.emptied
    | some .rollback => (s.setLane l { r.emptied with pendingCommand := none }).completeRollback l
    | some .clear | some (.subscribe _) => s
  else s

/-- The settings with the stream of a pending SUBSCRIBE stored (R45). -/
def State.storeStream (s : State) (l : Lane) : State :=
  match (s.lane l).pendingCommand with
  | some (.subscribe stream) =>
    { s with settings := { s.settings with subs := s.settings.subs.set l stream } }
  | _ => s

/-- A CLEAR sweep's completion, but for the answer of the command that waits (R45). -/
def State.clearEffect (s : State) (l : Lane) : State :=
  let r := s.lane l
  if r.state = .discarding ∧ r.clearPending then
    (s.storeStream l).setLane l { r.emptied with
      undoDeferred := false, viewNewest := 0, viewOldest := 0, pendingCommand := none }
  else s

/-- A completed sweep's report, but for the answer of the command that waits (R82). -/
def State.sweepEffect (s : State) (q : SweepRequest) : State :=
  match q.kind with
  | .retire _ => s.retireDone q.lane
  | .undo _ => s.undoEffect q.lane
  | .reclaim => s.reclaimDone q.waiter
  | .clear => s.clearEffect q.lane

/-- A sweep's end completes the command its lane carries out. -/
def LaneRec.completedBy (r : LaneRec) (k : SweepKind) : Prop :=
  r.state = .discarding
    ∧ ((k.code = 2 ∧ r.pendingCommand = some .rollback) ∨ (k = .clear ∧ r.clearPending = true))

/-! What the report leaves unchanged -/

/-- Parts that no completed sweep changes, and parts that only a rollback does. -/
structure State.SweptWith (s t : State) (l : Lane) (rolls : Prop) : Prop where
  command : t.ctl.command = s.ctl.command
  regions : t.store.regions = s.store.regions
  free : t.store.free = s.store.free
  granted : t.store.lastGranted = s.store.lastGranted
  clock : t.clock = s.clock
  ingress : t.uplink.ingress = s.uplink.ingress
  control : t.uplink.control = s.uplink.control
  other : t.lane l.other = s.lane l.other
  quiet : ¬ rolls → t.scan = s.scan ∧ t.bus = s.bus ∧ t.ctl = s.ctl ∧ t.uplink = s.uplink

theorem State.SweptWith.refl (s : State) (l : Lane) (rolls : Prop) : s.SweptWith s l rolls :=
  ⟨rfl, rfl, rfl, rfl, rfl, rfl, rfl, rfl, fun _ => ⟨rfl, rfl, rfl, rfl⟩⟩

theorem State.SweptWith.setLane (s : State) (l : Lane) (r : LaneRec) (rolls : Prop) :
    s.SweptWith (s.setLane l r) l rolls :=
  ⟨rfl, rfl, rfl, rfl, rfl, rfl, rfl, lane_setLane_other s l r, fun _ => ⟨rfl, rfl, rfl, rfl⟩⟩

theorem State.completeRollback_of_nil {s : State} {l : Lane} (h : (s.lane l).history = []) :
    s.completeRollback l = s := by
  simp only [State.completeRollback, h]

theorem State.SweptWith.rolledBack {s : State} {l : Lane} {r : LaneRec} {rolls : Prop}
    (hrolls : r.history ≠ [] → rolls) :
    s.SweptWith ((s.setLane l r).completeRollback l) l rolls := by
  have hr : (s.setLane l r).lane l = r := lane_setLane_same s l r
  cases hh : r.history with
  | nil =>
    rw [State.completeRollback_of_nil (by rw [hr, hh])]
    exact .setLane s l r rolls
  | cons top below =>
    obtain ⟨hlanes, _, _⟩ := State.completeRollback_spec (s.setLane l r) l top below (by rw [hr, hh])
    exact {
      command := by simp
      regions := by simp
      free := by simp
      granted := by simp
      clock := by simp
      ingress := by simp
      control := by simp
      other := by
        rw [State.lane, hlanes, PerLane.get_set_other]
        exact lane_setLane_other s l r
      quiet := fun hno => absurd (hrolls (by rw [hh]; exact List.cons_ne_nil _ _)) hno }

/-- Whatever its kind, a completed sweep's report keeps what it is not about. -/
theorem State.sweepEffect_keeps (s : State) (q : SweepRequest) :
    s.SweptWith (s.sweepEffect q) q.lane
      ((s.lane q.lane).completedBy q.kind
        ∧ (s.lane q.lane).pendingCommand = some .rollback ∧ (s.lane q.lane).history ≠ []) := by
  unfold State.sweepEffect
  split
  · unfold State.retireDone
    dsimp only
    split
    · exact .setLane _ _ _ _
    · split
      · exact ⟨rfl, rfl, rfl, rfl, rfl, rfl, rfl, lane_setLane_other _ _ _,
          fun _ => ⟨rfl, rfl, rfl, rfl⟩⟩
      · exact .refl _ _ _
    · exact .refl _ _ _
  · next g hkind =>
    unfold State.undoEffect
    dsimp only
    split
    · next hstate =>
      split
      · exact .setLane _ _ _ _
      · next hcmd =>
        exact .rolledBack fun hh => ⟨⟨hstate, .inl ⟨by rw [hkind]; rfl, hcmd⟩⟩, hcmd, hh⟩
      · exact .refl _ _ _
      · exact .refl _ _ _
    · exact .refl _ _ _
  · unfold State.reclaimDone
    split
    · split
      · exact ⟨rfl, rfl, rfl, rfl, rfl, rfl, rfl, rfl, fun _ => ⟨rfl, rfl, rfl, rfl⟩⟩
      · exact .refl _ _ _
    · exact .refl _ _ _
  · unfold State.clearEffect State.storeStream
    dsimp only
    split
    · split
      · exact ⟨rfl, rfl, rfl, rfl, rfl, rfl, rfl, lane_setLane_other _ _ _,
          fun _ => ⟨rfl, rfl, rfl, rfl⟩⟩
      · exact .setLane _ _ _ _
    · exact .refl _ _ _

/-! The answer is the rest of the report -/

section
variable {s : State} {q : SweepRequest} {g : Nat}

theorem State.sweepEffect_retire (h : q.kind = .retire g) :
    s.sweepEffect q = s.retireDone q.lane := by
  simp only [State.sweepEffect, h]

theorem State.sweepEffect_undo (h : q.kind = .undo g) : s.sweepEffect q = s.undoEffect q.lane := by
  simp only [State.sweepEffect, h]

theorem State.sweepEffect_reclaim (h : q.kind = .reclaim) :
    s.sweepEffect q = s.reclaimDone q.waiter := by
  simp only [State.sweepEffect, h]

theorem State.sweepEffect_clear (h : q.kind = .clear) : s.sweepEffect q = s.clearEffect q.lane := by
  simp only [State.sweepEffect, h]

theorem SweepKind.code_eq_two {k : SweepKind} : k.code = 2 ↔ ∃ g, k = .undo g := by
  cases k <;> simp [SweepKind.code]

theorem State.sweepDone_of_completes (h : (s.lane q.lane).completedBy q.kind) :
    s.sweepDone q = (s.sweepEffect q).laneCommandDone q.lane := by
  obtain ⟨hstate, ⟨hcode, hcmd⟩ | ⟨hkind, hclear⟩⟩ := h
  · obtain ⟨g, hkind⟩ := SweepKind.code_eq_two.1 hcode
    rw [State.sweepEffect_undo hkind]
    simp only [State.sweepDone, hkind, State.undoDone, State.undoEffect, hstate, hcmd, if_true]
  · rw [State.sweepEffect_clear hkind]
    simp only [State.sweepDone, hkind, State.clearDone, State.clearEffect, hstate, hclear, and_self,
      if_true]
    rfl

theorem State.sweepDone_of_not (h : ¬ (s.lane q.lane).completedBy q.kind) :
    s.sweepDone q = s.sweepEffect q := by
  cases hkind : q.kind with
  | retire g =>
    rw [State.sweepEffect_retire hkind]
    simp only [State.sweepDone, hkind]
  | undo g =>
    rw [State.sweepEffect_undo hkind]
    simp only [State.sweepDone, hkind, State.undoDone, State.undoEffect]
    split
    · next hstate =>
      rcases hcmd : (s.lane q.lane).pendingCommand with _ | _ | _ | _
      case some.rollback => exact absurd ⟨hstate, .inl ⟨by rw [hkind]; rfl, hcmd⟩⟩ h
      all_goals rfl
    · rfl
  | reclaim =>
    rw [State.sweepEffect_reclaim hkind]
    simp only [State.sweepDone, hkind]
  | clear =>
    have hno : ¬((s.lane q.lane).state = .discarding ∧ (s.lane q.lane).clearPending = true) :=
      fun ⟨hstate, hclear⟩ => h ⟨hstate, .inr ⟨hkind, hclear⟩⟩
    rw [State.sweepEffect_clear hkind]
    simp only [State.sweepDone, hkind, State.clearDone, State.clearEffect, if_neg hno]

end

theorem State.answer_startSweeper (s : State) (h : CommandHead) (r : CommandResult)
    (body : List Byte) (k : Sweeper) :
    ({ s with sweeper := k } : State).answer h r body = { s.answer h r body with sweeper := k } := by
  unfold State.answer State.deliverAnswer
  rw [show ({ s with sweeper := k } : State).egressRoom = s.egressRoom from rfl]
  split
  · simp only [State.placeAnswer, State.place]
  · rfl

theorem State.laneCommandDone_of_other {s : State} {l : Lane}
    (h : ∀ x, s.ctl.command ≠ .carryingOut x (.lane l)) : s.laneCommandDone l = s := by
  unfold State.laneCommandDone
  split
  · next x l' hc =>
    refine if_neg fun heq => h x ?_
    rw [hc, heq]
  · rfl

/-! ### The last slot -/

/-- The state after the last slot, but for the answer of the command that waits. -/
def State.afterLast (s : State) (w : Sweep) : State :=
  { (s.sweptLast w).sweepEffect w.request with
    sweeper := ((s.sweptLast w).sweepEffect w.request).sweeper.start }

theorem State.sweptLast_lane (s : State) (w : Sweep) (l : Lane) :
    (s.sweptLast w).lane l = s.lane l := lane_of_lanes (by simp) l

theorem State.sweepStep_answers {s : State} {w : Sweep} {h : CommandHead}
    (hlast : ¬ w.cursor + 1 < s.size w.request.lane)
    (hc : (s.lane w.request.lane).completedBy w.request.kind)
    (hcmd : s.ctl.command = .carryingOut h (.lane w.request.lane)) :
    s.sweepStep w = (s.afterLast w).answer h .done [] := by
  have hkeeps := (s.sweptLast w).sweepEffect_keeps w.request
  have hwait : ((s.sweptLast w).sweepEffect w.request).ctl.command
      = .carryingOut h (.lane w.request.lane) := by
    rw [hkeeps.command]
    simpa using hcmd
  have hsame : (((s.sweptLast w).sweepEffect w.request).answer h .done []).sweeper
      = ((s.sweptLast w).sweepEffect w.request).sweeper := by simp
  rw [State.sweepStep_last hlast, State.sweepDone_of_completes (by rwa [State.sweptLast_lane]),
    State.laneCommandDone_waiting hwait, hsame]
  exact (State.answer_startSweeper _ h .done [] _).symm

theorem State.sweepStep_unanswered {s : State} {w : Sweep}
    (hlast : ¬ w.cursor + 1 < s.size w.request.lane)
    (hno : ¬ (s.lane w.request.lane).completedBy w.request.kind
      ∨ ∀ h, s.ctl.command ≠ .carryingOut h (.lane w.request.lane)) :
    s.sweepStep w = s.afterLast w := by
  have hkeeps := (s.sweptLast w).sweepEffect_keeps w.request
  rw [State.sweepStep_last hlast]
  by_cases hc : (s.lane w.request.lane).completedBy w.request.kind
  · have hother : ∀ h, ((s.sweptLast w).sweepEffect w.request).ctl.command
        ≠ .carryingOut h (.lane w.request.lane) := by
      rw [hkeeps.command]
      simpa using hno.resolve_left (not_not_intro hc)
    rw [State.sweepDone_of_completes (by rwa [State.sweptLast_lane]),
      State.laneCommandDone_of_other hother]
    rfl
  · rw [State.sweepDone_of_not (by rwa [State.sweptLast_lane])]
    rfl

/-! What each completion makes of the lane -/

section
variable {s : State} {l : Lane}

theorem State.retireDone_retiring (h : (s.lane l).state = .retiring) :
    s.retireDone l = s.setLane l { s.lane l with stagedDigest := Digest.zero, state := .staging } := by
  simp only [State.retireDone, h]

theorem State.retireDone_deferred (h : (s.lane l).state = .discarding)
    (hd : (s.lane l).undoDeferred = true) :
    s.retireDone l =
      (s.setLane l { s.lane l with undoDeferred := false }).requestSweep l (s.lane l).removingSweep
        false := by
  simp only [State.retireDone, h, hd, if_true]

theorem State.undoEffect_alone (h : (s.lane l).state = .discarding)
    (hc : (s.lane l).pendingCommand = none) : s.undoEffect l = s.setLane l (s.lane l).emptied := by
  simp only [State.undoEffect, h, hc, if_true]

theorem State.undoEffect_clearing (hc : (s.lane l).clearPending = true) : s.undoEffect l = s := by
  unfold LaneRec.clearPending at hc
  simp only [State.undoEffect]
  split
  · rcases hcmd : (s.lane l).pendingCommand with _ | _ | _ | _
    case none => rw [hcmd] at hc; exact absurd hc (by decide)
    case some.rollback => rw [hcmd] at hc; exact absurd hc (by decide)
    all_goals rfl
  · rfl

theorem State.undoEffect_rollback (h : (s.lane l).state = .discarding)
    (hc : (s.lane l).pendingCommand = some .rollback) :
    s.undoEffect l =
      (s.setLane l { (s.lane l).emptied with pendingCommand := none }).completeRollback l := by
  simp only [State.undoEffect, h, hc, if_true]

theorem State.clearEffect_of (h : (s.lane l).state = .discarding)
    (hc : (s.lane l).clearPending = true) :
    s.clearEffect l = (s.storeStream l).setLane l { (s.lane l).emptied with
      undoDeferred := false, viewNewest := 0, viewOldest := 0, pendingCommand := none } := by
  simp only [State.clearEffect, h, hc, and_self, if_true]

theorem State.reclaimDone_unmarked (s : State) : s.reclaimDone false = s := by
  unfold State.reclaimDone
  split
  · exact if_neg Bool.false_ne_true
  · rfl

theorem State.reclaimDone_marked {seg : Segment} {pos : Nat}
    (h : s.store.engine = .waiting seg pos) :
    s.reclaimDone true = s.setEngine (.applying seg pos true) := by
  simp only [State.reclaimDone, h, if_true]

end

section
variable {s : State} {w : Sweep} {g : Nat}

/-! The last slot by the kind of the sweep -/

theorem State.afterLast_retiring (hkind : w.request.kind = .retire g)
    (h : (s.lane w.request.lane).state = .retiring) :
    (s.afterLast w).lane w.request.lane =
      { s.lane w.request.lane with stagedDigest := Digest.zero, state := .staging }
    ∧ (s.afterLast w).sweeper =
      ({ requests := s.sweeper.requests, sweep := none } : Sweeper).start := by
  have hl := s.sweptLast_lane w w.request.lane
  rw [State.afterLast, State.sweepEffect_retire hkind, State.retireDone_retiring (by rwa [hl]), hl]
  exact ⟨lane_setLane_same _ _ _, rfl⟩

theorem State.afterLast_deferred (hkind : w.request.kind = .retire g)
    (h : (s.lane w.request.lane).state = .discarding)
    (hd : (s.lane w.request.lane).undoDeferred = true) :
    (s.afterLast w).lane w.request.lane = { s.lane w.request.lane with undoDeferred := false }
    ∧ (s.afterLast w).sweeper =
      Sweeper.start {
        requests := joinRequests s.sweeper.requests
          { lane := w.request.lane, kind := (s.lane w.request.lane).removingSweep, waiter := false },
        sweep := none } := by
  have hl := s.sweptLast_lane w w.request.lane
  rw [State.afterLast, State.sweepEffect_retire hkind,
    State.retireDone_deferred (by rwa [hl]) (by rwa [hl]), hl]
  exact ⟨lane_setLane_same _ _ _, Sweeper.start_start _⟩

theorem State.afterLast_undone (hkind : w.request.kind = .undo g)
    (h : (s.lane w.request.lane).state = .discarding)
    (hc : (s.lane w.request.lane).pendingCommand = none) :
    (s.afterLast w).lane w.request.lane = (s.lane w.request.lane).emptied
    ∧ (s.afterLast w).sweeper =
      ({ requests := s.sweeper.requests, sweep := none } : Sweeper).start := by
  have hl := s.sweptLast_lane w w.request.lane
  rw [State.afterLast, State.sweepEffect_undo hkind,
    State.undoEffect_alone (by rwa [hl]) (by rwa [hl]), hl]
  exact ⟨lane_setLane_same _ _ _, rfl⟩

theorem State.afterLast_clearing (hkind : w.request.kind = .undo g)
    (hc : (s.lane w.request.lane).clearPending = true) :
    (s.afterLast w).lane w.request.lane = s.lane w.request.lane
    ∧ (s.afterLast w).sweeper =
      ({ requests := s.sweeper.requests, sweep := none } : Sweeper).start := by
  have hl := s.sweptLast_lane w w.request.lane
  rw [State.afterLast, State.sweepEffect_undo hkind, State.undoEffect_clearing (by rwa [hl])]
  exact ⟨hl, rfl⟩

theorem State.afterLast_reclaimed (hkind : w.request.kind = .reclaim) :
    (s.afterLast w).lane w.request.lane = s.lane w.request.lane
    ∧ (s.afterLast w).sweeper =
      ({ requests := s.sweeper.requests, sweep := none } : Sweeper).start
    ∧ (s.afterLast w).store.engine = ((s.sweptLast w).reclaimDone w.request.waiter).store.engine := by
  rw [State.afterLast, State.sweepEffect_reclaim hkind]
  refine ⟨lane_of_lanes (by simp) _, ?_, rfl⟩
  simp

theorem State.afterLast_cleared (hkind : w.request.kind = .clear)
    (h : (s.lane w.request.lane).state = .discarding)
    (hc : (s.lane w.request.lane).clearPending = true) :
    (s.afterLast w).lane w.request.lane = { (s.lane w.request.lane).emptied with
      undoDeferred := false, viewNewest := 0, viewOldest := 0, pendingCommand := none }
    ∧ (s.afterLast w).sweeper =
      ({ requests := s.sweeper.requests, sweep := none } : Sweeper).start
    ∧ (s.afterLast w).settings = ((s.sweptLast w).storeStream w.request.lane).settings := by
  have hl := s.sweptLast_lane w w.request.lane
  have hsweeper : ((s.sweptLast w).storeStream w.request.lane).sweeper
      = { requests := s.sweeper.requests, sweep := none } := by
    unfold State.storeStream
    split
    · rfl
    · rfl
  rw [State.afterLast, State.sweepEffect_clear hkind,
    State.clearEffect_of (by rwa [hl]) (by rwa [hl]), hl]
  exact ⟨lane_setLane_same _ _ _, congrArg Sweeper.start hsweeper, rfl⟩

/-- A rollback that waited for its UNDO sweep: the lane's record, its ALERT, its RECLAIM and what the
scanner hears (R35, R42). -/
theorem State.afterLast_rolledBack {top : HistoryRecord} {below : List HistoryRecord}
    (hkind : w.request.kind = .undo g) (h : (s.lane w.request.lane).state = .discarding)
    (hc : (s.lane w.request.lane).pendingCommand = some .rollback)
    (hh : (s.lane w.request.lane).history = top :: below) :
    (s.afterLast w).lane w.request.lane = { (s.lane w.request.lane).emptied with
      pendingCommand := none,
      floor := max (s.lane w.request.lane).floor (s.lane w.request.lane).active,
      active := top.generation, activeDigest := top.digest, history := below }
    ∧ (s.afterLast w).ctl.flags = s.ctl.flags ||| (EventFlag.activated w.request.lane).bit
    ∧ s.raises (s.afterLast w) [(.activated w.request.lane,
      { lane := laneCode w.request.lane, generation := top.generation, detail := 2 })]
    ∧ (s.afterLast w).sweeper =
      Sweeper.start {
        requests := joinRequests s.sweeper.requests
          { lane := w.request.lane, kind := .reclaim, waiter := false },
        sweep := none }
    ∧ s.reportsMoved (s.afterLast w) w.request.lane top.generation (s.lane w.request.lane).active
    ∧ s.dropsSwitch (s.afterLast w) w.request.lane
    ∧ s.hearsReport (s.afterLast w) := by
  have hl := s.sweptLast_lane w w.request.lane
  obtain ⟨v, hv⟩ : ∃ v, v = (s.sweptLast w).setLane w.request.lane
    { (s.lane w.request.lane).emptied with pendingCommand := none } := ⟨_, rfl⟩
  have hvl : v.lane w.request.lane =
      { (s.lane w.request.lane).emptied with pendingCommand := none } := by
    rw [hv, lane_setLane_same]
  have hvh : (v.lane w.request.lane).history = top :: below := by rw [hvl]; exact hh
  have hvs : (v.lane w.request.lane).state ≠ .ready := by rw [hvl]; exact nofun
  obtain ⟨hlanes, hflags, hsweeper⟩ := v.completeRollback_spec w.request.lane top below hvh
  obtain ⟨hmoved, hdrops⟩ := v.completeRollback_reports w.request.lane top below hvh hvs
  have hat : s.afterLast w = { v.completeRollback w.request.lane with
      sweeper := (v.completeRollback w.request.lane).sweeper.start } := by
    rw [State.afterLast, State.sweepEffect_undo hkind,
      State.undoEffect_rollback (by rwa [hl]) (by rwa [hl]), hl, hv]
  rw [hat]
  refine ⟨?_, ?_, ?_, ?_, ?_, ?_, ?_⟩
  · rw [State.lane, hlanes, PerLane.get_set_same, hvl]
    rfl
  · rw [hflags, hv]
    simp
  · refine State.raises_congr (v.completeRollback_raises w.request.lane top below hvh) ?_ ?_ ?_ ?_
    · rw [hv]
      exact ⟨rfl, rfl, rfl, rfl⟩
    · rw [hv]
      simp
    · exact ⟨rfl, rfl, rfl, rfl⟩
    · rfl
  · rw [hsweeper, State.requestSweep, Sweeper.start_start, hv]
    simp
  · rw [hvl] at hmoved
    exact State.reportsMoved_congr hmoved (by rw [hv]; simp) (by rw [hv]; simp) rfl rfl
      ⟨rfl, rfl, rfl⟩
  · have hvb : v.bus = s.bus ∧ v.scan = s.scan := by
      rw [hv]
      simp
    simpa only [State.dropsSwitch, hvb] using hdrops
  · exact State.hearsReport_congr (v.completeRollback_hears w.request.lane top below hvh)
      (by rw [hv]; simp) (by rw [hv]; simp) rfl rfl rfl

end

/-- Settles O30: the last slot's step is the completion by its kind with the next sweep started, and the
answer of the lane's command on top where one waits. -/
theorem sweepCompletionIsReported : Obligations.SweepCompletionIsReported := by
  intro s w hsweeps hlast
  dsimp only
  have hend : ¬ w.cursor + 1 < s.size w.request.lane := by omega
  have hstep := exec_sweep hsweeps
  have hl : (s.sweptLast w).lane w.request.lane = s.lane w.request.lane := State.sweptLast_lane ..
  have hkeeps := (s.sweptLast w).sweepEffect_keeps w.request
  refine ⟨s.afterLast w, fun h hc hcmd => ?_, fun hno => ?_, hkeeps.command, ?_, ?_, ?_, ?_,
    hkeeps.granted, hkeeps.clock, hkeeps.ingress, hkeeps.control, ?_, fun g hkind => ?_,
    fun g hkind hstate => ?_, fun hkind => ?_, fun hkind hstate hc => ?_⟩
  · rw [hstep, State.sweepStep_answers hend hc hcmd]
  · rw [hstep, State.sweepStep_unanswered hend hno]
  · rw [State.region, show (s.afterLast w).store.regions = _ from hkeeps.regions]
    exact State.region_setRegion_same _ _ _
  · rw [State.region, show (s.afterLast w).store.regions = _ from hkeeps.regions]
    exact State.region_setRegion_other _ _ _
  · exact hkeeps.other.trans (s.sweptLast_lane w _)
  · exact hkeeps.free
  · rw [← hl]
    exact hkeeps.quiet
  · exact ⟨State.afterLast_retiring hkind, fun hstate hd => State.afterLast_deferred hkind hstate hd⟩
  · exact ⟨State.afterLast_undone hkind hstate, State.afterLast_clearing hkind,
      fun top below hc hh => State.afterLast_rolledBack hkind hstate hc hh⟩
  · obtain ⟨hlane, hsweeper, hengine⟩ := State.afterLast_reclaimed hkind
    refine ⟨hlane, hsweeper, fun hw => ?_, fun seg pos hw he => ?_⟩
    · rw [hengine, hw, State.reclaimDone_unmarked]
      rfl
    · rw [hengine, hw, State.reclaimDone_marked (s := s.sweptLast w) he]
      rfl
  · obtain ⟨hlane, hsweeper, hsettings⟩ := State.afterLast_cleared hkind hstate hc
    refine ⟨hlane, hsweeper, fun stream hcmd => ?_, fun hcmd => ?_⟩
    · rw [hsettings, State.storeStream, hl, hcmd]
      simp
    · rw [hsettings, State.storeStream, hl, hcmd]
      simp

end Sys2Proof.Machine
end

section
/-! ROLLBACK (O53). -/

namespace Sys2Proof.Machine

/-! ### A command carried out by a lane -/

/-- The state in which a lane carries out the command just taken (R173, R179). -/
def State.commanded (s : State) (m : ControlMessage) (l : Lane) : State :=
  s.popControl.carryOut m.head (.lane l)

/-- A command that a lane carries out asks for no operation of the entry store. -/
theorem State.commanded_nextGrant {s : State} {m : ControlMessage} {l : Lane}
    (h : s.ctl.command = .available) : (s.commanded m l).nextGrant = s.nextGrant := by
  have hwaits : (s.commanded m l).waits = s.waits := by
    funext who
    cases who with
    | control =>
      simp only [State.waits, h]
      rfl
    | apply => rfl
    | sweeper => rfl
    | scanner => rfl
  simp only [State.nextGrant, hwaits]
  rfl

/-- What a discard gives up looks at the store, the sweeper, the arbiter's next grant, the free values and
the lane's state. -/
theorem State.givesUpSegment_of_grant {s u t t' : State} {l : Lane} {k : SweepKind}
    (h : u.givesUpSegment t' l k) (hstore : u.store = s.store) (hsweeper : u.sweeper = s.sweeper)
    (hgrant : u.nextGrant = s.nextGrant) (hchoices : u.choices = s.choices)
    (hstate : (u.lane l).state = (s.lane l).state) (hts : t.store = t'.store)
    (htw : t.sweeper = t'.sweeper) : s.givesUpSegment t l k := by
  simpa only [State.givesUpSegment, State.afterAsking, State.clearWaiter, State.requestSweep, hstore,
    hsweeper, hchoices, hstate, hgrant, hts, htw] using h

/-- What a pending command changes of no lane's record. -/
theorem State.setPending_same (s : State) (l l' : Lane) (c : Option LaneCommand) :
    ((s.setLane l { s.lane l with pendingCommand := c }).lane l').active = (s.lane l').active
    ∧ ((s.setLane l { s.lane l with pendingCommand := c }).lane l').state = (s.lane l').state
    ∧ ((s.setLane l { s.lane l with pendingCommand := c }).lane l').stagedGen
      = (s.lane l').stagedGen := by
  obtain rfl | rfl := l.eq_or_other l'
  · rw [lane_setLane_same]
    exact ⟨rfl, rfl, rfl⟩
  · rw [lane_setLane_other]
    exact ⟨rfl, rfl, rfl⟩

/-! ### ROLLBACK (R41, R42) -/

section
variable {s : State} {l : Lane} (h : CommandHead)

theorem carryRollback_refused (hr : (s.lane l).history = [] ∨ (s.lane l).state = .discarding) :
    carryRollback h l s = s.answer h .state [] := by
  unfold carryRollback
  exact if_pos (hr.imp_left List.isEmpty_iff.2)

theorem carryRollback_idle (hh : (s.lane l).history ≠ []) (hs : (s.lane l).state = .idle) :
    carryRollback h l s = (s.completeRollback l).answer h .done [] := by
  unfold carryRollback
  dsimp only
  rw [if_neg (not_or_intro (hh ∘ List.isEmpty_iff.1) (by rw [hs]; exact nofun)), if_pos hs]

theorem carryRollback_staged (hh : (s.lane l).history ≠ [])
    (hs : (s.lane l).state.holdsStaging = true) :
    carryRollback h l s =
      ((s.carryOut h (.lane l)).discardUndo l .aborted).setLane l
        { ((s.carryOut h (.lane l)).discardUndo l .aborted).lane l with
          pendingCommand := some .rollback } := by
  have hdiscarding : (s.lane l).state ≠ .discarding := fun heq => by
    rw [heq] at hs
    exact absurd hs (by decide)
  have hidle : (s.lane l).state ≠ .idle := fun heq => by
    rw [heq] at hs
    exact absurd hs (by decide)
  unfold carryRollback
  dsimp only
  rw [if_neg (not_or_intro (hh ∘ List.isEmpty_iff.1) hdiscarding), if_neg hidle]

end

/-- Settles O53: by the state of the lane; a staged generation is discarded as by any other reason, with
the rollback pending. -/
theorem rollbackCommand : Obligations.RollbackCommand := by
  intro s m l hread htakes
  dsimp only
  have hexec : exec .rollback s = .next (carryRollback m.head l s.popControl) :=
    exec_of_takes htakes rfl hread
  refine ⟨fun hr => ?_, fun top below hh hs => ?_, fun hh hs => ?_⟩
  · rw [hexec, carryRollback_refused (s := s.popControl) _ hr]
  · have hne : (s.popControl.lane l).history ≠ [] := by
      rw [show (s.popControl.lane l).history = _ from hh]
      exact List.cons_ne_nil _ _
    have hready : (s.popControl.lane l).state ≠ .ready := by
      rw [show (s.popControl.lane l).state = _ from hs]
      exact nofun
    rw [hexec, carryRollback_idle (s := s.popControl) _ hne hs]
    obtain ⟨hlanes, hflags, hsweeper⟩ := s.popControl.completeRollback_spec l top below hh
    obtain ⟨hmoved, hdrops⟩ := s.popControl.completeRollback_reports l top below hh hready
    refine ⟨_, rfl, ?_, ?_, ?_, ?_, ?_, hsweeper, hflags, ?_, ?_, ?_, ?_, hmoved, hdrops, ?_⟩
    · rw [State.lane, hlanes, PerLane.get_set_same]
      rfl
    · rw [State.lane, hlanes, PerLane.get_set_other]
      rfl
    · simp
    · simp
    · simp
    · exact State.raises_congr (s.popControl.completeRollback_raises l top below hh)
        ⟨rfl, rfl, rfl, rfl⟩ rfl ⟨rfl, rfl, rfl, rfl⟩ rfl
    · simpa using htakes.2.1
    · simp [State.popControl]
    · simp
    · exact s.popControl.completeRollback_hears l top below hh
  · rw [hexec, carryRollback_staged (s := s.popControl) _ hh hs, ← State.commanded]
    obtain ⟨hlanes, hflags, -, -⟩ := (s.commanded m l).discardUndo_spec l .aborted
    obtain ⟨hgone, hbroadcast⟩ := (s.commanded m l).discard_reports l .aborted
      (.undo ((s.commanded m l).lane l).stagedGen)
    obtain ⟨-, -, -, hsettings, -, hclock⟩ := (s.commanded m l).discardUndo_frame l .aborted
    obtain ⟨hingress, -, hcontrol, -, hcommand, -, -, -, -, hregions, hfree⟩ :=
      (s.commanded m l).discardUndo_parts l .aborted
    refine ⟨_, rfl, ?_, ?_, hsettings, hclock, hregions, hfree, hcommand, hcontrol, hingress, hflags,
      ?_, ?_, ?_, ?_, hbroadcast⟩
    · rw [State.lane_setLane_same, State.lane, hlanes, PerLane.get_set_same]
      rfl
    · rw [State.lane_setLane_other, State.lane, hlanes, PerLane.get_set_other]
      rfl
    · exact State.raises_congr ((s.commanded m l).discard_raises l .aborted _)
        ⟨rfl, rfl, rfl, rfl⟩ rfl ⟨rfl, rfl, rfl, rfl⟩ rfl
    · exact State.givesUpSegment_of_grant ((s.commanded m l).discard_gives l .aborted _) rfl rfl
        (State.commanded_nextGrant htakes.2.1) rfl rfl rfl rfl
    · exact State.reportsGone_congr hgone rfl rfl rfl rfl rfl (State.setPending_same _ _ _ _)
    · exact State.hearsReport_congr ((s.commanded m l).discard_hears l .aborted _) rfl rfl rfl rfl rfl

end Sys2Proof.Machine
end

section
/-! CLEAR and SUBSCRIBE (O52). -/

namespace Sys2Proof.Machine

/-! ### A report of S gone, on every delivery (R160, R164) -/

theorem goneIn_delivery_state (r : LaneRec) (g : Nat) (y : ValidatorLane) :
    (goneIn r g y).delivery.state = y.delivery.state := by
  unfold goneIn staleTest
  dsimp only
  split <;> split <;> split <;> split <;> rfl

theorem owedForDelivery_delivery (g : Nat) (y : ValidatorLane) :
    (owedForDelivery g y).delivery = y.delivery := by
  unfold owedForDelivery
  split
  · rfl
  · rfl

/-- A delivery under way in a position for a lane. -/
def State.delivering (s : State) (pos : Fin 16) (l : Lane) : Prop :=
  ((s.validator pos).lane l).delivery.state ≠ .idle

theorem State.delivering_of_delivery {s t : State} {pos : Fin 16} {l : Lane}
    (h : ((t.validator pos).lane l).delivery.state = ((s.validator pos).lane l).delivery.state) :
    t.delivering pos l ↔ s.delivering pos l := by
  rw [State.delivering, h]
  rfl

theorem State.delivery_owed (s : State) (l : Lane) (g : Nat) (pos : Fin 16) :
    (((s.eachLaneRecord l (owedForDelivery g)).validator pos).lane l).delivery
      = ((s.validator pos).lane l).delivery := by
  rw [State.validator_eachLaneRecord]
  split
  · rfl
  · rw [Validator.lane_setLane, owedForDelivery_delivery]

theorem State.delivering_goneIn (s : State) (r : LaneRec) (l : Lane) (g : Nat) (pos : Fin 16) :
    (s.eachLaneRecord l (goneIn r g)).delivering pos l ↔ s.delivering pos l := by
  refine State.delivering_of_delivery ?_
  rw [State.validator_eachLaneRecord]
  split
  · rfl
  · rw [Validator.lane_setLane, goneIn_delivery_state]

/-- The deliveries that an abandonment by target leaves under way. -/
theorem State.delivering_abandonWhere (s : State) (l : Lane) (g : Nat) (pos : Fin 16) :
    (s.abandonWhere l fun _ d => decide (d.target = g)).delivering pos l ↔
      s.delivering pos l ∧ ((s.validator pos).lane l).delivery.target ≠ g := by
  unfold State.delivering
  rw [State.validator_abandonWhere]
  simp only [State.abandons, Bool.and_eq_true, decide_eq_true_eq]
  split
  · next h =>
    rw [Validator.lane_setLane]
    exact ⟨fun hno => absurd rfl hno, fun hgo => absurd h.2 hgo.2⟩
  · next h => exact ⟨fun hgo => ⟨hgo, fun hg => h ⟨hgo, hg⟩⟩, And.left⟩

theorem State.delivering_reportGone (s : State) (l : Lane) (g : Nat) (pos : Fin 16) :
    (s.reportGone l g).delivering pos l ↔
      s.delivering pos l ∧ ((s.validator pos).lane l).delivery.target ≠ g := by
  have hrecords : (s.reportGone l g).scan.records =
      (((s.eachLaneRecord l (owedForDelivery g)).abandonWhere l
        fun _ d => decide (d.target = g)).eachLaneRecord l (goneIn (s.lane l) g)).scan.records := by
    cases l <;> simp [State.reportGone, State.lane]
  have howed := s.delivery_owed l g pos
  have hgone := State.delivering_goneIn ((s.eachLaneRecord l (owedForDelivery g)).abandonWhere l
    fun _ d => decide (d.target = g)) (s.lane l) l g pos
  rw [State.delivering_abandonWhere, howed,
    State.delivering_of_delivery (s := s) (congrArg Delivery.state howed)] at hgone
  rw [← hgone, State.delivering, State.validator_of_records hrecords]
  rfl

/-- The deliveries that a discard leaves under way. -/
theorem State.delivering_discard (s : State) (l : Lane) (reason : DiscardReason) (k : SweepKind)
    (pos : Fin 16) :
    (s.discard l reason k).delivering pos l ↔
      s.delivering pos l ∧ ((s.validator pos).lane l).delivery.target ≠ (s.lane l).stagedGen := by
  have hrecords : (s.discard l reason k).scan.records =
      ((((s.abandonSegment l).setLane l ((s.lane l).discarded reason)).rise (.discarded l)
        { lane := laneCode l, generation := (s.lane l).stagedGen, detail := reason.code }).reportGone l
        (s.lane l).stagedGen).scan.records := by
    simp only [State.discard]
    split
    · rfl
    · rfl
  have hreport := State.delivering_reportGone
    (((s.abandonSegment l).setLane l ((s.lane l).discarded reason)).rise (.discarded l)
      { lane := laneCode l, generation := (s.lane l).stagedGen, detail := reason.code })
    l (s.lane l).stagedGen pos
  have hsame : (((s.abandonSegment l).setLane l ((s.lane l).discarded reason)).rise (.discarded l)
      { lane := laneCode l, generation := (s.lane l).stagedGen, detail := reason.code }).validator pos
      = s.validator pos := by
    rw [State.validator_rise]
    simp [State.validator]
  unfold State.delivering at *
  rw [State.validator_of_records hrecords, hreport, hsame]

/-! ### Two reports, the second ending every delivery of the lane -/

section
variable {s u t : State} {l : Lane} {g : Nat}

theorem State.marksExchange_all (h : s.marksExchange u l (fun target => target = g))
    (k : u.marksExchange t l (fun _ => True))
    (hbusy : ∀ pos, u.delivering pos l ↔
      s.delivering pos l ∧ ((s.validator pos).lane l).delivery.target ≠ g) :
    s.marksExchange t l (fun _ => True) := by
  obtain ⟨hnone, hsome⟩ := h
  obtain ⟨knone, ksome⟩ := k
  refine ⟨fun hx => ?_, fun x hx => ⟨fun hends => ?_, fun hno => ?_⟩⟩
  · rw [knone (by rw [hnone hx, hx]), hnone hx]
  · obtain ⟨hframe, hgo, -⟩ := hends
    by_cases htarget : ((s.validator x.pos).lane l).delivery.target = g
    · have hmark := (hsome x hx).1 ⟨hframe, hgo, htarget⟩
      have hidle : ¬ u.delivering x.pos l := fun hu => ((hbusy _).1 hu).2 htarget
      rw [(ksome _ hmark).2 fun hends => hidle hends.2.1, hmark]
    · have hlink := (hsome x hx).2 fun hends => htarget hends.2.2
      exact (ksome x (by rw [hlink, hx])).1 ⟨hframe, (hbusy _).2 ⟨hgo, htarget⟩, trivial⟩
  · have hlink := (hsome x hx).2 fun hends => hno ⟨hends.1, hends.2.1, trivial⟩
    rw [(ksome x (by rw [hlink, hx])).2 fun hends =>
      hno ⟨hends.1, ((hbusy _).1 hends.2.1).1, trivial⟩, hlink]

theorem State.givesUpBuild_all (h : s.givesUpBuild u l (fun target => target = g))
    (k : u.givesUpBuild t l (fun _ => True))
    (hbusy : ∀ pos, u.delivering pos l ↔
      s.delivering pos l ∧ ((s.validator pos).lane l).delivery.target ≠ g)
    (hphase : s.scan.phase = .visiting → u.scan.phase = .visiting)
    (hnext : u.scan.phase = .visiting → u.scan.build = none → t.scan.nextPos = u.scan.nextPos) :
    s.givesUpBuild t l (fun _ => True) := by
  obtain ⟨hnone, hsome⟩ := h
  obtain ⟨knone, ksome⟩ := k
  refine ⟨fun hb => knone (hnone hb), fun b hb => ⟨fun hends => ?_, fun hno => ?_⟩⟩
  · obtain ⟨hlane, hgo, -⟩ := hends
    by_cases htarget : ((s.validator b.pos).lane l).delivery.target = g
    · obtain ⟨hgone, hpos⟩ := (hsome b hb).1 ⟨hlane, hgo, htarget⟩
      exact ⟨knone hgone, fun hv => (hnext (hphase hv) hgone).trans (hpos hv)⟩
    · have hbuild := (hsome b hb).2 fun hends => htarget hends.2.2
      obtain ⟨kgone, kpos⟩ := (ksome b (by rw [hbuild, hb])).1
        ⟨hlane, (hbusy _).2 ⟨hgo, htarget⟩, trivial⟩
      exact ⟨kgone, fun hv => kpos (hphase hv)⟩
  · have hbuild := (hsome b hb).2 fun hends => hno ⟨hends.1, hends.2.1, trivial⟩
    rw [(ksome b (by rw [hbuild, hb])).2 fun hends =>
      hno ⟨hends.1, ((hbusy _).1 hends.2.1).1, trivial⟩, hbuild]

theorem Link.broadcastOnLine_of_addressed {k : Link} {x : Addressed} (h : k.addressed = some x) :
    k.broadcastOnLine = none := by
  unfold Link.addressed at h
  split at h
  · rfl
  · rfl
  · rfl
  · rfl
  · exact absurd h nofun

/-- An exchange marked or not, the SWITCH on the line is the same. -/
theorem State.marksExchange_broadcast {ends : Nat → Prop} (h : s.marksExchange u l ends) :
    u.bus.link.broadcastOnLine = s.bus.link.broadcastOnLine := by
  obtain ⟨hnone, hsome⟩ := h
  cases hx : s.bus.link.addressed with
  | none => rw [hnone hx]
  | some x =>
    by_cases hends : x.frame.deliveryLane = some l
        ∧ ((s.validator x.pos).lane l).delivery.state ≠ .idle
        ∧ ends ((s.validator x.pos).lane l).delivery.target
    · rw [Link.broadcastOnLine_of_addressed ((hsome x hx).1 hends),
        Link.broadcastOnLine_of_addressed hx]
    · rw [(hsome x hx).2 hends]

theorem State.changesLaneRecords_trans {way way' : ValidatorLane → ValidatorLane → Prop}
    (h : s.changesLaneRecords u l way) (k : u.changesLaneRecords t l way')
    (hpresence : ∀ pos, (u.validator pos).presence = (s.validator pos).presence) :
    s.changesLaneRecords t l (fun x y => ∃ z, way z y ∧ way' x z) := by
  intro pos hpos
  obtain ⟨hway, hsame⟩ := h pos hpos
  obtain ⟨kway, ksame⟩ := k pos (by rwa [hpresence])
  refine ⟨⟨_, hway, kway⟩, ?_⟩
  calc t.validator pos = (u.validator pos).setLane l ((t.validator pos).lane l) := ksame
    _ = ((s.validator pos).setLane l ((u.validator pos).lane l)).setLane l
          ((t.validator pos).lane l) := by rw [← hsame]
    _ = (s.validator pos).setLane l ((t.validator pos).lane l) := by rw [Validator.setLane_setLane]

theorem State.dropsSwitch_of (h : u.dropsSwitch t l) (hbroadcast : u.scan.broadcast = s.scan.broadcast)
    (hlink : u.bus.link.broadcastOnLine = s.bus.link.broadcastOnLine) : s.dropsSwitch t l := by
  simpa only [State.dropsSwitch, hbroadcast, hlink] using h

end

theorem State.reportCleared_nextPos {s : State} {l : Lane} (h : s.scan.phase = .visiting)
    (hb : s.scan.build = none) : (s.reportCleared l).scan.nextPos = s.scan.nextPos := by
  obtain ⟨-, -, hkept⟩ := (s.removeSwitch l).abandonWhere_reading l fun _ _ => true
  have hbuild : (s.removeSwitch l).scan.build = none := hb
  have hpos := (hkept (by simp [hbuild])).2.2
  have hphase : (s.removeSwitch l).scan.phase = .visiting := h
  refine Eq.trans ?_ hpos
  cases l <;>
    simp [State.reportCleared, State.wakeScan_nextPos, hphase, State.checkWalk_reading]

/-! ### CLEAR and SUBSCRIBE accepted (R43, R44) -/

/-- The state that the lane-cleared report of an accepted command is made in. -/
def State.clearing (s : State) (l : Lane) (cmd : LaneCommand) : State :=
  let d := if (s.lane l).state.holdsStaging then s.discard l .aborted .clear else s.clearIdle l
  d.setLane l ((d.lane l).cleared cmd)

theorem State.acceptClear_eq (s : State) (l : Lane) (cmd : LaneCommand) :
    s.acceptClear l cmd = (s.clearing l cmd).reportCleared l := rfl

section
variable {s : State} {l : Lane} {cmd : LaneCommand}

theorem State.clearing_staged (h : (s.lane l).state.holdsStaging = true) :
    s.clearing l cmd = (s.discard l .aborted .clear).setLane l
      (((s.discard l .aborted .clear).lane l).cleared cmd) := by
  simp only [State.clearing, h, if_true]

theorem State.clearing_unstaged (h : (s.lane l).state.holdsStaging = false) :
    s.clearing l cmd = (s.clearIdle l).setLane l (((s.clearIdle l).lane l).cleared cmd) := by
  simp only [State.clearing, h, Bool.false_eq_true, if_false]

theorem State.clearing_active : ((s.clearing l cmd).lane l).active = 0
    ∧ ((s.clearing l cmd).lane l).state = .discarding := by
  unfold State.clearing
  dsimp only
  rw [State.lane_setLane_same]
  exact ⟨rfl, rfl⟩

/-- What the lane-cleared report tells the scanner (R171). -/
theorem State.clearing_reports :
    (s.clearing l cmd).changesLaneRecords (s.acceptClear l cmd) l
      (fun x y => x.isWhenMoved y 0 (fun _ => True))
    ∧ (s.clearing l cmd).marksExchange (s.acceptClear l cmd) l (fun _ => True)
    ∧ (s.clearing l cmd).dropsSwitch (s.acceptClear l cmd) l
    ∧ (s.acceptClear l cmd).scan.tally = (if l = .p then [] else (s.clearing l cmd).scan.tally)
    ∧ (s.clearing l cmd).givesUpBuild (s.acceptClear l cmd) l (fun _ => True)
    ∧ (s.clearing l cmd).keepsWalk (s.acceptClear l cmd) := by
  obtain ⟨hactive, hstate⟩ := State.clearing_active (s := s) (l := l) (cmd := cmd)
  have hspec := (s.clearing l cmd).reportCleared_spec l (by rw [hstate]; exact nofun)
  rwa [hactive] at hspec

theorem State.acceptClear_lanes :
    (s.acceptClear l cmd).lanes = (s.clearing l cmd).lanes
    ∧ (s.acceptClear l cmd).store = (s.clearing l cmd).store
    ∧ (s.acceptClear l cmd).sweeper = (s.clearing l cmd).sweeper
    ∧ (s.acceptClear l cmd).ctl = (s.clearing l cmd).ctl
    ∧ (s.acceptClear l cmd).uplink = (s.clearing l cmd).uplink := by
  rw [State.acceptClear_eq]
  simp

/-! A staging discarded first -/

theorem State.acceptClear_staged (h : (s.lane l).state.holdsStaging = true) :
    (s.acceptClear l cmd).lanes = s.lanes.set l (((s.lane l).discarded .aborted).cleared cmd)
    ∧ (s.acceptClear l cmd).ctl.flags = s.ctl.flags ||| (EventFlag.discarded l).bit
    ∧ s.raises (s.acceptClear l cmd) [(.discarded l,
        { lane := laneCode l, generation := (s.lane l).stagedGen, detail := 6 })]
    ∧ s.givesUpSegment (s.acceptClear l cmd) l .clear
    ∧ s.changesLaneRecords (s.acceptClear l cmd) l (fun x y => ∃ z : ValidatorLane,
        z.isWhenGone y (s.lane l).active (s.lane l).stagedGen ∧ x.isWhenMoved z 0 (fun _ => True))
    ∧ s.marksExchange (s.acceptClear l cmd) l (fun _ => True) ∧ s.dropsSwitch (s.acceptClear l cmd) l
    ∧ (s.acceptClear l cmd).scan.tally = (if l = .p then [] else s.scan.tally)
    ∧ s.givesUpBuild (s.acceptClear l cmd) l (fun _ => True)
    ∧ ((∀ w, s.scan.walk = some w → w.generation ≠ 0) → s.keepsWalk (s.acceptClear l cmd)) := by
  obtain ⟨hlanes, hstore, hsweeper, hctl, huplink⟩ :=
    State.acceptClear_lanes (s := s) (l := l) (cmd := cmd)
  obtain ⟨kchanges, kmarks, kdrops, ktally, kbuild, kwalk⟩ :=
    State.clearing_reports (s := s) (l := l) (cmd := cmd)
  rw [State.clearing_staged h] at hlanes hstore hsweeper hctl huplink kchanges kmarks kdrops ktally
  rw [State.clearing_staged h] at kbuild kwalk
  obtain ⟨dlanes, dflags, -, -⟩ := s.discard_spec l .aborted .clear
  obtain ⟨⟨dchanges, dmarks, dbuild, dwalk, dtally⟩, dbroadcast⟩ := s.discard_reports l .aborted .clear
  have hbusy := s.delivering_discard l .aborted .clear
  have hhears := s.discard_hears l .aborted .clear
  have hlane : (s.discard l .aborted .clear).lane l = (s.lane l).discarded .aborted := by
    rw [State.lane, dlanes, PerLane.get_set_same]
  have hother : (s.discard l .aborted .clear).lane l.other = s.lane l.other := by
    rw [State.lane, dlanes, PerLane.get_set_other]
    rfl
  have hset : (s.acceptClear l cmd).lanes = s.lanes.set l (((s.lane l).discarded .aborted).cleared cmd) := by
    rw [hlanes, State.setLane_lanes, hlane, dlanes, PerLane.set_set]
  refine ⟨hset, ?_, ?_, ?_, ?_, ?_, ?_, ?_, ?_, fun hwalk => ?_⟩
  · rw [hctl]
    exact dflags
  · exact State.raises_congr (s.discard_raises l .aborted .clear) ⟨rfl, rfl, rfl, rfl⟩ rfl
      ⟨by rw [hctl]; rfl, by rw [hctl]; rfl, by rw [huplink]; rfl, by rw [huplink]; rfl⟩ (by simp)
  · exact State.givesUpSegment_of_grant (s.discard_gives l .aborted .clear) rfl rfl rfl rfl rfl hstore
      hsweeper
  · exact State.changesLaneRecords_trans dchanges kchanges (s.presence_discard l .aborted .clear)
  · exact State.marksExchange_all dmarks kmarks hbusy
  · have hlink := State.marksExchange_broadcast dmarks
    exact State.dropsSwitch_of kdrops dbroadcast hlink
  · rw [ktally]
    split
    · rfl
    · next hl => exact dtally.trans (if_neg hl)
  · refine State.givesUpBuild_all dbuild kbuild hbusy (fun hv => (hhears.1 hv).1) fun hv hb => ?_
    rw [State.acceptClear_eq, State.clearing_staged h]
    exact State.reportCleared_nextPos hv hb
  · refine State.keepsWalk_trans dwalk kwalk kbuild.1 fun w hw hlive => ?_
    cases l with
    | b =>
      have hp : (s.acceptClear .b cmd).lane .p = (s.discard .b .aborted .clear).lane .p := by
        rw [State.lane, hset]
        exact hother.symm
      rwa [hp] at hlive
    | p =>
      have hp : (s.acceptClear .p cmd).lane .p = ((s.lane .p).discarded .aborted).cleared cmd := by
        rw [State.lane, hset, PerLane.get_set_same]
      rw [hp] at hlive
      obtain hzero | ⟨hready, -⟩ := hlive
      · exact absurd hzero (hwalk w hw)
      · exact absurd hready nofun

/-! No staging -/

theorem State.acceptClear_unstaged (h : (s.lane l).state.holdsStaging = false) :
    (s.acceptClear l cmd).lanes = s.lanes.set l ((s.lane l).cleared cmd)
    ∧ (s.acceptClear l cmd).ctl.flags = s.ctl.flags
    ∧ s.raises (s.acceptClear l cmd) []
    ∧ (s.acceptClear l cmd).store = s.store
    ∧ (s.acceptClear l cmd).sweeper = (s.clearIdle l).sweeper
    ∧ s.changesLaneRecords (s.acceptClear l cmd) l (fun x y => x.isWhenMoved y 0 (fun _ => True))
    ∧ s.marksExchange (s.acceptClear l cmd) l (fun _ => True) ∧ s.dropsSwitch (s.acceptClear l cmd) l
    ∧ (s.acceptClear l cmd).scan.tally = (if l = .p then [] else s.scan.tally)
    ∧ s.givesUpBuild (s.acceptClear l cmd) l (fun _ => True)
    ∧ s.keepsWalk (s.acceptClear l cmd) := by
  obtain ⟨hlanes, hstore, hsweeper, hctl, huplink⟩ :=
    State.acceptClear_lanes (s := s) (l := l) (cmd := cmd)
  obtain ⟨kchanges, kmarks, kdrops, ktally, kbuild, kwalk⟩ :=
    State.clearing_reports (s := s) (l := l) (cmd := cmd)
  have hscan : (s.clearing l cmd).scan = s.scan ∧ (s.clearing l cmd).bus = s.bus := by
    rw [State.clearing_unstaged h]
    simp
  have hsame : (s.clearing l cmd).store = s.store ∧ (s.clearing l cmd).ctl = s.ctl
      ∧ (s.clearing l cmd).uplink = s.uplink
      ∧ (s.clearing l cmd).sweeper = (s.clearIdle l).sweeper
      ∧ (s.clearing l cmd).lanes = s.lanes.set l ((s.lane l).cleared cmd) := by
    rw [State.clearing_unstaged h]
    simp [State.lane]
  have hrecords : ∀ pos, (s.clearing l cmd).validator pos = s.validator pos := fun pos => by
    rw [State.validator, hscan.1]
    rfl
  refine ⟨hlanes.trans hsame.2.2.2.2, ?_, State.raises_nil ⟨?_, ?_, ?_, ?_⟩,
    hstore.trans hsame.1, hsweeper.trans hsame.2.2.2.1, ?_, ?_, ?_, ?_, ?_, ?_⟩
  · rw [hctl, hsame.2.1]
  · rw [hctl, hsame.2.1]
  · rw [hctl, hsame.2.1]
  · rw [huplink, hsame.2.2.1]
  · rw [huplink, hsame.2.2.1]
  · simpa only [State.changesLaneRecords, hrecords] using kchanges
  · simpa only [State.marksExchange, hrecords, hscan.2] using kmarks
  · exact State.dropsSwitch_of kdrops (by rw [hscan.1]) (by rw [hscan.2])
  · rw [ktally, hscan.1]
  · exact State.givesUpBuild_congr kbuild (by rw [hscan.1]) (fun pos => by rw [hrecords])
      (by rw [hscan.1]) rfl rfl
  · exact State.keepsWalk_congr kwalk (by rw [hscan.1]; exact ⟨rfl, rfl, rfl⟩) ⟨rfl, rfl, rfl⟩
      ⟨rfl, rfl, rfl⟩

theorem State.clearIdle_sweeper :
    (s.clearIdle l).sweeper =
      if (s.lane l).state = .discarding
        ∧ ((s.lane l).undoDeferred = true ∨ s.store.engine.finishes l = true)
      then s.sweeper else (s.requestSweep l .clear false).sweeper := by
  unfold State.clearIdle
  split
  · rfl
  · rfl

theorem Engine.finishes_iff {e : Engine} :
    e.finishes l = true ↔ ∃ seg pos, e = .finishing seg pos ∧ seg.lane = l := by
  unfold Engine.finishes
  split
  · next seg pos =>
    rw [decide_eq_true_iff]
    exact ⟨fun heq => ⟨seg, pos, rfl, heq⟩, fun ⟨_, _, heq, hl⟩ => by cases heq; exact hl⟩
  · next hno => exact ⟨fun h => absurd h Bool.false_ne_true, fun ⟨seg, pos, heq, _⟩ => absurd heq (hno seg pos)⟩

theorem LaneState.holdsStaging_iff {st : LaneState} :
    st.holdsStaging = true ↔ st = .retiring ∨ st = .staging ∨ st = .ready := by
  cases st <;> decide

end

/-- The record changes of R43 with those of a discard of a staging. -/
theorem LaneRec.cleared_eq (r : LaneRec) (cmd : LaneCommand) :
    (if r.state.holdsStaging then (r.discarded .aborted).cleared cmd else r.cleared cmd) =
      { r with
        active := 0, activeDigest := Digest.zero, history := [], floor := 0,
        state := .discarding, pendingCommand := some cmd,
        lastReason := if r.state.holdsStaging then .aborted else r.lastReason,
        discards := if r.state.holdsStaging then min (r.discards + 1) 65535 else r.discards,
        undoDeferred := if r.state = .retiring then true else r.undoDeferred } := by
  split
  · rfl
  · next hno =>
    have hretiring : r.state ≠ .retiring := fun heq => hno (by rw [heq]; rfl)
    rw [if_neg hretiring]
    rfl

/-- Settles O52: CLEAR and SUBSCRIBE accept alike, by whether a generation is staged. -/
theorem clearAndSubscribeEmptyTheLane : Obligations.ClearAndSubscribeEmptyTheLane := by
  intro s m l r accepted
  have haccepted : ∀ cmd, s.ctl.command = .available → accepted cmd ((s.commanded m l).acceptClear l cmd) := by
    intro cmd hcommand
    obtain ⟨-, -, -, hsettings, -, hclock⟩ := (s.commanded m l).acceptClear_frame l cmd
    obtain ⟨hingress, hhead, hcontrol, -, hcarrying, -, -, -, -, hregions, hfree⟩ :=
      (s.commanded m l).acceptClear_parts l cmd
    obtain ⟨hhearsTwo, hhears⟩ := (s.commanded m l).acceptClear_hears l cmd
    cases hst : (s.lane l).state.holdsStaging with
    | true =>
      obtain ⟨hlanes, hflags, hraises, hgives, hchanges, hmarks, hdrops, htally, hbuild, hwalk⟩ :=
        State.acceptClear_staged (s := s.commanded m l) (cmd := cmd) hst
      have hlane : ((s.commanded m l).acceptClear l cmd).lane l = _ :=
        (congrArg (PerLane.get · l) hlanes).trans (PerLane.get_set_same ..)
      have hother : ((s.commanded m l).acceptClear l cmd).lane l.other = _ :=
        (congrArg (PerLane.get · l.other) hlanes).trans (PerLane.get_set_other ..)
      refine ⟨?_, hother, hsettings, hclock, hregions, hfree, hcarrying, ?_, fun _ => ?_,
        fun hno => absurd (hst.symm.trans hno) nofun, hbuild, hwalk, fun _ => ⟨?_, hchanges⟩,
        fun hno => absurd (hst.symm.trans hno) nofun, hcontrol, hingress, hhead,
        fun _ => hhearsTwo hst, fun hno => absurd (hst.symm.trans hno) nofun, hmarks, hdrops, htally⟩
      · rw [hlane, ← LaneRec.cleared_eq, if_pos hst]
        rfl
      · exact hflags.trans (if_pos hst).symm
      · exact State.raises_congr hraises ⟨rfl, rfl, rfl, rfl⟩ rfl ⟨rfl, rfl, rfl, rfl⟩ rfl
      · exact State.givesUpSegment_of_grant hgives rfl rfl (State.commanded_nextGrant hcommand) rfl rfl
          rfl rfl
    | false =>
      obtain ⟨hlanes, hflags, hraises, hstore, hsweeper, hchanges, hmarks, hdrops, htally, hbuild,
        hwalk⟩ := State.acceptClear_unstaged (s := s.commanded m l) (cmd := cmd) hst
      have hlane : ((s.commanded m l).acceptClear l cmd).lane l = _ :=
        (congrArg (PerLane.get · l) hlanes).trans (PerLane.get_set_same ..)
      have hother : ((s.commanded m l).acceptClear l cmd).lane l.other = _ :=
        (congrArg (PerLane.get · l.other) hlanes).trans (PerLane.get_set_other ..)
      have hno : ¬ (s.lane l).state.holdsStaging = true := by rw [hst]; exact Bool.false_ne_true
      refine ⟨?_, hother, hsettings, hclock, hregions, hfree, hcarrying, ?_, fun hgo => absurd hgo hno,
        fun _ => hraises, hbuild, fun _ => hwalk, fun hgo => absurd hgo hno,
        fun _ => ⟨hstore, ?_, hchanges⟩, hcontrol, hingress, hhead, fun hgo => absurd hgo hno,
        fun _ => hhears hst, hmarks, hdrops, htally⟩
      · rw [hlane, ← LaneRec.cleared_eq, if_neg hno]
        rfl
      · exact hflags.trans (if_neg hno).symm
      · exact hsweeper.trans State.clearIdle_sweeper
  refine ⟨LaneState.holdsStaging_iff, ?_, Engine.finishes_iff, fun hread htakes => ?_,
    fun stream hread htakes => ?_⟩
  · rfl
  · exact ⟨_, exec_of_takes (carry := carryClear) htakes rfl hread, haccepted _ htakes.2.1⟩
  · have hexec : exec .subscribe s = .next (carrySubscribe m.head (l, stream) s.popControl) :=
      exec_of_takes htakes rfl hread
    refine ⟨fun hsame => ?_, fun hnew hzero hother => ?_, fun hnew hfree => ?_⟩
    · exact hexec.trans (congrArg Host.Outcome.next (if_pos hsame))
    · exact hexec.trans (congrArg Host.Outcome.next ((if_neg hnew).trans (if_pos ⟨hzero, hother⟩)))
    · have hno : ¬(stream ≠ 0 ∧ stream = s.settings.subs.get l.other) := fun ⟨hzero, hother⟩ =>
        hfree.elim hzero fun hne => hne hother
      exact ⟨_, hexec.trans (congrArg Host.Outcome.next ((if_neg hnew).trans (if_neg hno))),
        haccepted _ htakes.2.1⟩

end Sys2Proof.Machine
end

section
/-! SET-SPLIT, SET-CLASS and SET-POSITION (O51). -/

namespace Sys2Proof.Machine

/-! ### Deliveries of some positions abandoned on both lanes (R136, R138, R160) -/

/-- Every delivery of the positions that meet a test is abandoned. -/
def State.abandonBoth (s : State) (test : Fin 16 → Bool) : State :=
  (s.abandonWhere .b fun pos _ => test pos).abandonWhere .p fun pos _ => test pos

/-- A lane's part of a record with its delivery, if any, abandoned. -/
def ValidatorLane.idled (y : ValidatorLane) : ValidatorLane :=
  { y with delivery := if y.delivery.state = .idle then y.delivery else Delivery.idleWith 0 }

/-- What a change of some positions does to the BATCH being built and to the reads (R61, R160). -/
def State.rebuilds (s t : State) (ended : Fin 16 → Prop) : Prop :=
  let kept : Prop := t.scan.build = s.scan.build ∧ t.scan.read = s.scan.read
  t.scan.walk = s.scan.walk ∧ (s.scan.build = none → kept)
  ∧ ∀ b, s.scan.build = some b →
    let ends : Prop := ended b.pos ∧ ((s.validator b.pos).lane b.lane).delivery.state ≠ .idle
    (ends → t.scan.build = none ∧ (s.scan.phase = .visiting → t.scan.nextPos = b.pos.val)
      ∧ t.scan.read = if s.scan.read = some .batch then s.scan.walk.map fun _ => .tally
          else s.scan.read)
    ∧ (¬ ends → kept)

section
variable (s : State) (test : Fin 16 → Bool)

theorem State.abandonBoth_frame :
    (s.abandonBoth test).settings = s.settings ∧ (s.abandonBoth test).uplink = s.uplink
    ∧ (s.abandonBoth test).lanes = s.lanes ∧ (s.abandonBoth test).store = s.store
    ∧ (s.abandonBoth test).sweeper = s.sweeper ∧ (s.abandonBoth test).clock = s.clock
    ∧ (s.abandonBoth test).ctl = s.ctl
    ∧ (s.abandonBoth test).scan.broadcast = s.scan.broadcast
    ∧ (s.abandonBoth test).scan.phase = s.scan.phase
    ∧ (s.abandonBoth test).scan.roundNo = s.scan.roundNo := by
  simp [State.abandonBoth]

theorem State.abandonBoth_bus :
    (s.abandonBoth test).bus = { s.bus with link := (s.abandonBoth test).bus.link } := by
  rw [State.abandonBoth, State.abandonWhere_bus, State.abandonWhere_bus]

/-- An abandonment on a lane, in a record: only the part of the lane. -/
theorem State.validator_abandonWhere_pos (l : Lane) (pos : Fin 16) :
    (s.abandonWhere l fun q _ => test q).validator pos =
      if test pos then (s.validator pos).setLane l ((s.validator pos).lane l).idled
      else s.validator pos := by
  rw [State.validator_abandonWhere]
  simp only [State.abandons, ValidatorLane.idled]
  by_cases htest : test pos = true
  · by_cases hidle : ((s.validator pos).lane l).delivery.state = .idle
    · simp only [htest, hidle, ne_eq, not_true, decide_false, Bool.false_and, Bool.false_eq_true, if_false,
        if_true]
      exact (Validator.setLane_lane _ l).symm
    · simp [htest, hidle]
  · simp [htest]

theorem State.abandonBoth_validator (pos : Fin 16) :
    (s.abandonBoth test).validator pos =
      if test pos then
        { s.validator pos with
          lanes := { b := (s.validator pos).lanes.b.idled, p := (s.validator pos).lanes.p.idled } }
      else s.validator pos := by
  rw [State.abandonBoth, State.validator_abandonWhere_pos, State.validator_abandonWhere_pos]
  split
  · rfl
  · rfl

theorem State.lane_p_abandonWhere_b (pos : Fin 16) :
    ((s.abandonWhere .b fun q _ => test q).validator pos).lane .p = (s.validator pos).lane .p := by
  rw [State.validator_abandonWhere_pos]
  split
  · rfl
  · rfl

/-! Which BATCH an abandonment on one lane gives up -/

theorem State.abandonWhere_kept {l : Lane} {b : Build} (hb : s.scan.build = some b)
    (hno : ¬(b.lane = l ∧ test b.pos = true
      ∧ ((s.validator b.pos).lane b.lane).delivery.state ≠ .idle)) :
    (s.abandonWhere l fun pos _ => test pos).scan.build = s.scan.build
    ∧ (s.abandonWhere l fun pos _ => test pos).scan.read = s.scan.read
    ∧ (s.abandonWhere l fun pos _ => test pos).scan.nextPos = s.scan.nextPos := by
  refine (s.abandonWhere_reading l fun pos _ => test pos).2.2 fun b' hb' hends => hno ?_
  obtain rfl : b = b' := Option.some.inj (hb.symm.trans hb')
  obtain ⟨hlane, hgo⟩ := hends
  simp only [State.abandons, Bool.and_eq_true, decide_eq_true_eq] at hgo
  exact ⟨hlane, hgo.2, by rw [hlane]; exact hgo.1⟩

theorem State.abandonWhere_given {l : Lane} {b : Build} (hb : s.scan.build = some b)
    (hlane : b.lane = l) (htest : test b.pos = true)
    (hgo : ((s.validator b.pos).lane b.lane).delivery.state ≠ .idle) :
    (s.abandonWhere l fun pos _ => test pos).scan.build = none
    ∧ (s.abandonWhere l fun pos _ => test pos).scan.nextPos = b.pos.val
    ∧ (s.abandonWhere l fun pos _ => test pos).scan.read =
      if s.scan.read = some .batch then s.scan.walk.map fun _ => .tally else s.scan.read := by
  refine (s.abandonWhere_reading l fun pos _ => test pos).2.1 b hb hlane ?_
  simp only [State.abandons, Bool.and_eq_true, decide_eq_true_eq]
  exact ⟨by rwa [← hlane], htest⟩

theorem State.abandonWhere_none {l : Lane} (hb : s.scan.build = none) :
    (s.abandonWhere l fun pos _ => test pos).scan.build = s.scan.build
    ∧ (s.abandonWhere l fun pos _ => test pos).scan.read = s.scan.read
    ∧ (s.abandonWhere l fun pos _ => test pos).scan.nextPos = s.scan.nextPos :=
  (s.abandonWhere_reading l fun pos _ => test pos).2.2 fun b hsome => by
    rw [hb] at hsome
    exact absurd hsome nofun

theorem State.abandonBoth_walk : (s.abandonBoth test).scan.walk = s.scan.walk := by
  rw [State.abandonBoth, (State.abandonWhere_reading _ _ _).1, (State.abandonWhere_reading _ _ _).1]

/-- On both lanes: the BATCH is given up where its own delivery is abandoned. -/
theorem State.abandonBoth_reading :
    (s.scan.build = none → (s.abandonBoth test).scan.build = s.scan.build
      ∧ (s.abandonBoth test).scan.read = s.scan.read)
    ∧ ∀ b, s.scan.build = some b →
      ((test b.pos = true ∧ ((s.validator b.pos).lane b.lane).delivery.state ≠ .idle) →
        (s.abandonBoth test).scan.build = none ∧ (s.abandonBoth test).scan.nextPos = b.pos.val
        ∧ (s.abandonBoth test).scan.read =
          if s.scan.read = some .batch then s.scan.walk.map fun _ => .tally else s.scan.read)
      ∧ (¬(test b.pos = true ∧ ((s.validator b.pos).lane b.lane).delivery.state ≠ .idle) →
        (s.abandonBoth test).scan.build = s.scan.build
        ∧ (s.abandonBoth test).scan.read = s.scan.read) := by
  unfold State.abandonBoth
  refine ⟨fun hb => ?_, fun b hb => ⟨fun ⟨htest, hgo⟩ => ?_, fun hno => ?_⟩⟩
  · obtain ⟨hbuild, hread, -⟩ := s.abandonWhere_none test (l := .b) hb
    obtain ⟨kbuild, kread, -⟩ := State.abandonWhere_none _ test (l := .p) (hbuild.trans hb)
    exact ⟨kbuild.trans hbuild, kread.trans hread⟩
  · cases hlane : b.lane with
    | b =>
      obtain ⟨hbuild, hnext, hread⟩ := s.abandonWhere_given test hb hlane htest hgo
      obtain ⟨kbuild, kread, knext⟩ := State.abandonWhere_none _ test (l := .p) hbuild
      exact ⟨kbuild.trans hbuild, knext.trans hnext, kread.trans hread⟩
    | p =>
      obtain ⟨hbuild, hread, -⟩ :=
        s.abandonWhere_kept test (l := .b) hb fun hends => nomatch hlane.symm.trans hends.1
      have hgo' : ((((s.abandonWhere .b fun q _ => test q).validator b.pos).lane b.lane).delivery.state
          ≠ .idle) := by
        rw [hlane] at hgo ⊢
        rwa [State.lane_p_abandonWhere_b]
      obtain ⟨kbuild, knext, kread⟩ := State.abandonWhere_given (s.abandonWhere .b fun q _ => test q)
        test (hbuild.trans hb) hlane htest hgo'
      refine ⟨kbuild, knext, ?_⟩
      rw [kread, hread, (State.abandonWhere_reading _ _ _).1]
  · obtain ⟨hbuild, hread, -⟩ := s.abandonWhere_kept test (l := .b) hb fun hends => hno hends.2
    obtain ⟨kbuild, kread, -⟩ := State.abandonWhere_kept (s.abandonWhere .b fun q _ => test q) test
      (l := .p) (hbuild.trans hb) fun ⟨hlane, htest, hgo⟩ => hno ⟨htest, by
        rw [hlane] at hgo ⊢
        rwa [State.lane_p_abandonWhere_b] at hgo⟩
    exact ⟨kbuild.trans hbuild, kread.trans hread⟩

/-- A state woken after the deliveries of the positions named are abandoned. -/
theorem State.rebuilds_of {u t : State} (hbuild : t.scan.build = (u.abandonBoth test).scan.build)
    (hread : t.scan.read = (u.abandonBoth test).scan.read)
    (hwalk : t.scan.walk = (u.abandonBoth test).scan.walk)
    (hnext : u.scan.phase = .visiting → t.scan.nextPos = (u.abandonBoth test).scan.nextPos) :
    u.rebuilds t (fun pos => test pos = true) := by
  obtain ⟨hnone, hsome⟩ := u.abandonBoth_reading test
  refine ⟨hwalk.trans (u.abandonBoth_walk test), fun hb => ?_, fun b hb => ⟨fun hends => ?_, fun hno => ?_⟩⟩
  · exact ⟨hbuild.trans (hnone hb).1, hread.trans (hnone hb).2⟩
  · obtain ⟨kbuild, knext, kread⟩ := (hsome b hb).1 hends
    exact ⟨hbuild.trans kbuild, fun hv => (hnext hv).trans knext, hread.trans kread⟩
  · obtain ⟨kbuild, kread⟩ := (hsome b hb).2 hno
    exact ⟨hbuild.trans kbuild, hread.trans kread⟩

end

/-! ### A change of the roster or of a class -/

/-- What a SET-CLASS or a SET-POSITION with a change leaves alone, the ANSWER apart. -/
def State.rosterChanged (s t : State) : Prop :=
  t.lanes = s.lanes ∧ t.store = s.store ∧ t.clock = s.clock ∧ t.ctl = s.ctl
  ∧ t.uplink = s.uplink ∧ t.sweeper = s.sweeper ∧ t.scan.broadcast = s.scan.broadcast
  ∧ t.bus = { s.bus with link := t.bus.link } ∧ s.hearsReport t

/-- New settings, the deliveries of some positions abandoned, and records and link to follow. -/
def State.resettled (s : State) (x : Settings) (test : Fin 16 → Bool)
    (records : Vector Validator 16) (link : Link) : State :=
  let u := ({ s with settings := x } : State).abandonBoth test
  { u with scan := { u.scan with records := records }, bus := { u.bus with link := link } }

section
variable (s : State) (x : Settings) (test : Fin 16 → Bool) (records : Vector Validator 16) (link : Link)

theorem State.resettled_woken :
    (s.resettled x test records link).wakeScan.settings = x
    ∧ (s.resettled x test records link).wakeScan.bus.link = link
    ∧ ∀ pos : Fin 16, (s.resettled x test records link).wakeScan.validator pos = records[pos] := by
  have hsettings := (({ s with settings := x } : State).abandonBoth_frame test).1
  refine ⟨?_, ?_, fun pos => ?_⟩
  · rw [(State.wakeScan_frame _).2.2.2.2.1]
    exact hsettings
  · rw [(State.wakeScan_frame _).2.2.2.2.2.2.2.2.2.2.2.1]
    rfl
  · rw [State.validator_wakeScan]
    rfl

theorem State.resettled_changed : s.rosterChanged (s.resettled x test records link).wakeScan := by
  obtain ⟨-, huplink, hlanes, hstore, hsweeper, hclock, hctl, hbroadcast, hphase, hround⟩ :=
    ({ s with settings := x } : State).abandonBoth_frame test
  have hbus := ({ s with settings := x } : State).abandonBoth_bus test
  obtain ⟨-, -, -, -, -, -, wuplink, wlanes, wstore, wsweeper, wclock, wbus, wctl⟩ :=
    (s.resettled x test records link).wakeScan_frame
  refine ⟨wlanes.trans hlanes, wstore.trans hstore, wclock.trans hclock, wctl.trans hctl,
    wuplink.trans huplink, wsweeper.trans hsweeper,
    (State.wakeScan_lists _).2.trans hbroadcast, ?_, State.hears_of_wake hphase hround⟩
  rw [wbus]
  exact congrArg (fun b : Bus => { b with link := link }) hbus

theorem State.resettled_rebuilds :
    s.rebuilds (s.resettled x test records link).wakeScan (fun pos => test pos = true) := by
  obtain ⟨hbuild, hwalk, hread⟩ := (s.resettled x test records link).wakeScan_reading
  have hphase := (({ s with settings := x } : State).abandonBoth_frame test).2.2.2.2.2.2.2.2.1
  exact State.rebuilds_of (u := { s with settings := x }) test hbuild hread hwalk fun hv =>
    State.wakeScan_nextPos (hphase.trans hv)

end

/-! ### SET-CLASS (R136) -/

/-- The positions that name a class. -/
def State.names (s : State) (c : Fin 8) (pos : Fin 16) : Bool := decide (s.settings.roster[pos] = some c)

/-- The class stored. -/
def State.withClass (s : State) (c : Fin 8) (f : ClassRec) : State :=
  { s with settings := { s.settings with classes := s.settings.classes.set c f } }

theorem State.changeClass_eq (s : State) (c : Fin 8) (f : ClassRec) :
    s.changeClass c f = (s.resettled (s.withClass c f).settings (s.names c)
      (eachOf ((s.withClass c f).abandonBoth (s.names c)).scan.records fun pos v =>
        if s.names c pos then
          { v with lanes := { b := v.lanes.b.clearMarks, p := v.lanes.p.clearMarks } } else v)
      ((s.withClass c f).abandonBoth (s.names c)).bus.link).wakeScan := rfl

theorem State.changeClass_spec (s : State) (c : Fin 8) (f : ClassRec) :
    (s.changeClass c f).settings = (s.withClass c f).settings
    ∧ s.rosterChanged (s.changeClass c f)
    ∧ s.rebuilds (s.changeClass c f) (fun pos => s.settings.roster[pos] = some c)
    ∧ (s.changeClass c f).bus.link = (s.abandonBoth (s.names c)).bus.link
    ∧ ∀ pos, (s.changeClass c f).validator pos =
      if s.names c pos then
        { s.validator pos with lanes :=
          { b := (s.validator pos).lanes.b.idled.clearMarks,
            p := (s.validator pos).lanes.p.idled.clearMarks } }
      else s.validator pos := by
  rw [State.changeClass_eq]
  obtain ⟨hsettings, hlink, hrecords⟩ := s.resettled_woken (s.withClass c f).settings (s.names c)
    (eachOf ((s.withClass c f).abandonBoth (s.names c)).scan.records fun pos v =>
      if s.names c pos then
        { v with lanes := { b := v.lanes.b.clearMarks, p := v.lanes.p.clearMarks } } else v)
    ((s.withClass c f).abandonBoth (s.names c)).bus.link
  refine ⟨hsettings, State.resettled_changed _ _ _ _ _, ?_, ?_, fun pos => ?_⟩
  · have hrebuilds := s.resettled_rebuilds (s.withClass c f).settings (s.names c)
    simp only [State.names, decide_eq_true_eq] at hrebuilds
    exact hrebuilds _ _
  · rw [hlink, State.abandonBoth, State.abandonBoth, State.abandonBoth_link, State.abandonBoth_link]
    rfl
  · have hvalidator : ((s.withClass c f).abandonBoth (s.names c)).scan.records[pos] = _ :=
      (s.withClass c f).abandonBoth_validator (s.names c) pos
    rw [hrecords, eachOf_get, hvalidator]
    split
    · rfl
    · rfl

/-! ### SET-POSITION (R138) -/

/-- The roster entry stored. -/
def State.withEntry (s : State) (pos : Fin 16) (entry : Option (Fin 8)) : State :=
  { s with settings := { s.settings with roster := s.settings.roster.set pos entry } }

/-- An exchange with a position set up anew. -/
def Addressed.renewed (pos : Fin 16) (x : Addressed) : Addressed :=
  if x.pos = pos then { x with recordGone := true } else x

theorem State.changePosition_eq (s : State) (pos : Fin 16) (entry : Option (Fin 8)) :
    s.changePosition pos entry = (s.resettled (s.withEntry pos entry).settings
      (fun q => decide (q = pos))
      (((s.withEntry pos entry).abandonBoth fun q => decide (q = pos)).scan.records.set pos
        (Validator.anew entry))
      (((s.withEntry pos entry).abandonBoth fun q => decide (q = pos)).bus.link.mapAddressed
        (Addressed.renewed pos))).wakeScan := rfl

theorem State.changePosition_spec (s : State) (pos : Fin 16) (entry : Option (Fin 8)) :
    (s.changePosition pos entry).settings = (s.withEntry pos entry).settings
    ∧ s.rosterChanged (s.changePosition pos entry)
    ∧ s.rebuilds (s.changePosition pos entry) (fun q => q = pos)
    ∧ (s.changePosition pos entry).bus.link =
      (s.abandonBoth fun q => decide (q = pos)).bus.link.mapAddressed (Addressed.renewed pos)
    ∧ (s.changePosition pos entry).validator pos = Validator.anew entry
    ∧ ∀ q, q ≠ pos → (s.changePosition pos entry).validator q = s.validator q := by
  rw [State.changePosition_eq]
  obtain ⟨hsettings, hlink, hrecords⟩ := s.resettled_woken (s.withEntry pos entry).settings
    (fun q => decide (q = pos))
    (((s.withEntry pos entry).abandonBoth fun q => decide (q = pos)).scan.records.set pos
      (Validator.anew entry))
    (((s.withEntry pos entry).abandonBoth fun q => decide (q = pos)).bus.link.mapAddressed
      (Addressed.renewed pos))
  refine ⟨hsettings, State.resettled_changed _ _ _ _ _, ?_, ?_, ?_, fun q hq => ?_⟩
  · have hrebuilds := s.resettled_rebuilds (s.withEntry pos entry).settings (fun q => decide (q = pos))
    simp only [decide_eq_true_eq] at hrebuilds
    exact hrebuilds _ _
  · rw [hlink, State.abandonBoth, State.abandonBoth, State.abandonBoth_link, State.abandonBoth_link]
    rfl
  · rw [hrecords]
    exact Vector.getElem_set_self ..
  · have hvalidator := (s.withEntry pos entry).abandonBoth_validator (fun q => decide (q = pos)) q
    rw [if_neg (by rw [decide_eq_true_iff]; exact hq)] at hvalidator
    rw [hrecords]
    exact (Vector.getElem_set_ne _ _ fun heq => hq (Fin.ext heq.symm)).trans hvalidator

/-! ### The exchange on the line (R136, R143, R161) -/

/-- The frame on the line belongs to a delivery under way. -/
def State.delivers (s : State) (x : Addressed) : Prop :=
  ∃ l, x.frame.deliveryLane = some l ∧ ((s.validator x.pos).lane l).delivery.state ≠ .idle

section
variable {s : State} {x : Addressed} (test : Fin 16 → Bool)

theorem State.abandonBoth_unaddressed (h : s.bus.link.addressed = none) :
    (s.abandonBoth test).bus.link = s.bus.link := by
  rw [State.abandonBoth, State.abandonBoth_link, Link.addressed_none_map h]

/-- An exchange whose delivery ends is marked. -/
theorem State.abandonBoth_marks (h : s.bus.link.addressed = some x) (ht : test x.pos = true)
    (hd : s.delivers x) :
    (s.abandonBoth test).bus.link.addressed = some { x with deliveryGone := true } := by
  obtain ⟨l, hframe, hgo⟩ := hd
  rw [State.abandonBoth, State.abandonBoth_link, (Link.addressed_map h _).1,
    if_pos ⟨l, hframe, hgo, ht⟩]

/-- Any other runs on as it is. -/
theorem State.abandonBoth_unmarked (h : s.bus.link.addressed = some x)
    (hno : ¬(test x.pos = true ∧ s.delivers x)) : (s.abandonBoth test).bus.link = s.bus.link := by
  rw [State.abandonBoth, State.abandonBoth_link]
  exact (Link.addressed_map h _).2 (if_neg fun ⟨l, hframe, hgo, ht⟩ => hno ⟨ht, l, hframe, hgo⟩)

end

/-! ### SET-SPLIT (R50) -/

theorem LaneRec.bare_iff (r : LaneRec) :
    r.bare = true ↔ r.state = .idle ∧ r.active = 0 ∧ r.history = [] := by
  simp only [LaneRec.bare, Bool.and_eq_true, decide_eq_true_eq, List.isEmpty_iff, and_assoc]

theorem State.bothBare_iff (s : State) :
    (s.lanes.b.bare && s.lanes.p.bare) = true ↔
      ∀ l, (s.lane l).state = .idle ∧ (s.lane l).active = 0 ∧ (s.lane l).history = [] := by
  rw [Bool.and_eq_true, LaneRec.bare_iff, LaneRec.bare_iff]
  refine ⟨fun ⟨hb, hp⟩ l => ?_, fun h => ⟨h .b, h .p⟩⟩
  cases l with
  | b => exact hb
  | p => exact hp

section
variable {s : State} (h : CommandHead) {k : Fin 4}

theorem carrySetSplit_refused (hno : ¬ (s.lanes.b.bare && s.lanes.p.bare) = true) :
    carrySetSplit h k s = s.answer h .state [] := by
  unfold carrySetSplit
  rw [Bool.eq_false_iff.2 hno]
  exact if_pos rfl

theorem carrySetSplit_unchanged (hbare : (s.lanes.b.bare && s.lanes.p.bare) = true)
    (hk : k = s.settings.split) : carrySetSplit h k s = s.answer h .done [] := by
  unfold carrySetSplit
  rw [hbare]
  exact if_pos hk

theorem carrySetSplit_redraws (hbare : (s.lanes.b.bare && s.lanes.p.bare) = true)
    (hk : k ≠ s.settings.split) : carrySetSplit h k s = (s.redraw k).answer h .done [] := by
  unfold carrySetSplit
  rw [hbare]
  exact if_neg hk

end

/-! ### The three commands -/

/-- Settles O51: a SET-CLASS or a SET-POSITION is one abandonment on both lanes, with new records and a
link to follow. -/
theorem splitClassAndPositionCommands : Obligations.SplitClassAndPositionCommands := by
  refine ⟨fun s => ⟨rfl, rfl⟩, ⟨rfl, fun _ => rfl⟩, fun s m => ?_⟩
  intro h u kept heard delivers rebuilds changed
  refine ⟨fun k hread htakes => ?_, fun c f hread htakes => ⟨fun hsame => ?_, fun hnew => ?_⟩,
    fun pos entry hread htakes => ⟨fun hsame => ?_, fun hnew => ?_⟩⟩
  · have hexec : exec .setSplit s = .next (carrySetSplit h k u) := exec_of_takes htakes rfl hread
    have hbare := u.bothBare_iff
    refine ⟨fun hno => ?_, fun hyes hk => ?_, fun hyes hk => ?_⟩
    · rw [hexec, carrySetSplit_refused (s := u) _ (hno ∘ hbare.1)]
    · rw [hexec, carrySetSplit_unchanged (s := u) _ (hbare.2 hyes) hk]
    · rw [hexec, carrySetSplit_redraws (s := u) _ (hbare.2 hyes) hk]
      rfl
  · exact (exec_of_takes (carry := carrySetClass) htakes rfl hread).trans
      (congrArg Host.Outcome.next (if_pos hsame))
  · have hexec : exec .setClass s = .next (carrySetClass h (c, f) u) := exec_of_takes htakes rfl hread
    refine ⟨u.changeClass c f, hexec.trans (congrArg Host.Outcome.next (if_neg hnew)), ?_⟩
    obtain ⟨hsettings, hchanged, hrebuilds, hlink, hrecords⟩ := u.changeClass_spec c f
    refine ⟨hsettings, hchanged, hrebuilds, fun hnone => ?_, fun x hx => ⟨fun ⟨hc, hd⟩ => ?_,
      fun hno => ?_⟩, fun pos => (hrecords pos).trans ?_⟩
    · exact hlink.trans (State.abandonBoth_unaddressed _ hnone)
    · rw [hlink]
      exact State.abandonBoth_marks _ hx (decide_eq_true hc) hd
    · exact hlink.trans (State.abandonBoth_unmarked _ hx fun ⟨ht, hd⟩ => hno ⟨of_decide_eq_true ht, hd⟩)
    · show (if s.names c pos = true then _ else _) = _
      unfold State.names
      split
      · next hnames => simp only [kept, hnames, if_true]; rfl
      · next hnames => simp only [kept, hnames]; rfl
  · exact (exec_of_takes (carry := carrySetPosition) htakes rfl hread).trans
      (congrArg Host.Outcome.next (if_pos hsame))
  · have hexec : exec .setPosition s = .next (carrySetPosition h (pos, entry) u) :=
      exec_of_takes htakes rfl hread
    refine ⟨u.changePosition pos entry, hexec.trans (congrArg Host.Outcome.next (if_neg hnew)), ?_⟩
    obtain ⟨hsettings, hchanged, hrebuilds, hlink, hnew, hother⟩ := u.changePosition_spec pos entry
    refine ⟨hsettings, hchanged, hrebuilds, fun hnone => ?_, fun x hx => ⟨fun hpos => ?_, fun hpos => ?_⟩,
      hnew, hother⟩
    · have hkept : (u.abandonBoth fun q => decide (q = pos)).bus.link = s.bus.link :=
        State.abandonBoth_unaddressed _ hnone
      rw [hlink, hkept, Link.addressed_none_map hnone]
    · by_cases hd : u.delivers x
      · have hmark : (u.abandonBoth fun q => decide (q = pos)).bus.link.addressed
            = some { x with deliveryGone := true } :=
          State.abandonBoth_marks _ hx (decide_eq_true hpos) hd
        refine ⟨{ x with recordGone := true, deliveryGone := true }, ?_, rfl, fun _ => rfl,
          fun hno => absurd hd hno⟩
        rw [hlink, (Link.addressed_map hmark _).1]
        exact congrArg some (if_pos hpos)
      · have hkept : (u.abandonBoth fun q => decide (q = pos)).bus.link = s.bus.link :=
          State.abandonBoth_unmarked _ hx fun hyes => hd hyes.2
        refine ⟨{ x with recordGone := true }, ?_, rfl, fun hyes => absurd hyes hd, fun _ => rfl⟩
        rw [hlink, hkept, (Link.addressed_map hx _).1]
        exact congrArg some (if_pos hpos)
    · have hkept : (u.abandonBoth fun q => decide (q = pos)).bus.link = s.bus.link :=
        State.abandonBoth_unmarked _ hx fun hyes => hpos (of_decide_eq_true hyes.1)
      rw [hlink, hkept]
      exact (Link.addressed_map hx _).2 (if_neg hpos)

end Sys2Proof.Machine
end

section
/-! What a region shows, entry by entry, and what a change of one slot makes of it. -/

namespace Sys2Proof.Machine

/-! ### A view of a region -/

/-- What a function of an entry gives for each, in slot order. -/
def Memory.views {β : Type} (φ : Entry → Option β) (m : Memory) : List β := m.filterMap fun e => φ e.2

/-- What it gives at one slot. -/
def Memory.viewAt {β : Type} (φ : Entry → Option β) (m : Memory) (a : Nat) : Option β :=
  (m.read a).bind φ

section
variable {β : Type} {φ : Entry → Option β} {m : Memory} {n a : Nat}

theorem Memory.views_cons (k : Nat) (e : Entry) :
    Memory.views φ ((k, e) :: m) = (φ e).toList ++ Memory.views φ m := by
  rw [Memory.views, List.filterMap_cons]
  cases φ e with
  | none => rfl
  | some y => rfl

/-- Two views that agree on a region's entries. -/
theorem Memory.views_congr {ψ : Entry → Option β} (h : ∀ slot ∈ m, φ slot.2 = ψ slot.2) :
    m.views φ = m.views ψ := by
  induction m with
  | nil => rfl
  | cons slot m ih =>
    rw [Memory.views_cons, Memory.views_cons, h slot List.mem_cons_self,
      ih fun slot' hslot => h slot' (List.mem_cons_of_mem _ hslot)]

/-- One slot gives one place of the view: a write there changes what stands in it, an erasure empties
it. -/
theorem Memory.views_at (h : m.risingFrom n = true) (a : Nat) :
    ∃ before after, m.views φ = before ++ (m.viewAt φ a).toList ++ after
      ∧ (∀ x, (m.write a x).views φ = before ++ (φ x).toList ++ after)
      ∧ (m.erase a).views φ = before ++ after := by
  induction m generalizing n with
  | nil => exact ⟨[], [], rfl, fun x => by rw [Memory.write, Memory.views_cons]; rfl, rfl⟩
  | cons slot m ih =>
    obtain ⟨k, e⟩ := slot
    simp only [Memory.risingFrom, Bool.and_eq_true, decide_eq_true_eq] at h
    obtain ⟨-, hrest⟩ := h
    obtain hlt | rfl | hgt := Nat.lt_trichotomy a k
    · have hfree : Memory.read ((k, e) :: m) a = none := by
        simp only [Memory.read, if_neg (Nat.ne_of_gt hlt)]
        exact Memory.read_below hrest (by omega)
      refine ⟨[], Memory.views φ ((k, e) :: m), ?_, fun x => ?_, ?_⟩
      · rw [Memory.viewAt, hfree]
        rfl
      · simp only [Memory.write, if_pos hlt, Memory.views_cons (m := (k, e) :: m)]
        rfl
      · rw [Memory.erase_free hfree]
        rfl
    · refine ⟨[], Memory.views φ m, ?_, fun x => ?_, ?_⟩
      · rw [Memory.views_cons, Memory.viewAt]
        simp only [Memory.read, if_true, Option.bind_some, List.nil_append]
      · simp only [Memory.write, if_neg (Nat.lt_irrefl _), if_true, Memory.views_cons, List.nil_append]
      · simp only [Memory.erase, if_true, List.nil_append]
    · obtain ⟨before, after, hviews, hwrite, herase⟩ := ih hrest
      have hne : k ≠ a := Nat.ne_of_lt hgt
      refine ⟨(φ e).toList ++ before, after, ?_, fun x => ?_, ?_⟩
      · rw [Memory.views_cons, hviews, Memory.viewAt, Memory.viewAt]
        simp only [Memory.read, if_neg hne, List.append_assoc]
      · simp only [Memory.write, if_neg (Nat.lt_asymm hgt), if_neg hne, Memory.views_cons, hwrite,
          List.append_assoc]
      · simp only [Memory.erase, if_neg hne, Memory.views_cons, herase, List.append_assoc]

theorem Memory.views_write_same (h : m.wf = true) {x : Entry} (hx : φ x = m.viewAt φ a) :
    (m.write a x).views φ = m.views φ := by
  obtain ⟨before, after, hviews, hwrite, -⟩ := Memory.views_at (φ := φ) h a
  rw [hwrite, hviews, hx]

theorem Memory.views_erase_same (h : m.wf = true) (hx : m.viewAt φ a = none) :
    (m.erase a).views φ = m.views φ := by
  obtain ⟨before, after, hviews, -, herase⟩ := Memory.views_at (φ := φ) h a
  rw [herase, hviews, hx]
  simp

/-- A new entry in view joins the view. -/
theorem Memory.views_write_in (h : m.wf = true) {x : Entry} {y : β} (hx : φ x = some y)
    (hnone : m.viewAt φ a = none) : ((m.write a x).views φ).Perm (m.views φ ++ [y]) := by
  obtain ⟨before, after, hviews, hwrite, -⟩ := Memory.views_at (φ := φ) h a
  rw [hwrite, hviews, hx, hnone]
  simpa using List.perm_middle.trans (List.perm_append_singleton y (before ++ after)).symm

/-- An entry hidden leaves the view. -/
theorem Memory.views_write_out (h : m.wf = true) {x : Entry} {y : β} (hx : φ x = none)
    (hsome : m.viewAt φ a = some y) : (m.views φ).Perm ((m.write a x).views φ ++ [y]) := by
  obtain ⟨before, after, hviews, hwrite, -⟩ := Memory.views_at (φ := φ) h a
  rw [hwrite, hviews, hx, hsome]
  simpa using List.perm_middle.trans (List.perm_append_singleton y (before ++ after)).symm

theorem Memory.views_erase_out (h : m.wf = true) {y : β} (hsome : m.viewAt φ a = some y) :
    (m.views φ).Perm ((m.erase a).views φ ++ [y]) := by
  obtain ⟨before, after, hviews, -, herase⟩ := Memory.views_at (φ := φ) h a
  rw [herase, hviews, hsome]
  simpa using List.perm_middle.trans (List.perm_append_singleton y (before ++ after)).symm

/-- An entry in view put for another: what both leave is the same. -/
theorem Memory.views_write_swap (h : m.wf = true) {x : Entry} {y z : β} (hx : φ x = some z)
    (hsome : m.viewAt φ a = some y) :
    ∃ rest, (m.views φ).Perm (rest ++ [y]) ∧ ((m.write a x).views φ).Perm (rest ++ [z]) := by
  obtain ⟨before, after, hviews, hwrite, -⟩ := Memory.views_at (φ := φ) h a
  refine ⟨before ++ after, ?_, ?_⟩
  · rw [hviews, hsome]
    simpa using List.perm_middle.trans (List.perm_append_singleton y (before ++ after)).symm
  · rw [hwrite, hx]
    simpa using List.perm_middle.trans (List.perm_append_singleton z (before ++ after)).symm

theorem Memory.viewAt_of_read {e : Entry} (h : m.read a = some e) : m.viewAt φ a = φ e := by
  rw [Memory.viewAt, h]
  rfl

theorem Memory.viewAt_of_free (h : m.read a = none) : m.viewAt φ a = none := by
  rw [Memory.viewAt, h]
  rfl

theorem Memory.mem_views (h : m.wf = true) {y : β} :
    y ∈ m.views φ ↔ ∃ a e, m.read a = some e ∧ φ e = some y := by
  rw [Memory.views, List.mem_filterMap]
  refine ⟨fun ⟨⟨a, e⟩, hmem, he⟩ => ⟨a, e, (Memory.mem_iff_read h a e).1 hmem, he⟩,
    fun ⟨a, e, hread, he⟩ => ⟨(a, e), (Memory.mem_iff_read h a e).2 hread, he⟩⟩

end

/-! ### The blocklist entries and the heads in view of a generation (R53) -/

/-- A blocklist entry visible in a generation. -/
def Entry.blockIn (v : Nat) : Entry → Option BlockEntry
  | .block e => if stampsVisible e.added e.removed v then some e else none
  | _ => none

/-- A product head visible in a generation. -/
def Entry.headIn (v : Nat) : Entry → Option ProductHead
  | .head h => if stampsVisible h.added h.removed v then some h else none
  | _ => none

theorem Memory.visibleBlocks_eq (m : Memory) (v : Nat) :
    m.visibleBlocks v = m.views (Entry.blockIn v) := rfl

theorem Memory.visibleHeads_eq (m : Memory) (v : Nat) :
    m.visibleHeads v = m.views (Entry.headIn v) := rfl

end Sys2Proof.Machine
end

section
/-! What a generation's readers find: kept by every change made for a later one, and by a reclaim (O28). -/

namespace Sys2Proof.Machine

/-! ### What a generation shows of a region (R53, R130) -/

/-- A generation's blocklist entries and product records, in slot order. -/
def Memory.contents (m : Memory) (v : Nat) : List (Nat × Fin 8) × List ProductRecord :=
  ((m.visibleBlocks v).map fun e => (e.token, e.priority), (m.visibleHeads v).map m.recordAt)

/-- What an entry gives of it, a head's tail read in a region. -/
def Entry.face (m : Memory) (v : Nat) : Entry → Option ((Nat × Fin 8) ⊕ ProductRecord)
  | .block e => if stampsVisible e.added e.removed v then some (.inl (e.token, e.priority)) else none
  | .head h => if stampsVisible h.added h.removed v then some (.inr (m.recordAt h)) else none
  | .tail _ => none

theorem Memory.contents_eq (m : Memory) (v : Nat) :
    m.contents v = ((m.views (Entry.face m v)).filterMap Sum.getLeft?,
      (m.views (Entry.face m v)).filterMap Sum.getRight?) := by
  unfold Memory.contents
  rw [Memory.visibleBlocks_eq, Memory.visibleHeads_eq]
  simp only [Memory.views, List.map_filterMap, List.filterMap_filterMap]
  refine Prod.ext ?_ ?_
  · dsimp only
    congr 1
    funext ⟨_, x⟩
    cases x with
    | block e => simp only [Entry.blockIn, Entry.face]; split <;> rfl
    | head h => simp only [Entry.blockIn, Entry.face]; split <;> rfl
    | tail t => rfl
  · dsimp only
    congr 1
    funext ⟨_, x⟩
    cases x with
    | block e => simp only [Entry.headIn, Entry.face]; split <;> rfl
    | head h => simp only [Entry.headIn, Entry.face]; split <;> rfl
    | tail t => rfl

theorem Entry.face_of_hidden {m : Memory} {v : Nat} {x : Entry} (h : x.visibleIn v = false) :
    x.face m v = none := by
  cases x with
  | block e =>
    have hno : stampsVisible e.added e.removed v = false := h
    simp only [Entry.face, hno, Bool.false_eq_true, if_false]
  | head hd =>
    have hno : stampsVisible hd.added hd.removed v = false := h
    simp only [Entry.face, hno, Bool.false_eq_true, if_false]
  | tail t => rfl

/-- A record is read from its head and its tail's slot. -/
theorem Memory.recordAt_congr {m m' : Memory} {h : ProductHead}
    (ht : ∀ t, h.tail = some t → m'.read t = m.read t) : m'.recordAt h = m.recordAt h := by
  have hbind : h.tail.bind m'.read = h.tail.bind m.read := by
    cases htail : h.tail with
    | none => rfl
    | some t => exact ht t htail
  unfold Memory.recordAt
  rw [hbind]

/-- Two regions show a generation alike where the entries do and its heads keep their tails. -/
theorem Memory.contents_congr {m m' : Memory} {v : Nat} (hm' : m'.wf = true)
    (hviews : m'.views (Entry.face m v) = m.views (Entry.face m v))
    (hrecords : ∀ a h, m'.read a = some (.head h) → stampsVisible h.added h.removed v = true →
      m'.recordAt h = m.recordAt h) : m'.contents v = m.contents v := by
  have hfaces : m'.views (Entry.face m' v) = m'.views (Entry.face m v) := by
    refine Memory.views_congr fun ⟨a, x⟩ hmem => ?_
    have hread := (Memory.mem_iff_read hm' a x).1 hmem
    cases x with
    | block e => rfl
    | head h =>
      simp only [Entry.face]
      split
      · next hv => rw [hrecords a h hread hv]
      · rfl
    | tail t => rfl
  rw [Memory.contents_eq, Memory.contents_eq, hfaces, hviews]

/-! ### One slot changed -/

/-- The visible heads of a generation have their tails. -/
def Memory.TailsIn (m : Memory) (v : Nat) : Prop :=
  ∀ a h t, m.read a = some (.head h) → stampsVisible h.added h.removed v = true → h.tail = some t →
    ∃ x, m.read t = some (.tail x) ∧ x.head = a

theorem LinksOk.tailsIn {m : Memory} (h : LinksOk m) (v : Nat) : m.TailsIn v :=
  fun a hd t hread _ htail => (h.1 a hd t hread htail).2

/-- A generation is shown as before, and its heads still have their tails. -/
def Memory.Shows (m m' : Memory) (v : Nat) : Prop :=
  m'.contents v = m.contents v ∧ m'.TailsIn v

section
variable {m : Memory} {v a : Nat}

theorem Memory.shows_refl (h : m.TailsIn v) : m.Shows m v := ⟨rfl, h⟩

theorem Memory.shows_trans {m' m'' : Memory} (h : m.Shows m' v) (k : m'.Shows m'' v) : m.Shows m'' v :=
  ⟨k.1.trans h.1, k.2⟩

/-- A write over no tail, of an entry that shows what the slot showed. -/
theorem Memory.shows_write (hm : m.wf = true) (ht : m.TailsIn v) {x : Entry}
    (hface : x.face m v = m.viewAt (Entry.face m v) a) (hslot : ∀ y, m.read a ≠ some (.tail y))
    (hx : ∀ h t, x = .head h → stampsVisible h.added h.removed v = true → h.tail = some t →
      ∃ y, m.read t = some (.tail y) ∧ y.head = a) : m.Shows (m.write a x) v := by
  have htails : ∀ b h t, (m.write a x).read b = some (.head h) →
      stampsVisible h.added h.removed v = true → h.tail = some t →
      ∃ y, m.read t = some (.tail y) ∧ y.head = b := by
    intro b h t hread hv htail
    rw [Memory.read_write] at hread
    split at hread
    · next hb =>
      subst hb
      exact hx h t (Option.some.inj hread) hv htail
    · exact ht b h t hread hv htail
  have hkept : ∀ {t y}, m.read t = some (.tail y) → (m.write a x).read t = m.read t := by
    intro t y hread
    refine Memory.read_write_ne _ _ _ _ fun heq => hslot y ?_
    rw [← heq, hread]
  refine ⟨Memory.contents_congr (Memory.wf_write hm _ _) (Memory.views_write_same hm hface)
    fun b h hread hv => Memory.recordAt_congr fun t htail => ?_, fun b h t hread hv htail => ?_⟩
  · obtain ⟨y, hy, -⟩ := htails b h t hread hv htail
    exact hkept hy
  · obtain ⟨y, hy, hyhead⟩ := htails b h t hread hv htail
    exact ⟨y, (hkept hy).trans hy, hyhead⟩

/-- A write of an entry the generation does not see, over one it does not see. -/
theorem Memory.shows_write_hidden (hm : m.wf = true) (ht : m.TailsIn v) {x : Entry}
    (hx : x.visibleIn v = false)
    (hold : ∀ y, m.read a = some y → y.visibleIn v = false ∧ ∀ z, y ≠ .tail z) :
    m.Shows (m.write a x) v := by
  refine Memory.shows_write hm ht ?_ (fun y hread => (hold _ hread).2 y rfl) fun h t heq hv _ => ?_
  · rw [Entry.face_of_hidden hx]
    cases hread : m.read a with
    | none => exact (Memory.viewAt_of_free hread).symm
    | some y => rw [Memory.viewAt_of_read hread, Entry.face_of_hidden (hold y hread).1]
  · subst heq
    exact absurd hv (Bool.eq_false_iff.1 hx)

theorem Memory.shows_write_free (hm : m.wf = true) (ht : m.TailsIn v) {x : Entry}
    (hx : x.visibleIn v = false) (hfree : m.read a = none) : m.Shows (m.write a x) v :=
  Memory.shows_write_hidden hm ht hx fun _ hread => absurd (hfree.symm.trans hread) nofun

/-- A removed stamp changed to one the generation does not tell apart. -/
theorem Memory.shows_setRemoved (hm : m.wf = true) (ht : m.TailsIn v) {x : Entry} {added : Nat}
    {removed r : Option Nat} (hread : m.read a = some x) (hs : x.stamps = some (added, removed))
    (hv : stampsVisible added r v = stampsVisible added removed v) :
    m.Shows (m.write a (x.setRemoved r)) v := by
  cases x with
  | block e =>
    obtain ⟨rfl, rfl⟩ := Prod.mk.inj (Option.some.inj hs)
    refine Memory.shows_write hm ht ?_ (fun y hy => ?_) nofun
    · rw [Memory.viewAt_of_read hread]
      simp only [Entry.setRemoved, Entry.face, hv]
    · exact absurd (hread.symm.trans hy) nofun
  | head h =>
    obtain ⟨rfl, rfl⟩ := Prod.mk.inj (Option.some.inj hs)
    refine Memory.shows_write hm ht ?_ (fun y hy => ?_) fun hd t heq hvis htail => ?_
    · rw [Memory.viewAt_of_read hread]
      simp only [Entry.setRemoved, Entry.face, hv]
      rfl
    · exact absurd (hread.symm.trans hy) nofun
    · obtain rfl := Entry.head.inj heq
      exact ht a h t hread (hv.symm.trans hvis) htail
  | tail t => exact absurd hs nofun

/-- A slot emptied of what the generation does not see and no visible head names. -/
theorem Memory.shows_erase (hm : m.wf = true) (ht : m.TailsIn v)
    (hface : m.viewAt (Entry.face m v) a = none)
    (hnamed : ∀ b h, m.read b = some (.head h) → stampsVisible h.added h.removed v = true →
      b ≠ a → h.tail ≠ some a) : m.Shows (m.erase a) v := by
  have hread : ∀ b h, (m.erase a).read b = some (.head h) → b ≠ a ∧ m.read b = some (.head h) := by
    intro b h hb
    rw [Memory.read_erase hm] at hb
    split at hb
    · exact absurd hb nofun
    · next hne => exact ⟨hne, hb⟩
  have hkept : ∀ b h t, (m.erase a).read b = some (.head h) →
      stampsVisible h.added h.removed v = true → h.tail = some t →
      (m.erase a).read t = m.read t := by
    intro b h t hb hv htail
    obtain ⟨hne, hb⟩ := hread b h hb
    rw [Memory.read_erase hm]
    exact if_neg fun heq : t = a => hnamed b h hb hv hne (htail.trans (congrArg some heq))
  refine ⟨Memory.contents_congr (Memory.wf_erase hm _) (Memory.views_erase_same hm hface)
    fun b h hb hv => Memory.recordAt_congr fun t htail => hkept b h t hb hv htail,
    fun b h t hb hv htail => ?_⟩
  rw [hkept b h t hb hv htail]
  exact ht b h t (hread b h hb).2 hv htail

/-- An entry the generation does not see is freed, a head with its tail. -/
theorem Memory.shows_freeEntry (hm : m.wf = true) (hl : LinksOk m) {x : Entry}
    (hread : m.read a = some x) (hx : x.visibleIn v = false) (hslot : ∀ y, x ≠ .tail y) :
    m.Shows (m.freeEntry a) v := by
  have hface : m.viewAt (Entry.face m v) a = none := by
    rw [Memory.viewAt_of_read hread, Entry.face_of_hidden hx]
  have hfirst : m.Shows (m.erase a) v := by
    refine Memory.shows_erase hm (hl.tailsIn v) hface fun b h hb _ _ htail => ?_
    obtain ⟨-, y, hy, -⟩ := hl.1 b h a hb htail
    exact hslot y (Option.some.inj (hread.symm.trans hy))
  unfold Memory.freeEntry
  split
  · next hd hhead =>
    split
    · next t htail =>
      obtain ⟨hlt, y, hy, hya⟩ := hl.1 a hd t hhead htail
      have hne : t ≠ a := Nat.ne_of_gt hlt
      have hyt : (m.erase a).read t = some (.tail y) := by
        rw [Memory.read_erase hm, if_neg hne, hy]
      refine Memory.shows_trans hfirst (Memory.shows_erase (Memory.wf_erase hm a) hfirst.2
        (Memory.viewAt_of_read hyt) fun b h hb hv _ hbt => ?_)
      rw [Memory.read_erase hm] at hb
      split at hb
      · exact absurd hb nofun
      · next hba =>
        obtain ⟨-, z, hz, hzb⟩ := hl.1 b h t hb hbt
        obtain rfl := Entry.tail.inj (Option.some.inj (hy.symm.trans hz))
        exact hba (hzb.symm.trans hya)
    · exact hfirst
  · exact hfirst

end

/-! ### Items of a later generation (R64 to R69) -/

theorem stampsVisible_of_later {added v : Nat} (h : v < added) (removed : Option Nat) :
    stampsVisible added removed v = false := by
  rw [← Bool.not_eq_true, stampsVisible_iff]
  exact fun hv => absurd hv.1 (Nat.not_le.2 h)

/-- A generation below the one that removes an entry tells its stamp from none, or from a later one, by
nothing. -/
theorem stampsVisible_removed_later {added v g : Nat} {removed : Option Nat} (h : v < g)
    (hr : ∀ r, removed = some r → v < r) :
    stampsVisible added (some g) v = stampsVisible added removed v := by
  rw [Bool.eq_iff_iff, stampsVisible_iff, stampsVisible_iff]
  exact and_congr_right fun _ => ⟨fun _ => hr, fun _ r hg => by cases hg; exact h⟩

section
variable {m m' : Memory} {g v : Nat}

theorem Memory.shows_addBlock (hm : m.wf = true) (ht : m.TailsIn v) (hv : v < g) (token : Nat)
    (p : Fin 8) : m.Shows (m.addBlock g token p) v :=
  Memory.shows_write_free hm ht (stampsVisible_of_later hv none) (Memory.lowestFree_empty hm 0)

theorem BlockChange.shows {free token : Nat} {c : DigestChange} (h : BlockChange g free m token m' c)
    (hm : m.wf = true) (hl : LinksOk m) (hv : v < g) : m.Shows m' v := by
  have hkept : ∀ {a : Nat} {e : BlockEntry}, m.findToken g token = some (a, e) →
      m.Shows (m.write a (.block { e with removed := some g })) v := by
    intro a e found
    obtain ⟨hread, -, hvis⟩ := Memory.findToken_some hm found
    have hlater : ∀ r, e.removed = some r → v < r := fun r hr =>
      Nat.lt_trans hv (((stampsVisible_iff _ _ _).1 hvis).2 r hr)
    exact Memory.shows_setRemoved hm (hl.tailsIn v) hread rfl (stampsVisible_removed_later hv hlater)
  cases h with
  | opens p room unknown => exact Memory.shows_addBlock hm (hl.tailsIn v) hv token p
  | relevels p found moved own =>
    obtain ⟨hread, -, -⟩ := Memory.findToken_some hm found
    have hhidden := stampsVisible_of_later (own ▸ hv)
    refine Memory.shows_write_hidden hm (hl.tailsIn v) (hhidden _) fun y hy => ?_
    obtain rfl := Option.some.inj (hread.symm.trans hy)
    exact ⟨hhidden _, nofun⟩
  | replaces p found moved older room =>
    have hshows := hkept found
    exact Memory.shows_trans hshows (Memory.shows_addBlock (Memory.wf_write hm _ _) hshows.2 hv token p)
  | removes found own =>
    obtain ⟨hread, -, -⟩ := Memory.findToken_some hm found
    have hshows := Memory.shows_freeEntry (v := v) hm hl hread (stampsVisible_of_later (own ▸ hv) _) nofun
    simpa only [Memory.freeEntry, hread] using hshows
  | closes found older => exact hkept found

theorem Memory.shows_addRecord (hm : m.wf = true) (hl : LinksOk m) (hv : v < g) (r : ProductRecord) :
    m.Shows (m.addRecord g r) v := by
  have hfree := Memory.lowestFree_empty hm 0
  by_cases hshort : r.zones.length ≤ 4
  · rw [Memory.addRecord_short hshort]
    exact Memory.shows_write_free hm (hl.tailsIn v) (stampsVisible_of_later hv none) hfree
  · rw [Memory.addRecord_long (Nat.lt_of_not_le hshort)]
    have hhead := Memory.shows_write_free (v := v) hm (hl.tailsIn v)
      (x := .head (headOf r g (some (m.lowestFree (m.lowestFree 0 + 1)))))
      (stampsVisible_of_later hv none) hfree
    have hnext : m.lowestFree 0 + 1 ≤ m.lowestFree (m.lowestFree 0 + 1) := Memory.le_lowestFree m _
    refine Memory.shows_trans hhead (Memory.shows_write_free (Memory.wf_write hm _ _) hhead.2 rfl ?_)
    rw [Memory.read_write_ne _ _ _ _ (by omega)]
    exact Memory.lowestFree_empty hm _

/-! ### Sweeps (R78 to R80) -/

/-- A sweep step at a slot that holds a block or a head. -/
theorem sweepSlot_shows {k : SweepKind} {kept : List Nat} {a : Nat} (hl : LinksOk m)
    (hstep : ∀ x added removed, m.read a = some x → x.stamps = some (added, removed) →
      (∀ y, x ≠ .tail y) → m.Shows (sweepSlot k kept m a) v) : m.Shows (sweepSlot k kept m a) v := by
  cases hread : m.read a with
  | none =>
    rw [sweepSlot_of_free hread]
    exact Memory.shows_refl (hl.tailsIn v)
  | some x =>
    cases x with
    | block e => exact hstep _ _ _ hread rfl nofun
    | head h => exact hstep _ _ _ hread rfl nofun
    | tail t =>
      rw [sweepSlot_of_tail hread]
      exact Memory.shows_refl (hl.tailsIn v)

theorem Entry.hidden_of_stamps {x : Entry} {added : Nat} {removed : Option Nat}
    (hs : x.stamps = some (added, removed)) (h : stampsVisible added removed v = false) :
    x.visibleIn v = false := by
  simp only [Entry.visibleIn, hs, h]

theorem sweepSlot_retire_shows (hm : m.wf = true) (hl : LinksOk m) (hv : v < g) (kept : List Nat)
    (a : Nat) : m.Shows (sweepSlot (.retire g) kept m a) v := by
  refine sweepSlot_shows hl fun x added removed hread hs _ => ?_
  rw [sweepSlot_retire hread hs]
  split
  · next hnone =>
    refine Memory.shows_setRemoved hm (hl.tailsIn v) hread hs (stampsVisible_removed_later hv ?_)
    rw [hnone]
    exact nofun
  · exact Memory.shows_refl (hl.tailsIn v)

theorem sweepSlot_undo_shows (hm : m.wf = true) (hl : LinksOk m) (hv : v < g) (kept : List Nat)
    (a : Nat) : m.Shows (sweepSlot (.undo g) kept m a) v := by
  refine sweepSlot_shows hl fun x added removed hread hs hslot => ?_
  rw [sweepSlot_undo hread hs]
  split
  · next hown =>
    exact Memory.shows_freeEntry hm hl hread
      (Entry.hidden_of_stamps hs (stampsVisible_of_later (hown ▸ hv) _)) hslot
  · split
    · next hremoved =>
      refine Memory.shows_setRemoved hm (hl.tailsIn v) hread hs ?_
      rw [hremoved]
      exact (stampsVisible_removed_later (removed := none) hv nofun).symm
    · exact Memory.shows_refl (hl.tailsIn v)

theorem sweepSlot_reclaim_shows (hm : m.wf = true) (hl : LinksOk m) {kept : List Nat} (hv : v ∈ kept)
    (a : Nat) : m.Shows (sweepSlot .reclaim kept m a) v := by
  refine sweepSlot_shows hl fun x added removed hread hs hslot => ?_
  rw [sweepSlot_reclaim hread hs]
  split
  · exact Memory.shows_refl (hl.tailsIn v)
  · next hnone =>
    have hhidden : x.visibleIn v = false := Bool.eq_false_iff.2 fun hvis =>
      hnone (List.any_eq_true.2 ⟨v, hv, hvis⟩)
    exact Memory.shows_freeEntry hm hl hread hhidden hslot

end

/-- Settles O28: every change is a few writes and erasures of slots, each of which the generation shows
alike. -/
theorem keptGenerationsAreUntouched : Obligations.KeptGenerationsAreUntouched := by
  intro m g v hm hl
  refine ⟨fun hv => ⟨fun free image i m' change happly => ?_, fun free r m' change happly => ?_,
    fun a kept => ⟨?_, ?_⟩⟩, fun a kept hkept => ?_⟩
  · exact ((applyBlockItem_change happly).shows hm hl hv).1
  · obtain ⟨-, -, -, rfl, -⟩ := applyRecord_applied happly
    exact (Memory.shows_addRecord hm hl hv r).1
  · exact (sweepSlot_retire_shows hm hl hv kept a).1
  · exact (sweepSlot_undo_shows hm hl hv kept a).1
  · exact (sweepSlot_reclaim_shows hm hl hkept a).1

end Sys2Proof.Machine
end

section
/-! The digest of what a generation shows, through every applied item (R92 to R94). -/

namespace Sys2Proof.Machine

/-! ### A digest's figures -/

/-- A digest is its figures and those of its levels. -/
theorem Digest.eq_of {d e : Digest} (hcount : d.count = e.count) (hsum : d.sum = e.sum)
    (hlevels : ∀ l : Fin 8, d.levels[l] = e.levels[l]) : d = e := by
  obtain ⟨_, _, levels⟩ := d
  obtain ⟨_, _, levels'⟩ := e
  obtain rfl : levels = levels' := Vector.ext fun i hi => hlevels ⟨i, hi⟩
  obtain rfl := hcount
  obtain rfl := hsum
  rfl

/-- Weights are added in any order. -/
theorem Sum.add_right_comm (a b c : Sum) : a + b + c = a + c + b := by
  rw [BitVec.add_assoc, BitVec.add_comm b c, BitVec.add_assoc]

/-- A level's figures with one entry more. -/
def LevelFigure.gain (x : LevelFigure) (w : Sum) : LevelFigure := { count := x.count + 1, sum := x.sum + w }

/-- A level's figures with one entry fewer. -/
def LevelFigure.lose (x : LevelFigure) (w : Sum) : LevelFigure :=
  { count := x.count - 1, sum := x.sum - w }

theorem LevelFigure.gain_comm (x : LevelFigure) (w w' : Sum) :
    (x.gain w).gain w' = (x.gain w').gain w := by
  simp only [LevelFigure.gain, LevelFigure.mk.injEq, true_and]
  exact Sum.add_right_comm _ _ _

theorem LevelFigure.lose_gain (x : LevelFigure) (w : Sum) : (x.gain w).lose w = x := by
  simp only [LevelFigure.gain, LevelFigure.lose, Nat.add_sub_cancel, BitVec.add_sub_cancel]

theorem Digest.levelIn_level (d : Digest) (p l : Fin 8) (w : Sum) :
    (d.levelIn p w).levels[l] = if l = p then d.levels[l].gain w else d.levels[l] := by
  split
  · next h => rw [h, Digest.levelIn_level_same]; rfl
  · next h => exact d.levelIn_level_other h w

theorem Digest.levelOut_level (d : Digest) (p l : Fin 8) (w : Sum) :
    (d.levelOut p w).levels[l] = if l = p then d.levels[l].lose w else d.levels[l] := by
  split
  · next h => rw [h, Digest.levelOut_level_same]; rfl
  · next h => exact d.levelOut_level_other h w

/-! ### One entry more or fewer (R93) -/

section
variable (d : Digest) (token : Nat) (p : Fin 8)

theorem Digest.blockIn_figures :
    (d.change (.blockIn token p)).count = d.count + 1
    ∧ (d.change (.blockIn token p)).sum = d.sum + blockWeight token p.val := ⟨rfl, rfl⟩

theorem Digest.blockIn_level (l : Fin 8) :
    (d.change (.blockIn token p)).levels[l] =
      if l = p then d.levels[l].gain (blockWeight token p.val) else d.levels[l] :=
  Digest.levelIn_level _ p l _

/-- Entries come in in any order. -/
theorem Digest.blockIn_comm (token' : Nat) (p' : Fin 8) :
    (d.change (.blockIn token p)).change (.blockIn token' p')
      = (d.change (.blockIn token' p')).change (.blockIn token p) := by
  refine Digest.eq_of ?_ ?_ fun l => ?_
  · simp only [Digest.blockIn_figures]
  · simp only [Digest.blockIn_figures]
    exact Sum.add_right_comm _ _ _
  rw [Digest.blockIn_level, Digest.blockIn_level, Digest.blockIn_level, Digest.blockIn_level]
  by_cases hp : l = p
  · by_cases hp' : l = p'
    · simp only [if_pos hp, if_pos hp']
      exact LevelFigure.gain_comm _ _ _
    · simp only [if_pos hp, if_neg hp']
  · simp only [if_neg hp]

theorem Digest.blockOut_blockIn : (d.change (.blockIn token p)).change (.blockOut token p) = d := by
  refine Digest.eq_of (Nat.add_sub_cancel ..) (BitVec.add_sub_cancel _ _) fun l => ?_
  refine (Digest.levelOut_level _ p l _).trans ?_
  show (if l = p then ((d.change (.blockIn token p)).levels[l]).lose _ else
    (d.change (.blockIn token p)).levels[l]) = _
  rw [Digest.blockIn_level]
  split
  · exact LevelFigure.lose_gain _ _
  · rfl

/-- An entry of another priority in the place of one. -/
theorem Digest.relevel_blockIn (q : Fin 8) :
    (d.change (.blockIn token q)).change (.relevel token q p) = d.change (.blockIn token p) := by
  refine Digest.eq_of rfl ?_ fun l => ?_
  · show d.sum + _ - _ + _ = d.sum + _
    rw [BitVec.add_sub_cancel]
  · have hout : (((d.change (.blockIn token q)).change (.blockOut token q)).levels[l]) = d.levels[l] := by
      rw [Digest.blockOut_blockIn]
    rw [Digest.blockIn_level]
    refine (Digest.levelIn_level _ p l _).trans ?_
    rw [← hout]
    rfl

theorem Digest.recordIn_comm (w w' : Sum) :
    (d.change (.recordIn w)).change (.recordIn w') = (d.change (.recordIn w')).change (.recordIn w) :=
  Digest.eq_of rfl (Sum.add_right_comm _ _ _) fun _ => rfl

end

/-! ### The digest of a list (R92) -/

theorem digestOfBlocks_perm {es es' : List BlockEntry} (h : es.Perm es') :
    digestOfBlocks es = digestOfBlocks es' := by
  exact h.foldl_eq' (fun e _ e' _ d => d.blockIn_comm e.token e.priority e'.token e'.priority) _

theorem digestOfBlocks_append (es : List BlockEntry) (e : BlockEntry) :
    digestOfBlocks (es ++ [e]) = (digestOfBlocks es).change (.blockIn e.token e.priority) := by
  rw [digestOfBlocks, List.foldl_append]
  rfl

theorem digestOfRecords_perm {rs rs' : List ProductRecord} (h : rs.Perm rs') :
    digestOfRecords rs = digestOfRecords rs' := by
  exact h.foldl_eq' (fun r _ r' _ d => d.recordIn_comm (productWeight r) (productWeight r')) _

theorem digestOfRecords_append (rs : List ProductRecord) (r : ProductRecord) :
    digestOfRecords (rs ++ [r]) = (digestOfRecords rs).change (.recordIn (productWeight r)) := by
  rw [digestOfRecords, List.foldl_append]
  rfl

/-! ### A blocklist item (R65 to R67) -/

section
variable {m m' : Memory} {g : Nat}

theorem stampsVisible_own (g : Nat) : stampsVisible g none g = true := by
  rw [stampsVisible_iff]
  exact ⟨Nat.le_refl g, nofun⟩

theorem Entry.blockIn_closed (e : BlockEntry) : Entry.blockIn g (.block { e with removed := some g }) = none := by
  refine if_neg ?_
  rw [stampsVisible_iff]
  exact fun hv => Nat.lt_irrefl g (hv.2 g rfl)

theorem Entry.blockIn_visible {e : BlockEntry} (h : stampsVisible e.added e.removed g = true) :
    Entry.blockIn g (.block e) = some e := if_pos h

/-- A new entry of S joins what S shows. -/
theorem Memory.addBlock_views (hm : m.wf = true) (token : Nat) (p : Fin 8) :
    ((m.addBlock g token p).visibleBlocks g).Perm
      (m.visibleBlocks g ++ [{ token := token, priority := p, added := g, removed := none }]) :=
  Memory.views_write_in hm (Entry.blockIn_visible (stampsVisible_own g))
    (Memory.viewAt_of_free (Memory.lowestFree_empty hm 0))

/-- The digest of S's entries follows an applied item. -/
theorem BlockChange.digest {free token : Nat} {c : DigestChange} (h : BlockChange g free m token m' c)
    (hm : m.wf = true) :
    digestOfBlocks (m'.visibleBlocks g) = (digestOfBlocks (m.visibleBlocks g)).change c := by
  have hseen : ∀ {a : Nat} {e : BlockEntry}, m.findToken g token = some (a, e) →
      e.token = token ∧ m.viewAt (Entry.blockIn g) a = some e := by
    intro a e found
    obtain ⟨hread, htoken, hvis⟩ := Memory.findToken_some hm found
    exact ⟨htoken, (Memory.viewAt_of_read hread).trans (Entry.blockIn_visible hvis)⟩
  have hclosed : ∀ {a : Nat} {e : BlockEntry}, m.findToken g token = some (a, e) →
      digestOfBlocks (m.visibleBlocks g) =
        (digestOfBlocks ((m.write a (.block { e with removed := some g })).visibleBlocks g)).change
          (.blockIn token e.priority) := by
    intro a e found
    obtain ⟨rfl, hview⟩ := hseen found
    rw [Memory.visibleBlocks_eq,
      digestOfBlocks_perm (Memory.views_write_out hm (Entry.blockIn_closed e) hview)]
    exact digestOfBlocks_append _ e
  cases h with
  | opens p room unknown =>
    rw [digestOfBlocks_perm (Memory.addBlock_views hm token p), digestOfBlocks_append]
  | @relevels p a e found moved own =>
    obtain ⟨rfl, hview⟩ := hseen found
    obtain ⟨-, -, hvis⟩ := Memory.findToken_some hm found
    obtain ⟨rest, hold, hnew⟩ := Memory.views_write_swap hm
      (Entry.blockIn_visible (e := { e with priority := p }) hvis) hview
    rw [Memory.visibleBlocks_eq, Memory.visibleBlocks_eq, digestOfBlocks_perm hnew,
      digestOfBlocks_perm hold, digestOfBlocks_append, digestOfBlocks_append, Digest.relevel_blockIn]
  | @replaces p a e found moved older room =>
    rw [digestOfBlocks_perm (Memory.addBlock_views (Memory.wf_write hm _ _) token p),
      digestOfBlocks_append, hclosed found, Digest.relevel_blockIn]
  | @removes a e found own =>
    obtain ⟨rfl, hview⟩ := hseen found
    rw [Memory.visibleBlocks_eq, Memory.visibleBlocks_eq,
      digestOfBlocks_perm (Memory.views_erase_out hm hview), digestOfBlocks_append,
      Digest.blockOut_blockIn]
  | closes found older => rw [hclosed found, Digest.blockOut_blockIn]

/-! ### A product record (R69) -/

/-- The records a generation shows. -/
def Memory.visibleRecords (m : Memory) (v : Nat) : List ProductRecord :=
  (m.visibleHeads v).map m.recordAt

/-- A new head in view joins what the region shows, where it reads as a record and the other heads' tails
stay. -/
theorem Memory.visibleRecords_joined (hm : m.wf = true) {h : ProductHead} {r : ProductRecord}
    (hviews : (m'.visibleHeads g).Perm (m.visibleHeads g ++ [h])) (hr : m'.recordAt h = r)
    (hl : LinksOk m) (hkept : ∀ t x, m.read t = some (.tail x) → m'.read t = m.read t) :
    (m'.visibleRecords g).Perm (m.visibleRecords g ++ [r]) := by
  have hrecords : (m.visibleHeads g).map m'.recordAt = m.visibleRecords g := by
    refine List.map_congr_left fun hd hmem => Memory.recordAt_congr fun t htail => ?_
    obtain ⟨a, x, hread, hx⟩ := (Memory.mem_views (φ := Entry.headIn g) hm).1 hmem
    cases x with
    | block e => exact absurd hx nofun
    | tail y => exact absurd hx nofun
    | head k =>
      obtain ⟨-, hk⟩ := Option.ite_none_right_eq_some.1 hx
      obtain rfl := Option.some.inj hk
      obtain ⟨-, y, hy, -⟩ := hl.1 a k t hread htail
      exact hkept t y hy
  have hmap := hviews.map m'.recordAt
  rwa [List.map_append, List.map_singleton, hr, hrecords] at hmap

theorem Memory.addRecord_views (hm : m.wf = true) (hl : LinksOk m) (r : ProductRecord) :
    ((m.addRecord g r).visibleRecords g).Perm (m.visibleRecords g ++ [r]) := by
  have hfree := Memory.lowestFree_empty hm 0
  have hother : ∀ {a t x}, m.read a = none → m.read t = some (.tail x) → t ≠ a := by
    rintro a t x ha ht rfl
    exact absurd (ha.symm.trans ht) nofun
  have hhead : ∀ tail, ((m.write (m.lowestFree 0) (.head (headOf r g tail))).visibleHeads g).Perm
      (m.visibleHeads g ++ [headOf r g tail]) := fun tail =>
    Memory.views_write_in (φ := Entry.headIn g) hm (if_pos (stampsVisible_own g))
      (Memory.viewAt_of_free hfree)
  by_cases hshort : r.zones.length ≤ 4
  · rw [Memory.addRecord_short hshort]
    refine Memory.visibleRecords_joined hm (hhead none) ?_ hl fun t x ht =>
      Memory.read_write_ne _ _ _ _ (hother hfree ht)
    rw [Memory.recordAt_of_single _ rfl]
    simp only [headOf, List.take_of_length_le hshort]
  · rw [Memory.addRecord_long (Nat.lt_of_not_le hshort)]
    have hnext : m.lowestFree 0 + 1 ≤ m.lowestFree (m.lowestFree 0 + 1) := Memory.le_lowestFree m _
    have hempty : m.read (m.lowestFree (m.lowestFree 0 + 1)) = none := Memory.lowestFree_empty hm _
    have htail : (m.write (m.lowestFree 0)
        (.head (headOf r g (some (m.lowestFree (m.lowestFree 0 + 1)))))).read
          (m.lowestFree (m.lowestFree 0 + 1)) = none := by
      rw [Memory.read_write_ne _ _ _ _ (by omega), hempty]
    refine Memory.visibleRecords_joined (h := headOf r g (some (m.lowestFree (m.lowestFree 0 + 1)))) hm
      ?_ ?_ hl fun t x ht => ?_
    · rw [Memory.visibleHeads_eq, Memory.views_write_same (Memory.wf_write hm _ _)
        (Memory.viewAt_of_free htail).symm]
      exact hhead _
    · rw [Memory.recordAt_of_pair rfl (Memory.read_write_same ..)]
      simp only [headOf, List.take_append_drop]
    · rw [Memory.read_write_ne _ _ _ _ (hother hempty ht), Memory.read_write_ne _ _ _ _ (hother hfree ht)]

theorem Memory.addRecord_digest (hm : m.wf = true) (hl : LinksOk m) (r : ProductRecord) :
    digestOfRecords ((m.addRecord g r).visibleRecords g) =
      (digestOfRecords (m.visibleRecords g)).change (.recordIn (productWeight r)) := by
  rw [digestOfRecords_perm (Memory.addRecord_views hm hl r), digestOfRecords_append]

end

end Sys2Proof.Machine
end

section
/-! The staged digest at every granted item (O26, O27). -/

namespace Sys2Proof.Machine

/-! ### What the end of an item leaves of a staging -/

/-- The region and, where the lane still holds a staging, its digest and its generation. -/
def State.StagingKept (s t : State) (l : Lane) : Prop :=
  t.region l = s.region l ∧ ((t.lane l).state.holdsStaging = true →
    (t.lane l).stagedDigest = (s.lane l).stagedDigest ∧ (t.lane l).stagedGen = (s.lane l).stagedGen)

section
variable {s t u : State} {l : Lane}

theorem State.StagingKept.refl (s : State) (l : Lane) : s.StagingKept s l :=
  ⟨rfl, fun _ => ⟨rfl, rfl⟩⟩

/-- After a change of the record that keeps its digest and its notice. -/
theorem State.StagingKept.after {r : LaneRec} (hregions : u.store.regions = s.store.regions)
    (hlane : u.lane l = r) (hdigest : r.stagedDigest = (s.lane l).stagedDigest)
    (hstaged : r.staged = (s.lane l).staged) (k : u.StagingKept t l) : s.StagingKept t l := by
  have hgen : (u.lane l).stagedGen = (s.lane l).stagedGen := by
    rw [hlane, LaneRec.stagedGen, hstaged]
    rfl
  refine ⟨k.1.trans (congrArg (PerLane.get · l) hregions), fun ht => ?_⟩
  obtain ⟨kdigest, kgen⟩ := k.2 ht
  exact ⟨kdigest.trans (by rw [hlane, hdigest]), kgen.trans hgen⟩

/-- A region kept, and no staging left. -/
theorem State.StagingKept.of_gone (hregions : t.store.regions = s.store.regions)
    (hgone : (t.lane l).state.holdsStaging = false) : s.StagingKept t l :=
  ⟨congrArg (PerLane.get · l) hregions, fun h => absurd (hgone.symm.trans h) nofun⟩

theorem State.StagingKept.discardUndo (s : State) (l : Lane) (reason : DiscardReason) :
    s.StagingKept (s.discardUndo l reason) l := by
  refine .of_gone (by simp) ?_
  rw [State.lane, (s.discardUndo_spec l reason).1, PerLane.get_set_same]
  rfl

theorem State.StagingKept.testActivation (s : State) (l : Lane) :
    s.StagingKept (s.testActivation l) l := by
  cases hdue : s.activationDue l with
  | true =>
    obtain ⟨n, -, hn, -, -⟩ := (s.activationDue_iff l).1 hdue
    refine .of_gone (by simp) ?_
    rw [State.testActivation_due hdue, State.lane, (s.activate_spec l n hn).1, PerLane.get_set_same]
    rfl
  | false =>
    rw [State.testActivation_not hdue]
    exact .refl s l

theorem State.StagingKept.verify (s : State) (l : Lane) : s.StagingKept (s.verify l) l := by
  cases hn : (s.lane l).staged with
  | none =>
    simp only [State.verify, hn]
    exact .refl s l
  | some n =>
    by_cases hequal : (s.lane l).stagedDigest.count = n.count ∧ (s.lane l).stagedDigest.sum = n.sum
    · obtain ⟨u, hverify, hlanes, hstore, -⟩ := State.verify_ready hn hequal
      have hlane : u.lane l = { s.lane l with state := .ready } := by
        rw [State.lane, hlanes, PerLane.get_set_same]
      rw [hverify]
      exact .after (congrArg Store.regions hstore) hlane rfl rfl (.testActivation u l)
    · rw [State.verify_discards hn hequal]
      exact .discardUndo s l .digest

theorem State.StagingKept.completeSegment (s : State) (l : Lane) (index : Nat) :
    s.StagingKept (s.completeSegment l index) l := by
  have hjoined : ∀ {t}, (s.joined l index).StagingKept t l → s.StagingKept t l := fun k =>
    .after (u := s.joined l index) rfl (State.lane_joined s l index) rfl rfl k
  rw [State.completeSegment_eq]
  split
  · exact hjoined (.refl _ l)
  · split
    · exact hjoined (.verify _ l)
    · exact hjoined (.refl _ l)

theorem State.StagingKept.nextItem (s : State) (seg : Segment) (pos : Nat) :
    s.StagingKept (s.nextItem seg pos) seg.lane := by
  unfold State.nextItem
  split
  · exact ⟨rfl, fun _ => ⟨rfl, rfl⟩⟩
  · exact .completeSegment s seg.lane seg.index

/-- After a count of the record. -/
theorem State.StagingKept.counted (s : State) (seg : Segment) (pos : Nat) {r : LaneRec}
    (hdigest : r.stagedDigest = (s.lane seg.lane).stagedDigest)
    (hstaged : r.staged = (s.lane seg.lane).staged) :
    s.StagingKept ((s.setLane seg.lane r).nextItem seg pos) seg.lane :=
  .after (u := s.setLane seg.lane r) rfl (State.lane_setLane_same _ _ _) hdigest hstaged
    (.nextItem _ seg pos)

theorem State.StagingKept.waitForReclaim (s : State) (seg : Segment) (pos : Nat) :
    s.StagingKept (s.waitForReclaim seg pos) seg.lane := ⟨rfl, fun _ => ⟨rfl, rfl⟩⟩

theorem State.StagingKept.giveUpHistory (s : State) (seg : Segment) (pos : Nat) :
    s.StagingKept (s.giveUpHistory seg pos) seg.lane := by
  unfold State.giveUpHistory
  dsimp only
  split
  · exact .after rfl rfl rfl rfl (.discardUndo (s.setEngine .empty) seg.lane .storeFull)
  · next bottom _ =>
    have hlane : ((s.setLane seg.lane { s.lane seg.lane with
        history := (s.lane seg.lane).history.dropLast }).rise (.pressure seg.lane)
          { lane := laneCode seg.lane, generation := bottom.generation }).lane seg.lane
        = { s.lane seg.lane with history := (s.lane seg.lane).history.dropLast } := by
      rw [State.lane_of_lanes (State.rise_frame _ _ _).2.2.2.2.2.2.1, State.lane_setLane_same]
    exact .after (by simp) hlane rfl rfl (.waitForReclaim _ seg pos)

end

/-! ### A granted item (R62, R93) -/

/-- A staging of the same generation, its region and digest changed by an applied item or by nothing. -/
def State.StagingFollows (s t : State) (l : Lane) (o : Option ItemOutcome) : Prop :=
  (t.lane l).stagedGen = (s.lane l).stagedGen
  ∧ ((∃ m c, o = some (.applied m c) ∧ t.region l = m
      ∧ (t.lane l).stagedDigest = (s.lane l).stagedDigest.change c)
    ∨ t.region l = s.region l ∧ (t.lane l).stagedDigest = (s.lane l).stagedDigest)

theorem State.StagingKept.follows {s t : State} {l : Lane} {o : Option ItemOutcome}
    (k : s.StagingKept t l) (h : (t.lane l).state.holdsStaging = true) : s.StagingFollows t l o :=
  ⟨(k.2 h).2, .inr ⟨k.1, (k.2 h).1⟩⟩

/-- An item that changes the region changes the digest with it, and no other item does. -/
theorem State.takeOutcome_staging (s : State) (seg : Segment) (pos : Nat) (retry : Bool)
    (o : ItemOutcome) (h : ((s.takeOutcome seg pos retry o).lane seg.lane).state.holdsStaging = true) :
    s.StagingFollows (s.takeOutcome seg pos retry o) seg.lane (some o) := by
  cases o with
  | applied m c =>
    obtain ⟨u, hu⟩ : ∃ u, u = (s.setRegion seg.lane m).setLane seg.lane
      { s.lane seg.lane with stagedDigest := (s.lane seg.lane).stagedDigest.change c } := ⟨_, rfl⟩
    have htake : s.takeOutcome seg pos retry (.applied m c) = u.nextItem seg pos := by rw [hu]; rfl
    have hlane : u.lane seg.lane =
        { s.lane seg.lane with stagedDigest := (s.lane seg.lane).stagedDigest.change c } := by
      rw [hu, State.lane_setLane_same]
    rw [htake] at h ⊢
    obtain ⟨hregion, hstaging⟩ := State.StagingKept.nextItem u seg pos
    obtain ⟨hdigest, hgen⟩ := hstaging h
    refine ⟨hgen.trans (by rw [hlane]; rfl), .inl ⟨m, c, rfl, hregion.trans ?_,
      hdigest.trans (by rw [hlane])⟩⟩
    rw [hu]
    exact State.region_setRegion_same s seg.lane m
  | duplicate =>
    have hcounted := State.StagingKept.counted s seg pos
      (r := { s.lane seg.lane with duplicates := bump (s.lane seg.lane).duplicates }) rfl rfl
    exact hcounted.follows h
  | absentDrop =>
    have hcounted := State.StagingKept.counted s seg pos
      (r := { s.lane seg.lane with absentDrops := bump (s.lane seg.lane).absentDrops }) rfl rfl
    exact hcounted.follows h
  | contentError =>
    have hstopped := State.StagingKept.discardUndo (s.setEngine .empty) seg.lane .content
    exact State.StagingKept.follows (.after (u := s.setEngine .empty) rfl rfl rfl rfl hstopped) h
  | noSlot =>
    cases retry with
    | true => exact (State.StagingKept.giveUpHistory s seg pos).follows h
    | false => exact (State.StagingKept.waitForReclaim s seg pos).follows h

/-- A grant past the last item completes the segment. -/
theorem exec_applyItem_none {s : State} {seg : Segment} {pos : Nat} {retry : Bool}
    (h : s.applies seg pos retry) (ho : s.itemOutcome seg pos = none) :
    exec .applyItem s = .next ((s.granted .apply).completeSegment seg.lane seg.index) := by
  obtain ⟨hp, hg, he⟩ := h
  rw [exec_of_running hp]
  refine congrArg Host.Outcome.next ?_
  show applyItemStep s = _
  simp only [applyItemStep, hg, he, ho, if_true]

/-- What a granted item leaves of a staging that its lane still holds. -/
theorem exec_applyItem_staging {s t : State} {seg : Segment} {pos : Nat} {retry : Bool}
    (happlies : s.applies seg pos retry) (hexec : exec .applyItem s = .next t)
    (h : (t.lane seg.lane).state.holdsStaging = true) :
    s.StagingFollows t seg.lane (s.itemOutcome seg pos) := by
  cases ho : s.itemOutcome seg pos with
  | none =>
    rw [exec_applyItem_none happlies ho] at hexec
    obtain rfl := Host.Outcome.next.inj hexec
    exact (State.StagingKept.completeSegment (s.granted .apply) seg.lane seg.index).follows h
  | some o =>
    rw [exec_applyItem happlies ho] at hexec
    obtain rfl := Host.Outcome.next.inj hexec
    exact State.takeOutcome_staging (s.granted .apply) seg pos retry o h

/-! ### The outcome of an item in its lane (R64, R69) -/

theorem State.itemOutcome_applied_b {s : State} {seg : Segment} {pos : Nat} {m : Memory}
    {c : DigestChange} (hb : seg.lane = .b) (h : s.itemOutcome seg pos = some (.applied m c)) :
    ∃ free token, BlockChange (s.lane .b).stagedGen free (s.region .b) token m c := by
  unfold State.itemOutcome at h
  rw [hb] at h
  dsimp only at h
  split at h
  · next items _ =>
    obtain ⟨i, -, hi⟩ := Option.map_eq_some_iff.1 h
    exact ⟨_, _, applyBlockItem_change hi⟩
  · next items hitems => exact absurd (by rw [← hb, Segment.lane, hitems]) (show Lane.p ≠ .b from nofun)

theorem State.itemOutcome_applied_p {s : State} {seg : Segment} {pos : Nat} {m : Memory}
    {c : DigestChange} (hp : seg.lane = .p) (h : s.itemOutcome seg pos = some (.applied m c)) :
    ∃ r, m = (s.region .p).addRecord (s.lane .p).stagedGen r ∧ c = .recordIn (productWeight r) := by
  unfold State.itemOutcome at h
  rw [hp] at h
  dsimp only at h
  split at h
  · next items hitems => exact absurd (by rw [← hp, Segment.lane, hitems]) (show Lane.b ≠ .p from nofun)
  · next items _ =>
    obtain ⟨r, -, hr⟩ := Option.map_eq_some_iff.1 h
    obtain ⟨-, -, -, hm, hc⟩ := applyRecord_applied hr
    exact ⟨r, hm, hc⟩

/-- Settles O26: an applied item is a change of what S shows, and the digest follows each. -/
theorem stagedDigestFollowsBlocklist : Obligations.StagedDigestFollowsBlocklist := by
  intro s t seg pos retry happlies hb hm hdigest hexec hstaging
  rw [← hb] at hstaging
  obtain ⟨hgen, ⟨m, c, ho, hregion, hchanged⟩ | ⟨hregion, hsame⟩⟩ :=
    exec_applyItem_staging happlies hexec hstaging
  · obtain ⟨free, token, hchange⟩ := State.itemOutcome_applied_b hb ho
    rw [hb] at hgen hregion hchanged
    rw [hchanged, hgen, hregion, hchange.digest hm, ← hdigest]
  · rw [hb] at hgen hregion hsame
    rw [hsame, hgen, hregion, hdigest]

/-- Settles O27: the same for a product record. -/
theorem stagedDigestFollowsProducts : Obligations.StagedDigestFollowsProducts := by
  intro s t seg pos retry happlies hp hm hl hdigest hexec hstaging
  rw [← hp] at hstaging
  obtain ⟨hgen, ⟨m, c, ho, hregion, hchanged⟩ | ⟨hregion, hsame⟩⟩ :=
    exec_applyItem_staging happlies hexec hstaging
  · obtain ⟨r, rfl, rfl⟩ := State.itemOutcome_applied_p hp ho
    rw [hp] at hgen hregion hchanged
    have hrecords := Memory.addRecord_digest (g := (s.lane .p).stagedGen) hm hl r
    rw [hchanged, hgen, hregion, hdigest]
    exact hrecords.symm
  · rw [hp] at hgen hregion hsame
    rw [hsame, hgen, hregion, hdigest]

end Sys2Proof.Machine
end
